-- ==== Sys2Proof/Word.lean ====
section
/-! DEFINITION. The word types of the block and their plainest arithmetic. -/
namespace Sys2Proof

/-- A 32-bit register word (Register tables of chapter 00). -/
abbrev Word := BitVec 32

/-- A byte on a wire or in a record (R10). -/
abbrev Byte := BitVec 8

/-- Plain data by key, in one canonical form: keys strictly rising, no entry equal to what an unlisted key reads as. -/
abbrev Sparse (α : Type) := List (Nat × α)

end Sys2Proof
end

