-- ==== Sys2Proof/Syntax.lean ====
section
/-! DEFINITION. The commands of the block: one constructor per row of spec/opcode_table.json, in the table's order,
with the operands its rule names. A path is one of the links X0 to X7 (0 to 7) or the MGMT port (8) (R491). -/
namespace Sys2Proof


/-- Where a memory access goes: a word of an SRAM (R344), or the word of DRAM at a system address (R351). -/
inductive MemTarget
  | sram (id : Fin 64) (idx : Nat)
  | dram (sa : Nat)
deriving DecidableEq, Repr
/-- A sample as its slice delivers it: the raw code and, at a clamped one, whether the input has exceeded twice full scale at a clamped sample of its
episode so far (R105, R106). -/
structure Sample where
  code : BitVec 14
  deep : Bool
deriving DecidableEq, Repr
/-- The grid sample that a capture starts at: its instant, half ns, and, for a trigger on OVR, the run of samples around it (R116). -/
structure FirstSample where
  at_ : Nat
  around : List Sample
deriving DecidableEq, Repr
/-- Where a lane's input changes: the nanosecond of the present tick, and the interpolator's code within it (R211, R213). -/
structure EdgePlace where
  ns : Fin 25
  code : Nat
deriving DecidableEq, Repr
/-- The trims a calibration finds for a slice: offset in 1/16 code, gain and bandwidth coefficients in 2^-14, skew in 1/8 ps (R96, R519). -/
structure CalResult where
  off : Int
  gain : Nat
  hMinus : Int
  hZero : Int
  hPlus : Int
  skew : Int
deriving DecidableEq, Repr

/-- What the lock detector of a loop has counted: reference and divided feedback in each of the latest windows of 10.24 µs, oldest first; of CLKIN also
its phase against the FED grid, ps (R430, R437). Loops 0 to 4 are PLL-A to PLL-E, 5 is CLKIN. -/
structure LockCounts where
  loop : Fin 6
  windows : List (Nat × Nat)
  phase : Int
deriving DecidableEq, Repr
/-- What the lock detector of a loop judges for loss: the counts of reference and divided feedback in a window, or a reference without an edge for
100 ns (R430). -/
inductive LossSign
  | counts (ref fb : Nat)
  | noEdge
deriving DecidableEq, Repr
/-- An edge of PPS_IN: its polarity, and its instant in 1/128 ns after the present tick (R442, R444). -/
structure PpsEdge where
  falling : Bool
  sub : Fin 3200
deriving DecidableEq, Repr
/-- A rail and how far it lies below nominal, 0.1 % of nominal (R486). -/
structure RailFall where
  rail : Fin 9
  below : Nat
deriving DecidableEq, Repr
/-- The instructions of the JTAG port (R535). -/
inductive JtagInstr
  | bypass
  | idcode
  | samplePreload
  | extest
  | extestPulse
  | extestTrain
deriving DecidableEq, Repr
/-- A JTAG instruction is loaded, and the bits that a scan of its data register then takes from TDI, first to last; none when no scan follows (R535). -/
structure JtagLoad where
  instr : JtagInstr
  bits : List Bool
deriving DecidableEq, Repr

/-- The commands. Each docstring cites the rule of the row. -/
inductive Instr
  /-- MGMT_TRANSACTION (R492): CS_N held low for 88 SCLK cycles exchanges one 11-byte request and one 11-byte response frame on MGMT. -/
  | mgmtTransaction (bytes : List Byte) (cycles : Nat)
  /-- FRAME_RECEIVED (R392): A frame received on a link is accepted as a command into ring 12, acted on as MAC control, or discarded and counted. -/
  | frameReceived (x : Fin 8) (frame : List Byte) (fcsOk : Bool)
  /-- NOP (R501): Host command NOP completes at once and produces no response. -/
  | nop (path : Fin 9) (tag : Byte)
  /-- READ (R503): Host command READ returns the value of a register. -/
  | read (path : Fin 9) (tag : Byte) (addr : Word)
  /-- WRITE (R19): Host command WRITE sets a register that has no row of its own; class C fields go to the pending bank. -/
  | write (path : Fin 9) (tag : Byte) (addr data : Word)
  /-- LOW_HALF_READ (R510): A read of the low half of a 64-bit quantity copies its high half into the path's read shadow. -/
  | lowHalfRead (path : Fin 9) (tag : Byte) (addr : Word)
  /-- HIGH_HALF_READ (R510): A read of a high half returns and empties a matching shadow, or returns the live value with TORN_RISK. -/
  | highHalfRead (path : Fin 9) (tag : Byte) (addr : Word)
  /-- LOW_HALF_WRITE (R511): A write to the low half of a 64-bit RW quantity is held in the path's write shadow. -/
  | lowHalfWrite (path : Fin 9) (tag : Byte) (addr data : Word)
  /-- HIGH_HALF_WRITE (R511): A high-half write applies both halves together, or the high half alone with TORN_RISK. -/
  | highHalfWrite (path : Fin 9) (tag : Byte) (addr data : Word)
  /-- REG_STATUS_READ (R237): A read of REG_STATUS latches the channel's result registers for the requester. -/
  | regStatusRead (path : Fin 9) (tag : Byte) (addr : Word)
  /-- SNAPSHOT (R46): Host command SNAPSHOT captures every RSH field at the instant of acceptance. -/
  | snapshot (path : Fin 9) (tag : Byte)
  /-- SNAPSHOT_COPY_DONE (R46): The snapshot copy completes within 50 us, waiting RSH reads are answered and SnapshotDone sets. -/
  | snapshotCopyDone
  /-- COMMIT (R35): Host command COMMIT checks the resulting configuration and accepts it into the scheduled bank or rejects it with a reason. -/
  | commit (path : Fin 9) (tag : Byte)
  /-- DISCARD (R42): EPOCH_CTRL.Discard empties the pending bank, after Cancel when both are written. -/
  | discard (path : Fin 9) (tag : Byte) (both : Bool)
  /-- CANCEL (R42): EPOCH_CTRL.Cancel before T_c returns the scheduled changes to the pending bank. -/
  | cancel (path : Fin 9) (tag : Byte)
  /-- ABORT (R488): Host command ABORT halts the named function and leaves it STOPPED with consistent state. -/
  | abort (path : Fin 9) (tag : Byte) (kind inst : Byte)
  /-- ABORT_COMPLETE (R488): An abort reaches its end within its bound, the function is STOPPED and the response is given. -/
  | abortComplete (kind inst : Byte)
  /-- START (R488): Host command START runs the named function again. -/
  | start (path : Fin 9) (tag : Byte) (kind inst : Byte)
  /-- STOP (R488): Host command STOP acts as ABORT, or moves a ring to DRAINING. -/
  | stop (path : Fin 9) (tag : Byte) (kind inst : Byte)
  /-- SET_STATE (R475): Host command SET_STATE begins a move to another power state or is refused. -/
  | setState (path : Fin 9) (tag : Byte) (target : Byte)
  /-- STATE_ENTRY_COMPLETE (R476): Entry into the requested power state completes and the SET_STATE response is given. -/
  | stateEntryComplete
  /-- LOAD_IMAGE (R507): Host command LOAD_IMAGE stages a chunk of the host buffer into the image staging store. -/
  | loadImage (path : Fin 9) (tag : Byte) (addr data : Word)
  /-- HOST_IMAGE_VALIDATED (R473): Validation of a fully staged host image ends; a VALID image continues start-up from S5 and ImageDone sets. -/
  | hostImageValidated
  /-- FLASH_READ (R508): Host command FLASH_READ reads flash bytes into the host buffer. -/
  | flashRead (path : Fin 9) (tag : Byte) (addr data : Word)
  /-- FLASH_ERASE (R508): Host command FLASH_ERASE erases a 4 KiB or 64 KiB flash block. -/
  | flashErase (path : Fin 9) (tag : Byte) (addr data : Word)
  /-- FLASH_WRITE (R508): Host command FLASH_WRITE programs one flash page from the host buffer and verifies it. -/
  | flashWrite (path : Fin 9) (tag : Byte) (addr data : Word)
  /-- FLASH_COMMAND_DONE (R508): A flash operation finishes, its result is queued and FlashDone sets. -/
  | flashCommandDone (latched : Bool) (back : List Byte)
  /-- FLASH_TIMEOUT (R505): A flash command exceeding its limit ends with FAILED and Detail 2. -/
  | flashTimeout (back : List Byte)
  /-- RETIRE_ROW (R358): Host command RETIRE_ROW remaps a DRAM row onto a spare row and starts copying it. -/
  | retireRow (path : Fin 9) (tag : Byte) (addr data : Word)
  /-- ROW_COPY_DONE (R358): The copy of a retired row to its spare row completes. -/
  | rowCopyDone (ch : Fin 2)
  /-- CLEAR_ALARM (R401): Host command CLEAR_ALARM clears the latch of every occurrence raised before acceptance. -/
  | clearAlarm (path : Fin 9) (tag : Byte)
  /-- REPEAT (R496): Host command REPEAT returns the path's last delivered response again. -/
  | repeatLast (path : Fin 9) (tag : Byte)
  /-- FUSE_PROGRAM (R509): Host command FUSE_PROGRAM burns the key-hash fuse or the lock fuse. -/
  | fuseProgram (path : Fin 9) (tag : Byte) (addr data : Word)
  /-- FUSE_BURN_DONE (R509): A fuse is burned and read back, and the result is queued. -/
  | fuseBurnDone (back : List Byte)
  /-- HOST_SOFT_RESET (R481): A write of 0xA5C3 to RESET_CTRL.Key schedules a host soft reset 1 ms after its response. -/
  | hostSoftReset (path : Fin 9) (tag : Byte)
  /-- SOFT_RESET_BEGIN (R481): The 1 ms delay after a RESET_CTRL write expires and the host soft reset begins. -/
  | softResetBegin
  /-- SYS_WDOG_KICK (R484): A write of 0x5A5A with HostKick = 1 restarts the system watchdog. -/
  | sysWdogKick (path : Fin 9) (tag : Byte) (key : Word)
  /-- TIME_ARM (R444): TIME_ARM.Arm arms TIME_LABEL for the first PPS edge accepted 100 ms or more later. -/
  | timeArm (path : Fin 9) (tag : Byte) (data : Word)
  /-- CAPTURE_ARM (R115): CAP_CTRL.Arm arms the port's raw-capture engine or refuses with an error. -/
  | captureArm (path : Fin 9) (tag : Byte) (p : Fin 4) (data : Word)
  /-- CAPTURE_STOP (R117): CAP_CTRL.Stop ends a raw capture and emits the record in progress. -/
  | captureStop (path : Fin 9) (tag : Byte) (p : Fin 4) (data : Word) (samples : List Sample)
  /-- CAPTURE_START (R116): The armed raw capture's trigger occurs and capture begins. -/
  | captureStart (p : Fin 4) (first : FirstSample)
  /-- CAPTURE_COMPLETE (R117): A raw capture has produced CAP_LEN.Total samples and ends. -/
  | captureComplete (p : Fin 4) (samples : List Sample)
  /-- FE_CLEAR (R109): FE_CLEAR.ClearOvr zeroes the port's four OVR counts. -/
  | feClear (path : Fin 9) (tag : Byte) (p : Fin 4) (data : Word)
  /-- TL_CLEAR (R218): TL_CLEAR.ClearCounts zeroes every lane count and START_STAT. -/
  | tlClear (path : Fin 9) (tag : Byte) (data : Word)
  /-- PT_CLEAR (R273): PT_CLEAR.ClearCounts zeroes HIST_LANE_CNT, PT_CNT_A and PT_CNT_B. -/
  | ptClear (path : Fin 9) (tag : Byte) (data : Word)
  /-- MC_CLEAR_COUNTS (R362): MC_CTRL.ClearCounts zeroes CE_COUNT and UE_COUNT. -/
  | mcClearCounts (path : Fin 9) (tag : Byte) (blk : Fin 3) (data : Word)
  /-- MC_RETRAIN (R368): MC_CTRL.Retrain triggers a full retrain of the channel. -/
  | mcRetrain (path : Fin 9) (tag : Byte) (ch : Fin 2) (data : Word)
  /-- BANK_SWAP (R244): EMT_BANK.Swap starts validation of the idle frame-memory bank. -/
  | bankSwap (path : Fin 9) (tag : Byte) (data : Word)
  /-- BANK_VALIDATION_DONE (R244): Validation of the idle bank ends; the bank waits for frame sync or Error is set. -/
  | bankValidationDone
  /-- FRAME_MEMORY_WRITE (R243): A host write to the frame-memory window reaches the idle bank or is refused. -/
  | frameMemoryWrite (path : Fin 9) (tag : Byte) (addr data : Word)
  /-- PEEK_POS_WRITE (R147): A write to PEEK_POS clears Ready and requests a copy of a position's state. -/
  | peekPosWrite (path : Fin 9) (tag : Byte) (p : Fin 4) (data : Word)
  /-- PEEK_COPY_DONE (R147): The 28 bytes of the position are copied into PEEK_DATA and Ready sets. -/
  | peekCopyDone (p : Fin 4)
  /-- MEM_DATA_ACCESS (R335): A MEM_DATA access reads or writes core memory at MEM_ADDR and advances the address. -/
  | memDataAccess (path : Fin 9) (tag : Byte) (core : Fin 16) (write : Bool) (data : Word)
  /-- EVENT_CAPTURE_TRIGGER (R171): A write of CAPEV_CTRL.Trigger triggers an event capture at the write's device time. -/
  | eventCaptureTrigger (path : Fin 9) (tag : Byte) (p : Fin 4) (data : Word)
  /-- CAL_CMD_COHERENT (R517): CAL_CMD.Coherent makes the coherent-slice calibration due on the named ports. -/
  | calCmdCoherent (path : Fin 9) (tag : Byte) (data : Word)
  /-- CAL_CMD_RAMAN (R517): CAL_CMD.Raman makes the Raman-slice calibration due on the named ports. -/
  | calCmdRaman (path : Fin 9) (tag : Byte) (data : Word)
  /-- CAL_CMD_TDC (R517): CAL_CMD.Tdc makes the TDC-table calibration due on every enabled lane. -/
  | calCmdTdc (path : Fin 9) (tag : Byte) (data : Word)
  /-- CAL_CMD_THRESH (R517): CAL_CMD.Thresh makes the threshold trim due on every enabled lane. -/
  | calCmdThresh (path : Fin 9) (tag : Byte) (data : Word)
  /-- CORE_MBOX_IN_WRITE (R318): A host write to CORE_MBOX_IN delivers mail and sets interrupt source 10. -/
  | coreMboxInWrite (path : Fin 9) (tag : Byte) (core : Fin 16) (data : Word)
  /-- EPOCH_SWITCH (R37): At T_c the epoch increments and functions switching at T_c take the scheduled configuration. -/
  | epochSwitch
  /-- WAKE_EPOCH_BOUNDARY (R86): At t_w + Lead the wake epoch's boundary falls and functions switch. -/
  | wakeEpochBoundary
  /-- SHOT_LAUNCH (R54): A fibre port's shot boundary falls and tone 0 launches; the port switches epoch here. -/
  | shotLaunch (p : Fin 4) (phase : Int)
  /-- TONE_LAUNCH (R53): Tone k launches at its launch offset after the shot boundary. -/
  | toneLaunch (p : Fin 4) (k : Fin 8)
  /-- PGATE_OPEN (R65): PGATE becomes active PgateLead before a tone launch. -/
  | pgateOpen (p : Fin 4)
  /-- PGATE_CLOSE (R65): PGATE becomes inactive PgateLag after the last open gate interval ends. -/
  | pgateClose (p : Fin 4)
  /-- RTRIG_RELEASE (R66): RTRIG returns inactive after RamanWidth. -/
  | rtrigRelease (p : Fin 4)
  /-- TONE_WINDOW_OPEN (R62): Tone k's acquisition window opens at o_k + d after the boundary. -/
  | toneWindowOpen (p : Fin 4) (k : Fin 8)
  /-- TONE_WINDOW_CLOSE (R62): Tone k's acquisition window closes after L_w. -/
  | toneWindowClose (p : Fin 4) (k : Fin 8) (x y : List Sample)
  /-- RAMAN_WINDOW_OPEN (R67): The Raman window opens RamanDelay after the RTRIG assertion. -/
  | ramanWindowOpen (p : Fin 4)
  /-- RAMAN_WINDOW_CLOSE (R180): The Raman window closes and the shot is included in or excluded from the accumulation. -/
  | ramanWindowClose (p : Fin 4) (ra rs : List Sample)
  /-- COMPLETION_PASS_DONE (R181): The completion pass has visited every bin and the DTS set leaves the unit. -/
  | completionPassDone (p : Fin 4)
  /-- SYNC_IN_PULSE (R69): A qualifying SYNC_IN pulse ends and is accepted or ignored as an event for external start. -/
  | syncInPulse (width : Nat) (sub : Fin 25)
  /-- EXT_EVENT_TIMEOUT (R71): No event within T_shot + 1 us; the port takes that instant as its event and increments Missed. -/
  | extEventTimeout (p : Fin 4)
  /-- REF_LEAD_COMPLETE (R110): The reference buffer and slices have run 2.0 ms and RefReady sets. -/
  | refLeadComplete (p : Fin 4)
  /-- REF_POWER_DOWN (R111): 1 ms after the last window closes the buffer and slices power down. -/
  | refPowerDown (p : Fin 4)
  /-- FUSION_UPDATE (R136): A gauge product of a slot sample updates the position's offsets, quality weights and fused phase. -/
  | fusionUpdate (p : Fin 4)
  /-- FUSED_ITEM (R144): An item of a slot sample is delivered to the DAS product unit and processed by each range. -/
  | fusedItem (p : Fin 4)
  /-- BAND_WINDOW_CLOSE (R158): A band window closes and one band-energy set is emitted. -/
  | bandWindowClose (p : Fin 4) (r : Fin 16)
  /-- BACKSCATTER_TRACE (R169): Once per second a backscatter trace is emitted on ring 15. -/
  | backscatterTrace (p : Fin 4)
  /-- CAPTURE_SELECTION_END (R172): The selection of an event capture ends at t_trig + Post or the 60 s limit. -/
  | captureSelectionEnd (p : Fin 4)
  /-- CAPTURE_READOUT_DONE (R170): The selected sets have been read out to ring 10 and the 0x0702 summary follows. -/
  | captureReadoutDone (p : Fin 4)
  /-- SENTINEL_BURST_LEAD (R82): Lead before a burst, PLL-A, PLL-B, PLL-C and the watch ports' buffers start. -/
  | sentinelBurstLead
  /-- SENTINEL_BURST_START (R83): At t_b the burst's shot 0 launches, or the burst is skipped if DRAM is not ready. -/
  | sentinelBurstStart
  /-- BURST_DRAIN_DONE (R82): The burst's products are drained, DRAM enters self-refresh and the loops stop. -/
  | burstDrainDone
  /-- WAKE_PIN_EDGE (R85): An edge on WAKE held for 1 us wakes the device from SENTINEL. -/
  | wakePinEdge (level : Bool)
  /-- AUX_SCAN_START (R197): A thermocouple scan begins and the converter switches epoch. -/
  | auxScanStart
  /-- BURNOUT_PULSE_END (R199): A burn-out pulse ends, is judged open or not, and releases the preceding conversion. -/
  | burnoutPulseEnd (k : Fin 4) (rise : Int)
  /-- AUX_CONVERSION_END (R197): A thermocouple or cold-junction conversion ends. -/
  | auxConversionEnd (slot : Fin 5) (value : BitVec 32)
  /-- ZONE_UPDATE (R205): At each 100 ms multiple every zone takes its source value and drives a new code. -/
  | zoneUpdate (mv : Nat)
  /-- VRATIO_LOW (R546): V_RATIO below 2.25 V drives every zone to 0 V with Lost = 1. -/
  | vratioLow
  /-- LANE_EDGE (R211): A lane edge is accepted and stamped, or suppressed by the hold-off. The input reaches `uv` µV in nanosecond `ns` of the
tick, at interpolator code `code`. -/
  | laneEdge (l : Fin 266) (place : EdgePlace) (uv : Int)
  /-- START_SEARCH_END (R217): The start search window closes; a shot without a start discards its stops and counts a miss. -/
  | startSearchEnd (e : Fin 8)
  /-- REGRESSION_FIT (R225): A channel's gate fit completes with a period, phase and jitter. -/
  | regressionFit (c : Fin 16)
  /-- GATE_STALE (R227): No edge for 4 periods empties the gate and sets Stale. -/
  | gateStale (c : Fin 16)
  /-- SYNC_EDGE_TIMEOUT (R232): No sync edge within 1.5 periods returns a scan port to SEARCH. -/
  | syncEdgeTimeout (k : Fin 2)
  /-- LINE_EVENT (R231): A scan line starts, its instants for the next line are computed and a frame event may issue. -/
  | lineEvent (k : Fin 2)
  /-- FRAME_SYNC (R247): Frame sync starts the active bank's program at line 0. -/
  | frameSync
  /-- WALKING_PATTERN_TEST (R262): The adjacent-pin short test runs on all emitter ports in a blanking. -/
  | walkingPatternTest (low : List (Fin 8 × Fin 19)) (high : List (Fin 8 × Fin 19 × Fin 8 × Fin 19))
  /-- LINE_PRECHARGE (R252): Step 1 of a line: PCHG asserts and BYP take the line's pattern, or the line is skipped. -/
  | linePrecharge (stat : BitVec 8)
  /-- PCHG_FALL (R252): PCHG falls Settle before the line instant. -/
  | pchgFall (e : Fin 8)
  /-- SHOT_FIRE (R252): FIRE rises for a shot at its planned fire instant. -/
  | shotFire (e : Fin 8)
  /-- FIRE_FALL (R252): FIRE falls FireWidth after rising. -/
  | fireFall (e : Fin 8)
  /-- CANDIDATE_SEARCH (R276): The candidate search runs on phase-1 counts and opens zoom windows. -/
  | candidateSearch (e : Fin 8)
  /-- FINAL_SEARCH (R280): The final search finds, refines and classifies returns and the point's records are emitted. -/
  | finalSearch (e : Fin 8)
  /-- ISOLATION_SEQUENCE (R265): Sixteen diagnostic firings locate an open segment in a qualifying blanking. -/
  | isolationSequence (e : Fin 8)
  /-- DIAGNOSTIC_FIRING (R266): A low-duty segment receives one diagnostic firing in a blanking. -/
  | diagnosticFiring (e : Fin 8) (k : Fin 16)
  /-- SHORT_TEST_STALE (R263): No walking test for 10 s while a port runs raises the alarm. -/
  | shortTestStale
  /-- BREW_NOP (R307): A no-operation instruction. -/
  | brewNop (n : Fin 16)
  /-- ADD (R307): Wd = Wa + Wb, optionally saturating. -/
  | add (n : Fin 16)
  /-- SUB (R307): Wd = Wa - Wb, optionally saturating. -/
  | sub (n : Fin 16)
  /-- AND (R307): Bitwise AND. -/
  | andW (n : Fin 16)
  /-- OR (R307): Bitwise OR. -/
  | orW (n : Fin 16)
  /-- XOR (R307): Bitwise XOR. -/
  | xor (n : Fin 16)
  /-- SHL (R307): Shift left. -/
  | shl (n : Fin 16)
  /-- SHRA (R307): Arithmetic shift right. -/
  | shra (n : Fin 16)
  /-- SHRL (R307): Logical shift right. -/
  | shrl (n : Fin 16)
  /-- MIN (R307): Signed or unsigned minimum. -/
  | minW (n : Fin 16)
  /-- MAX (R307): Signed or unsigned maximum. -/
  | maxW (n : Fin 16)
  /-- SLT (R307): Set if less than. -/
  | slt (n : Fin 16)
  /-- SEQ (R307): Set if equal. -/
  | seq (n : Fin 16)
  /-- ABS (R307): Saturating absolute value. -/
  | absW (n : Fin 16)
  /-- ADD2 (R307): Add per s16 half. -/
  | add2 (n : Fin 16)
  /-- SUB2 (R307): Subtract per s16 half. -/
  | sub2 (n : Fin 16)
  /-- MOVT (R307): Move a W register to an address register. -/
  | movt (n : Fin 16)
  /-- MOVF (R307): Move an address register to a W register. -/
  | movf (n : Fin 16)
  /-- CLZ (R307): Count leading zeros. -/
  | clz (n : Fin 16)
  /-- CMAC (R304): Complex multiply-accumulate into an accumulator. -/
  | cmac (n : Fin 16)
  /-- CMSB (R304): Complex multiply-subtract from an accumulator. -/
  | cmsb (n : Fin 16)
  /-- CMUL (R304): Complex multiply into an accumulator. -/
  | cmul (n : Fin 16)
  /-- DMAC (R304): Dual multiply-accumulate with a shared operand. -/
  | dmac (n : Fin 16)
  /-- QMAC (R304): Four products into two accumulators. -/
  | qmac (n : Fin 16)
  /-- MUL32 (R304): 32 x 32 multiply into a register pair. -/
  | mul32 (n : Fin 16)
  /-- RDACC (R305): Read an accumulator rounded and saturated into a W register. -/
  | rdacc (n : Fin 16)
  /-- ACCGET (R305): Read a portion of an accumulator. -/
  | accget (n : Fin 16)
  /-- ACCPUT (R305): Write a portion of an accumulator. -/
  | accput (n : Fin 16)
  /-- LD16 (R308): Load a sign-extended s16. -/
  | ld16 (n : Fin 16)
  /-- LD32 (R308): Load a word. -/
  | ld32 (n : Fin 16)
  /-- LD64 (R308): Load a register pair. -/
  | ld64 (n : Fin 16)
  /-- ST16 (R308): Store 16 bits. -/
  | st16 (n : Fin 16)
  /-- ST32 (R308): Store a word. -/
  | st32 (n : Fin 16)
  /-- ST64 (R308): Store a register pair. -/
  | st64 (n : Fin 16)
  /-- MOVI (R309): Load an immediate. -/
  | movi (n : Fin 16)
  /-- ADDI (R309): Add an immediate. -/
  | addi (n : Fin 16)
  /-- SETA (R309): Set an address register to an immediate. -/
  | seta (n : Fin 16)
  /-- BR (R309): Conditional branch with two delay slots. -/
  | br (n : Fin 16)
  /-- CALL (R309): Branch and save the return index. -/
  | call (n : Fin 16)
  /-- JR (R309): Branch to a register's index. -/
  | jr (n : Fin 16)
  /-- DBNZ (R309): Decrement and branch if not zero. -/
  | dbnz (n : Fin 16)
  /-- RPT (R315): Zero-overhead repeat of the following block, with optional window rotation. -/
  | rpt (n : Fin 16)
  /-- SETWSL (R309): Set the window slide register. -/
  | setwsl (n : Fin 16)
  /-- EI (R309): Enable interrupts. -/
  | ei (n : Fin 16)
  /-- DI (R309): Disable interrupts. -/
  | di (n : Fin 16)
  /-- RETI (R319): Return from interrupt, restoring WSL and setting IE. -/
  | reti (n : Fin 16)
  /-- RACQ (R329): Request ring-port credit for a record. -/
  | racq (n : Fin 16)
  /-- RING_CREDIT_GRANTED (R329): The ring head can take the record and the waiting RACQ returns OK. -/
  | ringCreditGranted (n : Fin 16)
  /-- RACQ_TIMEOUT (R329): No space within Timeout; RACQ returns TIMEOUT and a lost record is counted. -/
  | racqTimeout (n : Fin 16)
  /-- RCOM (R330): Commit a record into the credited ring space. -/
  | rcom (n : Fin 16)
  /-- RCOM_COPY_DONE (R330): The record copy completes and its sequence is assigned. -/
  | rcomCopyDone (n : Fin 16)
  /-- RREL (R330): Release held credit. -/
  | rrel (n : Fin 16)
  /-- HALT (R309): The core enters HALTED. -/
  | halt (n : Fin 16)
  /-- WFI (R309): The core sleeps until an enabled interrupt is pending. -/
  | wfi (n : Fin 16)
  /-- WFI_WAKE (R309): An enabled interrupt becomes pending and a sleeping core resumes. -/
  | wfiWake (n : Fin 16)
  /-- SWI (R309): Sets pending interrupt source 14. -/
  | swi (n : Fin 16)
  /-- INTERRUPT_ENTRY (R319): A pending enabled source is taken and the core enters its handler. -/
  | interruptEntry (n : Fin 16)
  /-- NMI_ENTRY (R321): An error raises the NMI, or FAULTS the core on IFETCH or DOUBLE. -/
  | nmiEntry (n : Fin 16)
  /-- CORE_WATCHDOG_EXPIRY (R322): No Kick within Wdog x 0.1 ms raises WATCHDOG. -/
  | coreWatchdogExpiry (n : Fin 16)
  /-- CORE_TIMER_EXPIRY (R318): The core's periodic timer expires and sets source 8. -/
  | coreTimerExpiry (n : Fin 16)
  /-- KICK (R322): SIGNAL.Kick restarts the core watchdog and, if masked in, the system watchdog. -/
  | kick (n : Fin 16)
  /-- DOORBELL (R318): SIGNAL.Doorbell sets source 9 on the named cores. -/
  | doorbell (n : Fin 16)
  /-- ALARM_RAISE (R332): A write to ALARM_RAISE passes a firmware alarm to the alarm unit. -/
  | alarmRaise (n : Fin 16)
  /-- DMA_GO (R324): DMA_CTRL.Go checks and starts a transfer. -/
  | dmaGo (n : Fin 16) (c : Fin 4)
  /-- DMA_DONE (R325): The last byte is written and Done sets. -/
  | dmaDone (n : Fin 16) (c : Fin 4)
  /-- STREAM_RECORD_OFFER (R327): A produced record is matched by a stream port and accepted into its buffer or dropped. -/
  | streamRecordOffer (n : Fin 16) (q : Fin 4)
  /-- SP_RP_WRITE (R327): A write to SP_RP frees buffer space unless it would exceed the buffer. -/
  | spRpWrite (n : Fin 16) (q : Fin 4)
  /-- CORE_ABORT_ACCEPT (R337): ABORT of a core is accepted at the next instruction boundary not held off. -/
  | coreAbortAccept (n : Fin 16)
  /-- MEMORY_READ (R342): A memory read completes and is decoded as CLEAN, CORRECTED, POISONED, ADDRESS or UNCORRECTABLE. -/
  | memoryRead (req : Byte) (target : MemTarget) (reached : Option Nat) (flips : BitVec 80) (newer : Bool)
  /-- WRITE_CRC_ERROR (R361): A DDR5 device signals a write-CRC error and the burst is resent or written poisoned. -/
  | writeCrcError (ch : Fin 2) (sa : Nat) (req : Byte) (again : Bool)
  /-- PATROL_READ (R375): The patrol engine reads the next word. -/
  | patrolRead (blk : Fin 3) (flips : BitVec 80)
  /-- REPEAT_ENTRY_EXPIRY (R357): A repeat-table entry expires 24 h after its first correction. -/
  | repeatEntryExpiry (blk : Fin 3) (ent : Fin 32)
  /-- REFRESH (R363): An all-bank refresh falls due at tREFI. -/
  | refresh (ch : Fin 2) (issued : Fin 6)
  /-- MR4_POLL (R363): MR4 of every device is read and the refresh rate is adjusted. -/
  | mr4Poll (ch : Fin 2) (doubled quadrupled : Bool)
  /-- DQS_OSCILLATOR_READ (R367): The interval oscillators are read and timing moved; drift may trigger a retrain. -/
  | dqsOscillatorRead (ch : Fin 2) (drift : Bool)
  /-- RETRAIN_STEP (R369): One in-service retrain step of at most 2 us runs. -/
  | retrainStep (ch : Fin 2)
  /-- RETRAIN_ATTEMPT_DONE (R369): A retrain attempt ends in success or failure; three failures FAIL the channel. -/
  | retrainAttemptDone (ch : Fin 2) (ok : Bool)
  /-- MEMORY_MODE_SWITCH (R370): The device completes its switch to single-channel or DRAM-less mode. -/
  | memoryModeSwitch
  /-- PRIORITY_SCRUB_DONE (R373): The priority scrub after PLL-C relock completes. -/
  | priorityScrubDone (ch : Fin 2)
  /-- DATAGRAM_CLOSE (R387): The drain closes a datagram, numbers it and gives it to a link. -/
  | datagramClose (r : Fin 16)
  /-- FLUSH_TIMEOUT (R387): The first packed record has waited FlushUs and the datagram closes. -/
  | flushTimeout (r : Fin 16)
  /-- AGE_LIMIT_EXPIRY (R383): A record not yet in a numbered datagram reaches AgeLimit and is discarded. -/
  | ageLimitExpiry (r : Fin 16)
  /-- DATAGRAM_AGE_EXPIRY (R383): A numbered datagram not begun 200 ms after its first record's offer is discarded. -/
  | datagramAgeExpiry (x : Fin 8)
  /-- FRAME_BEGIN (R389): At a frame boundary a link begins its next frame in priority order. -/
  | frameBegin (x : Fin 8)
  /-- FRAME_COMPLETE (R389): A frame's transmission completes. -/
  | frameComplete (x : Fin 8)
  /-- PAUSE_FRAME (R393): A received PAUSE frame stops the link beginning frames for its quanta. -/
  | pauseFrame (x : Fin 8) (quanta : Nat)
  /-- PFC_FRAME (R393): A received PFC frame for class Pcp pauses the link. -/
  | pfcFrame (x : Fin 8) (enabled : Byte) (quanta : Nat)
  /-- PAUSE_TIMER_EXPIRY (R393): The pause time runs out and the link may begin frames. -/
  | pauseTimerExpiry (x : Fin 8)
  /-- LINK_STALLED (R394): A link held for StallMs becomes STALLED and its queued datagrams move. -/
  | linkStalled (x : Fin 8)
  /-- LINK_RECOVERED (R394): A stalled link able to begin frames for 1 ms recovers. -/
  | linkRecovered (x : Fin 8)
  /-- LINK_UP (R393): The link's PCS and RS-FEC gain lock and the link is UP. -/
  | linkUp (x : Fin 8)
  /-- LINK_DOWN (R393): The link loses lock or reports a fault and goes DOWN. -/
  | linkDown (x : Fin 8) (remote : Bool)
  /-- RING_DRAINED (R380): A DRAINING ring's head, body and assembly are empty and it becomes STOPPED. -/
  | ringDrained (r : Fin 16)
  /-- ALARM_WINDOW_CLOSE (R399): At each whole second the alarm window closes and summaries are produced. -/
  | alarmWindowClose
  /-- BLOCK_CLOSE (R407): A Crema engine closes a block. -/
  | blockClose (r : Fin 16)
  /-- BLOCK_FLUSH_TIMEOUT (R407): The block's first record has waited FlushUs and the block closes. -/
  | blockFlushTimeout (r : Fin 16)
  /-- BLOCK_VERIFY_DONE (R418): The paired decompressor's check of a block completes. -/
  | blockVerifyDone (r : Fin 16) (upset : Option (Nat × Byte))
  /-- ENGINE_RESUME (R420): Room appears in a stalled engine's output buffer and it resumes. -/
  | engineResume (e : Fin 8)
  /-- CRYSTAL_RUNNING (R428): The crystal gives 1,024 good edges and counts as running; S1 ends. -/
  | crystalRunning (cycles : Nat)
  /-- XTAL_START_TIMEOUT (R428): The crystal is not running 10 ms after S1 began; fatal reset XTAL_LOSS. -/
  | xtalStartTimeout
  /-- XTAL_LOSS (R428): A gap of 8 AON cycles without a crystal edge causes a fatal reset. -/
  | xtalLoss
  /-- AON_PERIOD_MEASURE (R427): Every 10 s the AON period is measured against the crystal. -/
  | aonPeriodMeasure (ps : Nat)
  /-- LOOP_LOCK_DECLARED (R430): A loop is declared locked and its output gates reopen. -/
  | loopLockDeclared (c : LockCounts)
  /-- LOOP_LOSS_DECLARED (R430): A locked loop is declared lost and its consumers are gated. -/
  | loopLossDeclared (k : Fin 6) (why : LossSign)
  /-- ACQUISITION_TIMEOUT (R432): A loop without lock within 1 ms restarts acquisition; the eighth failure is LOOP_FAIL. -/
  | acquisitionTimeout (k : Fin 6)
  /-- PPS_EDGE (R442): A PPS_IN edge is accepted or rejected and its phase error closed. -/
  | ppsEdge (edge : PpsEdge)
  /-- PPS_LOSS_TIMEOUT (R442): No accepted PPS edge within 1.1 s loses PPS_IN. -/
  | ppsLossTimeout
  /-- PPS_REJECTED_REPORT (R442): At the close of a second with rejected edges PPS_REJECTED is raised. -/
  | ppsRejectedReport
  /-- TIME_STEP (R446): At W device time steps by -epsilon and a 0x0902 record leaves. -/
  | timeStep
  /-- SLEW_COMPLETE (R445): A slew's change in sigma reaches -epsilon and the slew ends. -/
  | slewComplete
  /-- DAILY_MEAN (R449): A 86,400 s mean of c is formed and the ageing slope refitted. -/
  | dailyMean
  /-- PPS_OUT_RISE (R452): PPS_OUT rises at a whole second of device time. -/
  | ppsOutRise
  /-- PPS_OUT_FALL (R452): PPS_OUT falls 100 ms after it rose. -/
  | ppsOutFall
  /-- SYNC_OUT_PULSE (R453): SYNC_OUT emits a pulse at its scheduled instant. -/
  | syncOutPulse
  /-- TIME_STATE_RECORD (R455): A 0x0903 record is emitted at each TimeRecSec multiple. -/
  | timeStateRecord
  /-- POWER_ON_RESET (R481): VDD_AON rising through its reset level resets everything. -/
  | powerOnReset
  /-- PIN_RESET (R481): RESET_N low for 1 us or longer resets the device. -/
  | pinReset
  /-- RESET_N_RELEASE (R458): RESET_N is released with all rails good and S1 begins. -/
  | resetNRelease
  /-- SRAM_FILL_DONE (R345): The SRAM start-up fill completes (S3). -/
  | sramFillDone (bad : Option (Fin 64 × Nat))
  /-- IMAGE_VALIDATION_DONE (R471): The slot read and validation of S4 ends with a VALID slot or HOLD. -/
  | imageValidationDone
  /-- SECTIONS_APPLIED (R458): Sections are applied and epoch-0 checks pass (S5). -/
  | sectionsApplied
  /-- TRAINING_DONE (R366): DDR5 training completes or a channel fails after three attempts (S7). -/
  | trainingDone (ok0 ok1 : Bool)
  /-- DRAM_FILL_DONE (R366): The DRAM fill completes (S8). -/
  | dramFillDone (bad0 bad1 : Option Nat)
  /-- STARTUP_PASS_DONE (R518): The Roaster start-up pass completes (S9). -/
  | startupPassDone (res : List (List CalResult)) (widths : List (List Nat)) (steps : List Int)
  /-- RELEASE (R459): S11 completes and every consumer is released as epoch 0. -/
  | release
  /-- WATCHDOG_EXPIRY (R484): The system watchdog expires and causes a watchdog reset. -/
  | watchdogExpiry
  /-- WDOG_WARN (R484): Half the watchdog period passes without restart and WDOG_WARN is raised. -/
  | wdogWarn
  /-- MARKED_RESTART (R477): At t_x + 3.0 ms after leaving QUIESCENT the marked functions restart. -/
  | markedRestart
  /-- SUSPEND_WAKE (R478): A WAKE edge or MGMT chip select wakes the device from SUSPEND. -/
  | suspendWake (cs level : Bool)
  /-- SUSP_TIMER_EXPIRY (R478): SUSP_TIMER expires and wakes the device from SUSPEND. -/
  | suspTimerExpiry
  /-- SUSPEND_EXIT_DONE (R479): Exit from SUSPEND completes and the device enters WakeTo. -/
  | suspendExitDone
  /-- DIE_TEMP_UPDATE (R485): The junction sensors renew DIE_TEMP and may raise DIE_HOT or make calibration due. -/
  | dieTempUpdate (temp : BitVec 16)
  /-- OVER_TEMP (R485): Junction above 125 C for 1 ms causes a fatal reset held until below 115 C. -/
  | overTemp
  /-- RAIL_BELOW_WARNING (R487): A rail falls below its warning level and SUPPLY_WARN is raised. -/
  | railBelowWarning (rail : Fin 9) (level : Nat)
  /-- SUPPLY_OK (R487): A rail has been above warning plus hysteresis for 1 ms. -/
  | supplyOk (rail : Fin 9)
  /-- RAIL_BELOW_RESET (R487): A rail falls below its reset level and resets the device. -/
  | railBelowReset (fall : RailFall)
  /-- JTAG_INSTRUCTION (R535): A JTAG instruction is loaded; EXTEST instructions hold the device in reset. -/
  | jtagInstruction (load : JtagLoad)
  /-- CAL_INTERVAL_EXPIRY (R517): Interval minutes since a unit's calibration make it due. -/
  | calIntervalExpiry (item : Fin 5) (unit : Fin 266)
  /-- CAL_STEP_START (R516): A due calibration unit starts in a fitting gap. -/
  | calStepStart (p : Fin 4) (raman : Bool)
  /-- CAL_FORCE_TIMEOUT (R521): A pass has waited ForceAfter seconds and is forced at the next shot boundary. -/
  | calForceTimeout (p : Fin 4) (raman : Bool)
  /-- CAL_PASS_DONE (R519): A calibration pass ends; its result is accepted and applied or CAL_FAILED is raised. -/
  | calPassDone (p : Fin 4) (raman : Bool) (res : List CalResult)
  /-- TDC_TABLE_READY (R524): A lane has collected 2^18 edges and its new table is ready. -/
  | tdcTableReady (l : Fin 266) (widths : List Nat)
  /-- TDC_SOURCE_SWITCH (R524): Under automatic source, a lane short of edges after 10 s switches to internal pulses. -/
  | tdcSourceSwitch (l : Fin 266)
  /-- TDC_TABLE_LOAD (R525): A ready table loads in the last 2 us of a blanking, the lane blind. -/
  | tdcTableLoad (l : Fin 266)
  /-- THRESHOLD_TRIM (R526): A lane's threshold is trimmed in a blanking over 20 us. -/
  | thresholdTrim (l : Fin 266) (steps : Int)
  /-- RAILS_ABOVE_RESET_LEVEL (R487): Every rail has been above its reset level plus hysteresis for 1 ms, which ends the reset hold so that S1 can begin. -/
  | railsAboveResetLevel
  /-- REF10M_EDGE (R224): An edge of REF10M is stamped and indexed into regression channel 2. -/
  | ref10mEdge (sub : Fin 3200)
  /-- SDRV_EDGE (R233): SDRV toggles at its next scheduled edge and spreads any change of period or phase over at most 1/256 of a period. -/
  | sdrvEdge (k : Fin 2)
  /-- GATED_ACCESS_TIMEOUT (R503): A register access that has waited 1 ms for a gated loop completes with Status BUSY. -/
  | gatedAccessTimeout
  /-- SELF_REFRESH_EXIT (R374): A DRAM channel completes its exit from self-refresh, about 200 us after PLL-C locks, and becomes ready. -/
  | selfRefreshExit (ch : Fin 2) (moved : Bool)
  /-- STREAM_RECORD_WRITTEN (R327): An accepted stream-port record finishes writing into the buffer, WP advances and the watermark source may set. -/
  | streamRecordWritten (n : Fin 16) (q : Fin 4)
  /-- PRBS_BIT_ERROR (R529): The PRBS31 checker detects a received bit error and PRBS_ERR increments. -/
  | prbsBitError (x : Fin 8)
  /-- PRBS_CHECKER_RESYNC (R529): The PRBS31 checker regains synchronisation after 31 error-free bits. -/
  | prbsCheckerResync (x : Fin 8)
deriving DecidableEq, Repr

end Sys2Proof
end

