-- ==== Sys2Proof/Machine/Arith.lean ====
section
/-! DEFINITION. The arithmetic and byte-order helpers of the pseudocode conventions: R10, R552 and "Numbers and words". -/
namespace Sys2Proof.Machine

/-- `n` bytes of a value, least significant first (R10). -/
def le (n v : Nat) : List Byte :=
  match n with
  | 0 => []
  | n + 1 => BitVec.ofNat 8 v :: le n (v / 256)

/-- The value of bytes sent least significant first (R10). -/
def leNat : List Byte → Nat
  | [] => 0
  | b :: bs => b.toNat + 256 * leNat bs

/-- `n` bytes of a value, most significant first (network order of the standards named by R390). -/
def be (n v : Nat) : List Byte := (le n v).reverse

/-- The value of bytes sent most significant first. -/
def beNat (bs : List Byte) : Nat := leNat bs.reverse

/-- A slice of a byte list. -/
def slice (bs : List Byte) (off n : Nat) : List Byte := (bs.drop off).take n

/-- The little-endian value of a slice. -/
def leAt (bs : List Byte) (off n : Nat) : Nat := leNat (slice bs off n)

/-- Zero bytes. -/
def zeros (n : Nat) : List Byte := List.replicate n 0

/-- Two's complement value of the low `w` bits. -/
def toS (w v : Nat) : Int :=
  let m := v % 2 ^ w
  if m < 2 ^ (w - 1) then (m : Int) else (m : Int) - 2 ^ w

/-- The low `w` bits of an integer in two's complement. -/
def ofS (w : Nat) (i : Int) : Nat := (i % (2 ^ w : Nat)).toNat

/-- `n` bytes of a signed value, least significant first. -/
def leS (n : Nat) (i : Int) : List Byte := le n (ofS (8 * n) i)

/-- Clamp to a range. -/
def clampI (lo hi x : Int) : Int := if x < lo then lo else if hi < x then hi else x

/-- Saturate to a signed width. -/
def satS (w : Nat) (x : Int) : Int := clampI (-(2 ^ (w - 1))) (2 ^ (w - 1) - 1) x

/-- Saturate to an unsigned width. -/
def satU (w : Nat) (x : Int) : Nat := (clampI 0 (2 ^ w - 1) x).toNat

/-- Saturate a count to an unsigned width. -/
def satN (w x : Nat) : Nat := min x (2 ^ w - 1)

/-- round_div: the quotient rounded to nearest, halves away from zero (R552); 0 for a zero divisor. -/
def roundDiv (a b : Int) : Int :=
  if b = 0 then 0
  else
    let n := a.natAbs
    let d := b.natAbs
    let q := (2 * n + d) / (2 * d)
    if (a < 0) != (b < 0) then -(q : Int) else (q : Int)

/-- The quotient truncated towards zero: `/` of the pseudocode (R552). -/
def tdiv (a b : Int) : Int := Int.tdiv a b

/-- Arithmetic shift right: `>>` on a signed operand (R552). -/
def asr (a : Int) (k : Nat) : Int := a.fdiv (2 ^ k)

/-- Ceiling of a quotient. -/
def ceilDiv (a b : Nat) : Nat := if b = 0 then 0 else (a + b - 1) / b

/-- Whole logarithm base 2, rounded down; 0 for 0. -/
def log2 (n : Nat) : Nat := Nat.log2 n

/-- Number of 1 bits in the low `k` bits. -/
def popCount (v : Nat) : Nat → Nat
  | 0 => 0
  | k + 1 => v % 2 + popCount (v / 2) k

/-- Bit `k` of a value. -/
def bit (v k : Nat) : Bool := v / 2 ^ k % 2 == 1

/-- A value with bit `k` set to `b`. -/
def setBit (v k : Nat) (b : Bool) : Nat :=
  if bit v k == b then v else if b then v + 2 ^ k else v - 2 ^ k

/-- 1 for true, 0 for false. -/
def bnat (b : Bool) : Nat := if b then 1 else 0

/-- Integer square root rounded down, by binary digits. -/
def isqrtGo : Nat → Nat → Nat → Nat
  | 0, _, r => r
  | k + 1, n, r => if (r + 2 ^ k) * (r + 2 ^ k) ≤ n then isqrtGo k n (r + 2 ^ k) else isqrtGo k n r

/-- Integer square root rounded down. -/
def isqrt (n : Nat) : Nat := isqrtGo (log2 n / 2 + 1) n 0

/-- The positions of a list that satisfy a test. -/
def indicesOf {α : Type} (p : α → Bool) (xs : List α) : List Nat :=
  (xs.zipIdx.filter (fun x => p x.1)).map (fun x => x.2)

/-- Replace the element at an index. -/
def modAt {α : Type} (xs : List α) (i : Nat) (f : α → α) : List α :=
  match xs, i with
  | [], _ => []
  | x :: xs, 0 => f x :: xs
  | x :: xs, i + 1 => x :: modAt xs i f

/-- Update one element of a vector. -/
def vupd {α : Type} {n : Nat} (v : Vector α n) (i : Fin n) (f : α → α) : Vector α n :=
  v.set i.val (f (v.get i)) i.isLt

/-- The index `i` of a group of `n + 1` things, taken modulo the group's size. -/
def fin (n i : Nat) : Fin (n + 1) := ⟨i % (n + 1), Nat.mod_lt _ (Nat.succ_pos n)⟩

end Sys2Proof.Machine
end

