-- ==== Sys2Proof/Machine/Crc.lean ====
section
/-! DEFINITION. The check codes of the host frame, the image and the Crema blocks: CRC-8 (R494), CRC-32C (R413),
SHA-256 (R468). -/
namespace Sys2Proof.Machine

/-- One bit of CRC-8, polynomial 0x07 (R494). -/
def crc8Bits : Nat → Nat → Nat
  | 0, c => c
  | k + 1, c => crc8Bits k (if 128 ≤ c then Nat.xor (c * 2 % 256) 7 else c * 2)

/-- CRC-8 (R494). -/
def crc8 (bs : List Byte) : Nat := bs.foldl (fun c b => crc8Bits 8 (Nat.xor c b.toNat)) 0

/-- One bit of CRC-32C, reflected polynomial of 0x1EDC_6F41 (R413). -/
def crc32cBits : Nat → Nat → Nat
  | 0, c => c
  | k + 1, c => crc32cBits k (if c % 2 = 1 then Nat.xor (c / 2) 0x82F63B78 else c / 2)

/-- CRC-32C (R413). -/
def crc32c (bs : List Byte) : Nat :=
  Nat.xor (bs.foldl (fun c b => crc32cBits 8 (Nat.xor c b.toNat)) 0xFFFFFFFF) 0xFFFFFFFF

/-- One bit of the Ethernet FCS, reflected polynomial of 0x04C1_1DB7 (R390). -/
def crc32Bits : Nat → Nat → Nat
  | 0, c => c
  | k + 1, c => crc32Bits k (if c % 2 = 1 then Nat.xor (c / 2) 0xEDB88320 else c / 2)

/-- The Ethernet frame check sequence (R390). -/
def crc32 (bs : List Byte) : Nat :=
  Nat.xor (bs.foldl (fun c b => crc32Bits 8 (Nat.xor c b.toNat)) 0xFFFFFFFF) 0xFFFFFFFF

/-- The ones' complement sum of 16-bit words, the first byte of each the more significant. -/
def onesSum : List Byte → Nat → Nat
  | [], n => n
  | [a], n => (n + a.toNat * 256) % 65536 + (n + a.toNat * 256) / 65536
  | a :: b :: bs, n =>
    let v := n + a.toNat * 256 + b.toNat
    onesSum bs (v % 65536 + v / 65536)

/-- The Internet checksum (IPv4 header, UDP; R390). -/
def inetSum (bs : List Byte) : Nat := 65535 - onesSum bs 0

end Sys2Proof.Machine
end

