-- ==== Sys2Proof/Machine/Sparse.lean ====
section
/-! DEFINITION. Reading and writing plain data by key. `d` says what an unlisted key reads as. -/
namespace Sys2Proof.Machine

/-- The value at a key. -/
def spGet {α : Type} (d : Nat → α) : Sparse α → Nat → α
  | [], a => d a
  | (b, v) :: m, a => if a = b then v else spGet d m a

/-- List a value at a key, in rising order of keys. -/
def spIns {α : Type} (a : Nat) (v : α) : Sparse α → Sparse α
  | [] => [(a, v)]
  | (b, w) :: m => if a < b then (a, v) :: (b, w) :: m else if a = b then (a, v) :: m else (b, w) :: spIns a v m

/-- Drop the entry at a key. -/
def spErase {α : Type} (a : Nat) : Sparse α → Sparse α
  | [] => []
  | (b, w) :: m => if a = b then spErase a m else (b, w) :: spErase a m

/-- Write a value: the value an unlisted key reads as drops the entry. -/
def spSet {α : Type} [DecidableEq α] (d : Nat → α) (m : Sparse α) (a : Nat) (v : α) : Sparse α :=
  if v = d a then spErase a m else spIns a v m

/-- The canonical form: keys strictly rising, no entry equal to its default. -/
def spWf {α : Type} [DecidableEq α] (d : Nat → α) : Sparse α → Bool
  | [] => true
  | [(a, v)] => decide (v ≠ d a)
  | (a, v) :: (b, w) :: m => decide (a < b) && decide (v ≠ d a) && spWf d ((b, w) :: m)

/-- Write a run of values at consecutive keys, from a first key. -/
def spSetRun {α : Type} [DecidableEq α] (d : Nat → α) (m : Sparse α) (a : Nat) : List α → Sparse α
  | [] => m
  | v :: vs => spSetRun d (spSet d m a v) (a + 1) vs

/-- Read `n` consecutive keys from a first key. -/
def spGetRun {α : Type} (d : Nat → α) (m : Sparse α) (a : Nat) : Nat → List α
  | 0 => []
  | n + 1 => spGet d m a :: spGetRun d m (a + 1) n

/-- Drop every entry whose key satisfies `p`. -/
def spDrop {α : Type} (p : Nat → Bool) : Sparse α → Sparse α
  | [] => []
  | (a, v) :: m => if p a then spDrop p m else (a, v) :: spDrop p m

end Sys2Proof.Machine
end

