-- ==== Sys2Proof/Machine/Ecc.lean ====
section
/-! DEFINITION. The stored word of every memory: location hash, check field, poison, decode (R338 – R343). -/
namespace Sys2Proof.Machine

/-- H[0] – H[39] of R339. -/
def hashTable : List Nat :=
  [0x01, 0x02, 0x04, 0x08, 0x10, 0x20, 0x40, 0x80,
   0x03, 0x05, 0x06, 0x09, 0x0A, 0x0C, 0x11, 0x12, 0x14, 0x18, 0x21, 0x22, 0x24, 0x28, 0x30, 0x41, 0x42, 0x44, 0x48,
   0x50, 0x60, 0x81, 0x82, 0x84, 0x88, 0x90, 0xA0, 0xC0, 0x07, 0x0B, 0x0D, 0x0E]

/-- XOR of the hash values of the 1 bits of a location. -/
def hashGo : List Nat → Nat → Nat
  | [], _ => 0
  | h :: hs, l => Nat.xor (if l % 2 = 1 then h else 0) (hashGo hs (l / 2))

/-- The hash of a location (R339). -/
def hashOf (l : Nat) : Nat := hashGo hashTable l

/-- The low 14 bits of g(x) (R340). -/
def genPoly : Nat := 0x4377

/-- A 14-bit remainder times x, modulo g. -/
def polyX (r : Nat) : Nat := if 8192 ≤ r then Nat.xor (r * 2) genPoly else r * 2

/-- The remainder of bits `k` … 0 of `m` times x^14, modulo g, from the highest bit. -/
def polyRem : Nat → Nat → Nat → Nat
  | 0, _, r => r
  | k + 1, m, r =>
    let r' := polyX r
    polyRem k m (if bit m k then Nat.xor r' (Nat.xor genPoly 16384) else r')

/-- Parity of the low 80 bits. -/
def parity (v : Nat) : Nat := popCount v 80 % 2

/-- C of a data word and a hash (R340). -/
def checkOf (d h : Nat) : Nat :=
  let m := d % 2 ^ 64 + h * 2 ^ 64
  let c14 := polyRem 72 m 0
  c14 + 2 ^ 14 * ((parity (d % 2 ^ 64) + parity h + parity c14) % 2)

/-- x^i modulo g. -/
def polyPow : Nat → Nat
  | 0 => 1
  | k + 1 => polyX (polyPow k)

/-- The syndromes of single errors: positions 0 – 63 data, 64 – 71 hash, 72 – 85 check bits C[0] – C[13]. -/
def synList : Nat → Nat → Nat → List (Nat × Nat)
  | 0, _, _ => []
  | n + 1, pos, s => (pos, s) :: synList n (pos + 1) (polyX s)

/-- Syndrome of every position of the 86-bit code; position 86, C[14], has syndrome 0. -/
def syndromes : List (Nat × Nat) := synList 72 0 (polyPow 14) ++ synList 14 72 1 ++ [(86, 0)]

/-- The positions in error of (D, C, h): none, up to two positions, or beyond the code's reach. -/
def locate (d c h : Nat) : Option (List Nat) :=
  let good := checkOf d h
  let x := Nat.xor (c % 2 ^ 15) good
  if x = 0 then some []
  else
    let s := x % 2 ^ 14
    -- with check bits as read, overall parity of the codeword is that of the difference
    let odd := (parity x) % 2 = 1
    if odd then (syndromes.find? fun p => p.2 == s).map fun p => [p.1]
    else
      let rec pairs : List (Nat × Nat) → Option (List Nat)
        | [] => none
        | p :: ps =>
          match ps.find? fun q => Nat.xor p.2 q.2 == s with
          | some q => some [p.1, q.1]
          | none => pairs ps
      pairs syndromes

/-- Correct the data and check bits at the positions of a decode. -/
def flipData (d : Nat) : List Nat → Nat
  | [] => d
  | p :: ps => flipData (if p < 64 then Nat.xor d (2 ^ p) else d) ps

/-- Whether an error lies in a hash position. -/
def inHash (ps : List Nat) : Bool := ps.any fun p => decide (64 ≤ p) && decide (p < 72)

/-- The outcome of a read (R342). -/
inductive ReadKind
  | clean
  | corrected
  | poisoned
  | address
  | uncorrectable
deriving DecidableEq, Repr

/-- A read whose data are marked POISONED (R342, R360). -/
def ReadKind.bad : ReadKind → Bool
  | .clean => false
  | .corrected => false
  | _ => true

/-- A decoded read: outcome, data, and the positions corrected (87 stands for the poison bit Z). -/
structure ReadRes where
  kind : ReadKind
  data : Nat
  fixed : List Nat
  syndrome : Nat
deriving DecidableEq, Repr

/-- A stored word read at a location (R342, R362 for the syndrome). DEDUCED, unsafe: log 70. -/
def decodeWord (l : Nat) (w : BitVec 80) : ReadRes :=
  let v := w.toNat
  let d := v % 2 ^ 64
  let c := v / 2 ^ 64 % 2 ^ 15
  let z := bit v 79
  let h := hashOf l
  let cn := 2 ^ 15 - 1 - c
  let x := Nat.xor c (checkOf d h)
  let syn := x % 2 ^ 14 + parity x * 2 ^ 14
  let a := locate d c h
  let b := locate d cn h
  let ok := fun (r : Option (List Nat)) (n : Nat) => match r with
    | some ps => if ps.length ≤ n ∧ !inHash ps then some ps else none
    | none => none
  let hsh := fun (r : Option (List Nat)) (n : Nat) => match r with
    | some ps => decide (ps.length ≤ n) && inHash ps
    | none => false
  if z = false then
    match ok a 2 with
    | some [] => ⟨.clean, d, [], syn⟩
    | some ps => ⟨.corrected, flipData d ps, ps, syn⟩
    | none => match ok b 1 with
      | some ps => ⟨.poisoned, flipData d ps, 87 :: ps, syn⟩
      | none => ⟨if hsh a 2 || hsh b 1 then .address else .uncorrectable, d, [], syn⟩
  else
    match ok b 2 with
    | some ps => ⟨.poisoned, flipData d ps, ps, syn⟩
    | none => match ok a 1 with
      | some ps => ⟨.corrected, flipData d ps, 87 :: ps, syn⟩
      | none => ⟨if hsh b 2 || hsh a 1 then .address else .uncorrectable, d, [], syn⟩

/-- The stored form of a normal write (R340, R341). -/
def encodeWord (l d : Nat) : BitVec 80 := BitVec.ofNat 80 (d % 2 ^ 64 + checkOf d (hashOf l) * 2 ^ 64)

/-- The stored form of a poisoned word (R341). -/
def poisonWord (l d : Nat) : BitVec 80 :=
  BitVec.ofNat 80 (d % 2 ^ 64 + (2 ^ 15 - 1 - checkOf d (hashOf l)) * 2 ^ 64 + 2 ^ 79)

/-- The fill word of a location: D = 0 (R345). -/
def fillWord (l : Nat) : BitVec 80 := encodeWord l 0

/-- The location of a word of an SRAM (R339). -/
def sramLoc (id idx : Nat) : Nat := idx % 2 ^ 20 + id * 2 ^ 20 + 2 ^ 39

end Sys2Proof.Machine
end

