-- ==== Sys2Proof/Machine/Float64.lean ====
section
/-! DEFINITION. The binary64 and binary32 arithmetic of R552: each operation exact, then rounded to nearest, ties to
even. A floating value is its bits; the operations decode them, compute exactly over integers and encode once. -/
namespace Sys2Proof.Machine

/-- A floating format: exponent bits and mantissa bits. -/
structure FFmt where
  eb : Nat
  mb : Nat
deriving DecidableEq, Repr

/-- binary64. -/
def fmt64 : FFmt := ⟨11, 52⟩

/-- binary32. -/
def fmt32 : FFmt := ⟨8, 23⟩

/-- A decoded floating value: `fin neg m e` is ±m × 2^e. -/
inductive FVal
  | nan
  | inf (neg : Bool)
  | fin (neg : Bool) (m : Nat) (e : Int)
deriving DecidableEq, Repr

/-- The exponent bias. -/
def FFmt.bias (f : FFmt) : Int := (2 ^ (f.eb - 1) : Nat) - 1

/-- Decode bits. -/
def fdecode (f : FFmt) (b : Nat) : FVal :=
  let mant := b % 2 ^ f.mb
  let ex := b / 2 ^ f.mb % 2 ^ f.eb
  let neg := bit b (f.mb + f.eb)
  if ex = 2 ^ f.eb - 1 then (if mant = 0 then .inf neg else .nan)
  else if ex = 0 then .fin neg mant (1 - f.bias - f.mb)
  else .fin neg (mant + 2 ^ f.mb) ((ex : Int) - f.bias - f.mb)

/-- The bits of an infinity. -/
def finfBits (f : FFmt) (neg : Bool) : Nat := bnat neg * 2 ^ (f.mb + f.eb) + (2 ^ f.eb - 1) * 2 ^ f.mb

/-- The bits of the not-a-number the operations give. -/
def fnanBits (f : FFmt) : Nat := (2 ^ f.eb - 1) * 2 ^ f.mb + 2 ^ (f.mb - 1)

/-- Round ± num/den × 2^e to the format, ties to even (`sticky` says that a further nonzero tail was cut off). -/
def froundQ (f : FFmt) (neg : Bool) (num den : Nat) (e : Int) (sticky : Bool) : Nat :=
  let sgn := bnat neg * 2 ^ (f.mb + f.eb)
  if num = 0 ∨ den = 0 then sgn
  else
    let est : Int := (log2 num : Int) - (log2 den : Int) + e - f.mb - 1
    let emin : Int := 1 - f.bias - f.mb
    let quot := fun (x : Int) =>
      let sh := e - x
      let n := if 0 ≤ sh then num * 2 ^ sh.toNat else num
      let d := if 0 ≤ sh then den else den * 2 ^ (-sh).toNat
      (n / d, n % d, d)
    let x0 := max est emin
    let q0 := (quot x0).1
    let x := if q0 < 2 ^ (f.mb + 1) then x0 else if q0 < 2 ^ (f.mb + 2) then x0 + 1 else x0 + 2
    let (q, r, d) := quot x
    let up := decide (d < 2 * r) || (decide (2 * r = d) && (sticky || q % 2 == 1))
    let m := if up then q + 1 else q
    let (m, x) := if m = 2 ^ (f.mb + 1) then (2 ^ f.mb, x + 1) else (m, x)
    if m < 2 ^ f.mb then sgn + m
    else
      let ex := x + f.bias + f.mb
      if (2 ^ f.eb - 1 : Int) ≤ ex then finfBits f neg
      else sgn + ex.toNat * 2 ^ f.mb + (m - 2 ^ f.mb)

/-- Encode an exact integer times a power of two. -/
def fofScaled (f : FFmt) (n : Int) (e : Int) : Nat := froundQ f (decide (n < 0)) n.natAbs 1 e false

/-- Encode an integer. -/
def fofInt (f : FFmt) (n : Int) : Nat := fofScaled f n 0

/-- Change the sign. -/
def fneg (f : FFmt) (a : Nat) : Nat :=
  if bit a (f.mb + f.eb) then a - 2 ^ (f.mb + f.eb) else a + 2 ^ (f.mb + f.eb)

/-- Signed mantissa at a common exponent. -/
def falign (neg : Bool) (m : Nat) (e e0 : Int) : Int :=
  let v : Int := (m * 2 ^ (e - e0).toNat : Nat)
  if neg then -v else v

/-- Sum. -/
def fadd (f : FFmt) (a b : Nat) : Nat :=
  match fdecode f a, fdecode f b with
  | .nan, _ => fnanBits f
  | _, .nan => fnanBits f
  | .inf s, .inf t => if s == t then finfBits f s else fnanBits f
  | .inf s, _ => finfBits f s
  | _, .inf t => finfBits f t
  | .fin s m e, .fin t n g =>
    let e0 := min e g
    let v := falign s m e e0 + falign t n g e0
    if v = 0 then (if s && t then 2 ^ (f.mb + f.eb) else 0) else fofScaled f v e0

/-- Difference. -/
def fsub (f : FFmt) (a b : Nat) : Nat := fadd f a (fneg f b)

/-- Product. -/
def fmul (f : FFmt) (a b : Nat) : Nat :=
  match fdecode f a, fdecode f b with
  | .nan, _ => fnanBits f
  | _, .nan => fnanBits f
  | .inf s, .inf t => finfBits f (s != t)
  | .inf s, .fin t n _ => if n = 0 then fnanBits f else finfBits f (s != t)
  | .fin s m _, .inf t => if m = 0 then fnanBits f else finfBits f (s != t)
  | .fin s m e, .fin t n g => froundQ f (s != t) (m * n) 1 (e + g) false

/-- Quotient. -/
def fdiv (f : FFmt) (a b : Nat) : Nat :=
  match fdecode f a, fdecode f b with
  | .nan, _ => fnanBits f
  | _, .nan => fnanBits f
  | .inf _, .inf _ => fnanBits f
  | .inf s, .fin t _ _ => finfBits f (s != t)
  | .fin s _ _, .inf t => bnat (s != t) * 2 ^ (f.mb + f.eb)
  | .fin s m e, .fin t n g =>
    if n = 0 then (if m = 0 then fnanBits f else finfBits f (s != t))
    else froundQ f (s != t) m n (e - g) false

/-- Square root. -/
def fsqrt (f : FFmt) (a : Nat) : Nat :=
  match fdecode f a with
  | .nan => fnanBits f
  | .inf s => if s then fnanBits f else finfBits f false
  | .fin s m e =>
    if m = 0 then a
    else if s then fnanBits f
    else
      let k := 2 * (f.mb + 4) + (if e % 2 = 0 then 0 else 1)
      let n := m * 2 ^ k
      let r := isqrt n
      froundQ f false (2 * r + bnat (decide (r * r < n))) 1 ((e - k) / 2 - 1) false

/-- Less than, false when a value is not a number. -/
def flt (f : FFmt) (a b : Nat) : Bool :=
  match fdecode f a, fdecode f b with
  | .nan, _ => false
  | _, .nan => false
  | .inf s, .inf t => s && !t
  | .inf s, _ => s
  | _, .inf t => !t
  | .fin s m e, .fin t n g =>
    let e0 := min e g
    decide (falign s m e e0 < falign t n g e0)

/-- Neither infinite nor not a number. -/
def fisFinite (f : FFmt) (a : Nat) : Bool :=
  match fdecode f a with
  | .fin _ _ _ => true
  | _ => false

/-- Round to the nearest integer, halves away from zero: round() and llround() (R552). Zero for a value that is not finite. -/
def fround (f : FFmt) (a : Nat) : Int :=
  match fdecode f a with
  | .fin s m e =>
    let v : Int := if 0 ≤ e then (m * 2 ^ e.toNat : Nat) else roundDiv m (2 ^ (-e).toNat : Nat)
    if s then -v else v
  | _ => 0

/-- Round towards minus infinity. Zero for a value that is not finite. -/
def ffloor (f : FFmt) (a : Nat) : Int :=
  match fdecode f a with
  | .fin s m e =>
    let v : Int := if s then -(m : Int) else m
    if 0 ≤ e then v * (2 ^ e.toNat : Nat) else v.fdiv (2 ^ (-e).toNat : Nat)
  | _ => 0

/-- A binary32 value as binary64 (exact). -/
def f32to64 (a : Nat) : Nat :=
  match fdecode fmt32 a with
  | .nan => fnanBits fmt64
  | .inf s => finfBits fmt64 s
  | .fin s m e => froundQ fmt64 s m 1 e false

/-- A binary64 value as binary32, rounded once. -/
def d64to32 (a : Nat) : Nat :=
  match fdecode fmt64 a with
  | .nan => 0x7FC00000
  | .inf s => finfBits fmt32 s
  | .fin s m e => froundQ fmt32 s m 1 e false

/-- binary64 value nearest to a quotient of integers. -/
def dquot (n : Int) (d : Nat) : Nat := froundQ fmt64 (decide (n < 0)) n.natAbs d 0 false

/-- binary64 operations. -/
def dadd (a b : Nat) : Nat := fadd fmt64 a b
/-- binary64 difference. -/
def dsub (a b : Nat) : Nat := fsub fmt64 a b
/-- binary64 product. -/
def dmul (a b : Nat) : Nat := fmul fmt64 a b
/-- binary64 quotient. -/
def ddiv (a b : Nat) : Nat := fdiv fmt64 a b
/-- binary64 value of an integer. -/
def dint (n : Int) : Nat := fofInt fmt64 n
/-- binary64 value of n × 2^e. -/
def dscaled (n : Int) (e : Int) : Nat := fofScaled fmt64 n e
/-- binary64 value nearest to the decimal n / 10^k. -/
def ddec (n : Int) (k : Nat) : Nat := froundQ fmt64 (decide (n < 0)) n.natAbs (10 ^ k) 0 false
/-- binary64 less than. -/
def dlt (a b : Nat) : Bool := flt fmt64 a b
/-- llround of a binary64 value (R552). -/
def dround (a : Nat) : Int := fround fmt64 a
/-- floor of a binary64 value. -/
def dfloor (a : Nat) : Int := ffloor fmt64 a

end Sys2Proof.Machine
end

