-- ==== Sys2Proof/Config.lean ====
section
/-! DEFINITION. What a device fixes and the spec leaves open: constants without a body, so that no proof can see a
value. Each has a row in the assumption log. -/
namespace Sys2Proof

/-- The die number (R553), before it is kept off the two values R553 excludes. UNVERIFIED, safe: log 11. -/
opaque Config.dieRaw : Nat

/-- The unique die number (R553): never 0 and never all ones. -/
def Config.dieId : Nat := Config.dieRaw % (2 ^ 64 - 2) + 1

/-- A value the spec leaves open, fresh at each value of the counter `State.freeCtr`. DESIGN CHOICE, safe: log 3. -/
opaque Config.freeWord : Nat → BitVec 64

/-- The data of a DRAM word after the loss of the DRAM's contents: number of the loss, location (R370). DEDUCED, safe: log 8. -/
opaque Config.lostWord : Nat → Nat → BitVec 64

/-- The rounding of a Grinder output within its tolerance (R127): seed of the slot sample, position and component. UNVERIFIED, safe: log 12. -/
opaque Config.grind : Nat → Nat → Nat

/-- The delay of the analogue echo from the synthesiser to the converters, quarter ns (R527). DESIGN CHOICE, safe: log 128. -/
opaque Config.echoDelay : Nat

/-- The number at which a slice's digital pattern starts (R528): slice of a port, start of its grid. DESIGN CHOICE, safe: log 128. -/
opaque Config.patternStart : Nat → Nat → Nat

/-- The codes under the reserved value of FIBRE_TEST.Pattern: start and number of the sample. DESIGN CHOICE, safe: log 128. -/
opaque Config.patternReserved : Nat → Nat → BitVec 14

/-- The level of a boundary cell that no scan has loaded, by its place in the boundary register (R535). DESIGN CHOICE, safe: log 127. -/
opaque Config.boundaryCell : Nat → Bool
/-- The length of the boundary register (R535). DESIGN CHOICE, safe: log 135. -/
opaque Config.boundaryLen : Nat
/-- The place in the boundary register of a pin's cell (R535). DESIGN CHOICE, safe: log 135. -/
opaque Config.boundaryPos : Nat → Nat
/-- What a boundary cell of another pin captures (R535): number of the draw, place. DESIGN CHOICE, safe: log 135. -/
opaque Config.boundaryCapture : Nat → Nat → Bool

/-- The noise of the synthetic fibre (R531), in units of 2^-16 of its rms: seed of the slot sample, position and component.
UNVERIFIED, safe: log 13. -/
opaque Config.noise : Nat → Nat → Int

/-- Ambient stops of the synthetic returns (R532), 1/128 ns after the window opens: seed, lane, n_e, rate, window in ns.
UNVERIFIED, safe: log 14. -/
opaque Config.synAmbient : Nat → Nat → Nat → Nat → Nat → List Nat

/-- The draw of a synthetic target stop (R532): seed, lane, n_e. -/
opaque Config.synDraw : Nat → Nat → Nat → Nat

/-- The jitter of a synthetic target stop (R532), in units of 2^-16 of its rms: seed, lane, n_e. -/
opaque Config.synJitter : Nat → Nat → Nat → Int

/-- A shift by a count of 32 – 63 in the b field, which R307 does not define: opcode, operand, count. UNVERIFIED, safe: log 15. -/
opaque Config.wideShift : Nat → BitVec 32 → Nat → BitVec 32

/-- Where in its tap's part of the nanosecond an interpolator code stands, in LSB (R213): bin-width table, code. DESIGN CHOICE, safe: log 126. -/
opaque Config.tapPlace : List Nat → Nat → Nat

/-- Length of an injected test pulse (R527), 1/128 ns. UNVERIFIED, safe: log 16. -/
opaque Config.injWidth : Nat

/-- The tokens a Crema engine writes for a block: arguments are the history (newest byte first), the last distance (0 for
none) and the filtered content. The spec fixes what tokens decode to (R409 – R411) and leaves their choice to the engine.
DEDUCED, safe: log 17. -/
opaque Config.tokens : List Byte → Nat → List Byte → List Byte

end Sys2Proof
end

