-- ==== Sys2Proof/Machine/RegTable.lean ====
section
/-! DEFINITION. The register tables of the spec, one row per register heading: name, address, repeat dimensions
(stride, count), half of a 64-bit quantity (R17), fields (bits, access R13, survival class R20, reset value, the
innermost indices at which the field is read-only) and, where the reset word differs per index, its list. Rows
follow the register tables of spec/01 to spec/17; reserved bits have no field and read zero (R16). -/
namespace Sys2Proof.Machine

/-- Access codes of R13. -/
inductive Access | ro | rw | wo | w1c | rsh
deriving DecidableEq, Repr

/-- Survival classes of R20. -/
inductive RClass | p | c | t | v
deriving DecidableEq, Repr

/-- Whether a register is the low or the high half of a 64-bit quantity (R17), or stands alone. -/
inductive Half | whole | low | high
deriving DecidableEq, Repr

/-- A field of a register table (R13, R20). -/
structure FieldDef where
  name : String
  hi : Nat
  lo : Nat
  acc : Access
  cls : RClass
  rst : Nat
  roAt : List Nat
deriving DecidableEq, Repr

/-- A register heading: `dims` are the (stride, count) pairs of its repetition, outermost first. -/
structure RegDef where
  name : String
  base : Nat
  dims : List (Nat × Nat)
  half : Half
  fields : List FieldDef
  per : List Nat
deriving DecidableEq, Repr

/-- Registers: global registers (chapters 01 and 16). -/
def hostDefs : List RegDef := [
  ⟨"ID_PART", 0, [], .whole,
    [⟨"Vendor",15,0,.ro,.p,0x1a72,[]⟩, ⟨"Part",31,16,.ro,.p,0x7248,[]⟩], []⟩,
  ⟨"ID_REV", 4, [], .whole,
    [⟨"Revision",7,0,.ro,.p,0xb0,[]⟩], []⟩,
  ⟨"ID_LEVELS", 8, [], .whole,
    [⟨"Levels",31,0,.ro,.p,1,[]⟩], []⟩,
  ⟨"DIE_ID_LO", 0x10, [], .low,
    [⟨"DieId",31,0,.ro,.p,0,[]⟩], []⟩,
  ⟨"DIE_ID_HI", 0x14, [], .high,
    [⟨"DieId",31,0,.ro,.p,0,[]⟩], []⟩,
  ⟨"FUSE_STATUS", 0x18, [], .whole,
    [⟨"KeyHash",0,0,.ro,.p,0,[]⟩, ⟨"Lock",1,1,.ro,.p,0,[]⟩, ⟨"ReadbackFault",2,2,.ro,.p,0,[]⟩], []⟩,
  ⟨"DEVICE_ID", 0x20, [], .whole,
    [⟨"DeviceId",9,0,.rw,.c,0,[]⟩, ⟨"ArrayId",31,16,.rw,.c,0,[]⟩], []⟩,
  ⟨"HOST_STATUS", 0x30, [], .whole,
    [⟨"Outstanding",3,0,.ro,.v,0,[]⟩, ⟨"Queued",8,4,.ro,.v,0,[]⟩, ⟨"Framing",23,16,.ro,.v,0,[]⟩, ⟨"CrcErr",31,24,.ro,.v,0,[]⟩], []⟩,
  ⟨"ALERT_EVENT", 0x34, [], .whole,
    [⟨"ImageDone",0,0,.w1c,.v,0,[]⟩, ⟨"StateEntered",1,1,.w1c,.v,0,[]⟩, ⟨"EpochApplied",2,2,.w1c,.v,0,[]⟩, ⟨"SnapshotDone",3,3,.w1c,.v,0,[]⟩, ⟨"FlashDone",4,4,.w1c,.v,0,[]⟩], []⟩,
  ⟨"ALERT_ENABLE", 0x38, [], .whole,
    [⟨"ImageDone",0,0,.rw,.v,0,[]⟩, ⟨"StateEntered",1,1,.rw,.v,0,[]⟩, ⟨"EpochApplied",2,2,.rw,.v,0,[]⟩, ⟨"SnapshotDone",3,3,.rw,.v,0,[]⟩, ⟨"FlashDone",4,4,.rw,.v,0,[]⟩], []⟩,
  ⟨"FUSE_KEYHASH", 0x40, [(4,8)], .whole,
    [⟨"Hash",31,0,.ro,.p,0,[]⟩], []⟩,
  ⟨"FUSE_STAGE", 0x60, [(4,8)], .whole,
    [⟨"Hash",31,0,.rw,.v,0,[]⟩], []⟩,
  ⟨"EPOCH_STATUS", 0x100, [], .whole,
    [⟨"Epoch",15,0,.ro,.v,0,[]⟩, ⟨"Applying",16,16,.ro,.v,0,[]⟩, ⟨"Scheduled",17,17,.ro,.v,0,[]⟩, ⟨"Pending",18,18,.ro,.v,0,[]⟩], []⟩,
  ⟨"COMMIT_TIME_LO", 0x104, [], .low,
    [⟨"TimeLo",31,0,.rw,.v,0,[]⟩], []⟩,
  ⟨"COMMIT_TIME_HI", 0x108, [], .high,
    [⟨"TimeHi",31,0,.rw,.v,0,[]⟩], []⟩,
  ⟨"COMMIT_RESULT", 0x10c, [], .whole,
    [⟨"Reason",7,0,.ro,.v,0,[]⟩, ⟨"TargetEpoch",23,8,.ro,.v,0,[]⟩], []⟩,
  ⟨"EPOCH_CTRL", 0x110, [], .whole,
    [⟨"Discard",0,0,.wo,.v,0,[]⟩, ⟨"Cancel",1,1,.wo,.v,0,[]⟩], []⟩,
  ⟨"SNAP_TIME_LO", 0x114, [], .low,
    [⟨"SnapTime",31,0,.ro,.v,0,[]⟩], []⟩,
  ⟨"SNAP_TIME_HI", 0x118, [], .high,
    [⟨"SnapTime",31,0,.ro,.v,0,[]⟩], []⟩,
  ⟨"SNAP_STATUS", 0x11c, [], .whole,
    [⟨"SnapEpoch",15,0,.ro,.v,0,[]⟩, ⟨"Valid",16,16,.ro,.v,0,[]⟩, ⟨"SnapApplying",17,17,.ro,.v,0,[]⟩], []⟩]

/-- Registers: clocks and time. -/
def clkDefs : List RegDef := [
  ⟨"CLK_STATUS", 0x10000, [], .whole,
    [⟨"Locked",4,0,.ro,.v,0,[]⟩, ⟨"ClkinLocked",5,5,.ro,.v,0,[]⟩, ⟨"ClkSrc",6,6,.ro,.v,0,[]⟩], []⟩,
  ⟨"CLK_CFG", 0x10004, [], .whole,
    [⟨"ClkSrc",0,0,.rw,.c,0,[]⟩], []⟩,
  ⟨"LOOP_STAT", 0x10010, [(4,6)], .whole,
    [⟨"Losses",15,0,.ro,.v,0,[]⟩, ⟨"LastCause",17,16,.ro,.v,0,[]⟩], []⟩,
  ⟨"TIME_NOW_LO", 0x10100, [], .low,
    [⟨"Time",31,0,.ro,.p,0,[]⟩], []⟩,
  ⟨"TIME_NOW_HI", 0x10104, [], .high,
    [⟨"Time",31,0,.ro,.p,0,[]⟩], []⟩,
  ⟨"TIME_FRAC", 0x10108, [], .whole,
    [⟨"Time",31,0,.ro,.p,0,[]⟩], []⟩,
  ⟨"TIME_CFG", 0x10110, [], .whole,
    [⟨"TimeSrc",1,0,.rw,.c,0,[]⟩, ⟨"AgeSrc",2,2,.rw,.c,0,[]⟩, ⟨"PpsOutEn",3,3,.rw,.c,0,[]⟩, ⟨"PpsOutGate",4,4,.rw,.c,1,[]⟩, ⟨"PpsInFalling",5,5,.rw,.c,0,[]⟩, ⟨"FreqShift",11,8,.rw,.c,0xc,[]⟩, ⟨"SlewTime",22,16,.rw,.c,0xa,[]⟩, ⟨"TimeRecSec",31,24,.rw,.c,0x3c,[]⟩], []⟩,
  ⟨"PPS_DELAY", 0x10114, [], .whole,
    [⟨"PpsDelay",31,0,.rw,.c,0,[]⟩], []⟩,
  ⟨"AGE_SLOPE", 0x10118, [], .whole,
    [⟨"Slope",31,0,.rw,.c,0,[]⟩], []⟩,
  ⟨"TIME_STATE", 0x1011c, [], .whole,
    [⟨"State",2,0,.ro,.p,0,[]⟩, ⟨"Labelled",3,3,.ro,.p,0,[]⟩, ⟨"Slewing",4,4,.ro,.v,0,[]⟩], []⟩,
  ⟨"PHASE_ERR", 0x10120, [], .whole,
    [⟨"Err",31,0,.ro,.v,0,[]⟩], []⟩,
  ⟨"FREQ_CORR_LO", 0x10124, [], .low,
    [⟨"Corr",31,0,.ro,.v,0,[]⟩], []⟩,
  ⟨"FREQ_CORR_HI", 0x10128, [], .high,
    [⟨"Corr",31,0,.ro,.v,0,[]⟩], []⟩,
  ⟨"AGE_LEARNED", 0x1012c, [], .whole,
    [⟨"Value",31,0,.ro,.p,0,[]⟩], []⟩,
  ⟨"AGE_DAYS", 0x10130, [], .whole,
    [⟨"Value",31,0,.ro,.p,0,[]⟩], []⟩,
  ⟨"TIME_LABEL_LO", 0x10134, [], .low,
    [⟨"Label",31,0,.rw,.v,0,[]⟩], []⟩,
  ⟨"TIME_LABEL_HI", 0x10138, [], .high,
    [⟨"Label",31,0,.rw,.v,0,[]⟩], []⟩,
  ⟨"TIME_ARM", 0x1013c, [], .whole,
    [⟨"Arm",0,0,.wo,.v,0,[]⟩], []⟩,
  ⟨"HOLD_START_LO", 0x10140, [], .low,
    [⟨"Time",31,0,.ro,.p,0,[]⟩], []⟩,
  ⟨"HOLD_START_HI", 0x10144, [], .high,
    [⟨"Time",31,0,.ro,.p,0,[]⟩], []⟩,
  ⟨"TIME_COUNT", 0x10148, [], .whole,
    [⟨"Steps",15,0,.ro,.v,0,[]⟩, ⟨"PpsRejected",31,16,.ro,.v,0,[]⟩], []⟩,
  ⟨"SYNC_OUT_CFG", 0x10200, [], .whole,
    [⟨"Source",1,0,.rw,.c,0,[]⟩, ⟨"SyncPort",3,2,.rw,.c,0,[]⟩, ⟨"SyncLow",4,4,.rw,.c,0,[]⟩, ⟨"SyncWidth",31,16,.rw,.c,0x64,[]⟩], []⟩,
  ⟨"SYNC_OUT_PERIOD", 0x10204, [], .whole,
    [⟨"Time",31,0,.rw,.c,0x3e8,[]⟩], []⟩,
  ⟨"SYNC_OUT_PHASE", 0x10208, [], .whole,
    [⟨"Time",31,0,.rw,.c,0,[]⟩], []⟩]

/-- Registers: power, reset, supply and watch plan, part 0. -/
def pwrDefs0 : List RegDef := [
  ⟨"PWR_STATE", 0x20000, [], .whole,
    [⟨"State",2,0,.ro,.v,0,[]⟩, ⟨"Transit",3,3,.ro,.v,0,[]⟩, ⟨"Stage",7,4,.ro,.v,1,[]⟩], []⟩,
  ⟨"RESET_CAUSE", 0x20004, [], .whole,
    [⟨"Last",3,0,.ro,.p,1,[]⟩, ⟨"Previous",15,4,.ro,.p,0,[]⟩, ⟨"Rail",19,16,.ro,.p,0,[]⟩], []⟩,
  ⟨"RESET_COUNT_A", 0x20008, [], .whole,
    [⟨"Pin",15,0,.ro,.p,0,[]⟩, ⟨"HostSoft",31,16,.ro,.p,0,[]⟩], []⟩,
  ⟨"RESET_COUNT_B", 0x2000c, [], .whole,
    [⟨"Watchdog",15,0,.ro,.p,0,[]⟩, ⟨"Fatal",31,16,.ro,.p,0,[]⟩], []⟩,
  ⟨"UP_TIME", 0x20010, [], .whole,
    [⟨"Seconds",31,0,.ro,.p,0,[]⟩], []⟩,
  ⟨"RESET_CTRL", 0x20014, [], .whole,
    [⟨"Key",15,0,.wo,.v,0,[]⟩], []⟩,
  ⟨"IMAGE_STATUS", 0x20020, [], .whole,
    [⟨"Source",1,0,.ro,.v,3,[]⟩, ⟨"ResultA",7,4,.ro,.v,0xf,[]⟩, ⟨"ResultB",11,8,.ro,.v,0xf,[]⟩, ⟨"ResultHost",15,12,.ro,.v,0xf,[]⟩, ⟨"Reason",23,16,.ro,.v,0,[]⟩], []⟩,
  ⟨"IMAGE_SEQ", 0x20024, [], .whole,
    [⟨"Sequence",31,0,.ro,.v,0,[]⟩], []⟩,
  ⟨"IMAGE_FAULT", 0x20028, [], .whole,
    [⟨"Section",15,0,.ro,.v,0,[]⟩], []⟩,
  ⟨"IMAGE_DIGEST", 0x20030, [(4,8)], .whole,
    [⟨"Digest",31,0,.ro,.c,0,[]⟩], []⟩,
  ⟨"SUSP_CFG", 0x20060, [], .whole,
    [⟨"WakeTo",0,0,.rw,.c,0,[]⟩, ⟨"PinWake",1,1,.rw,.c,1,[]⟩, ⟨"CsWake",2,2,.rw,.c,1,[]⟩], []⟩,
  ⟨"SUSP_TIMER", 0x20064, [], .whole,
    [⟨"Seconds",23,0,.rw,.c,0,[]⟩], []⟩,
  ⟨"SENT_CFG", 0x20068, [], .whole,
    [⟨"LinkKeep",7,0,.rw,.c,0,[]⟩], []⟩,
  ⟨"SYS_WDOG", 0x20080, [], .whole,
    [⟨"Period",15,0,.rw,.c,0,[]⟩, ⟨"HostKick",16,16,.rw,.c,1,[]⟩], []⟩,
  ⟨"SYS_WDOG_CORES", 0x20084, [], .whole,
    [⟨"CoreMask",15,0,.rw,.c,0,[]⟩], []⟩,
  ⟨"SYS_WDOG_KICK", 0x20088, [], .whole,
    [⟨"Key",15,0,.wo,.v,0,[]⟩], []⟩,
  ⟨"SUPPLY_CFG", 0x20100, [], .whole,
    [⟨"WarnPct",2,0,.rw,.c,4,[]⟩], []⟩,
  ⟨"SUPPLY_STATUS", 0x20104, [], .whole,
    [⟨"Warn",8,0,.ro,.v,0,[]⟩, ⟨"Seen",24,16,.w1c,.v,0,[]⟩], []⟩,
  ⟨"DIE_TEMP", 0x20108, [], .whole,
    [⟨"Temp",15,0,.ro,.v,0,[]⟩, ⟨"TjWarn",23,16,.rw,.c,0x69,[]⟩], []⟩,
  ⟨"WATCH_CTRL", 0x20200, [], .whole,
    [⟨"Ports",3,0,.rw,.c,0,[]⟩, ⟨"PinWake",8,8,.rw,.c,0,[]⟩, ⟨"PinFall",9,9,.rw,.c,0,[]⟩, ⟨"Burst",28,16,.rw,.c,0x40,[]⟩], []⟩,
  ⟨"WATCH_PERIOD", 0x20204, [], .whole,
    [⟨"Period",19,0,.rw,.c,0x3e8,[]⟩, ⟨"Lead",26,20,.rw,.c,0x16,[]⟩], []⟩,
  ⟨"WAKE_DAS", 0x20208, [], .whole,
    [⟨"Enable",0,0,.rw,.c,0,[]⟩, ⟨"Port",2,1,.rw,.c,0,[]⟩, ⟨"Range",7,4,.rw,.c,0,[]⟩, ⟨"Band",9,8,.rw,.c,0,[]⟩, ⟨"K",16,12,.rw,.c,1,[]⟩], []⟩,
  ⟨"WAKE_DAS_THR", 0x2020c, [], .whole,
    [⟨"WakeThr",15,0,.rw,.c,0xffff,[]⟩], []⟩,
  ⟨"WAKE_DTS", 0x20210, [], .whole,
    [⟨"Enable",0,0,.rw,.c,0,[]⟩, ⟨"RiseThr",31,16,.rw,.c,0xffff,[]⟩], []⟩]

/-- Registers: power, reset, supply and watch plan, part 1. -/
def pwrDefs1 : List RegDef := [
  ⟨"WAKE_STATUS", 0x20214, [], .whole,
    [⟨"Cause",2,0,.ro,.v,0,[]⟩, ⟨"Skipped",31,16,.ro,.v,0,[]⟩], []⟩]

/-- Registers: power, reset, supply and watch plan. -/
def pwrDefs : List RegDef := pwrDefs0 ++ pwrDefs1

/-- Registers: fibre ports, part 0. -/
def portDefs0 : List RegDef := [
  ⟨"PLAN_CTRL", 0x100000, [(0x10000,4),(0x100,2)], .whole,
    [⟨"ToneCount",3,0,.rw,.c,0,[]⟩, ⟨"StartSrc",8,8,.rw,.c,0,[]⟩], []⟩,
  ⟨"SHOT_PERIOD", 0x100004, [(0x10000,4),(0x100,2)], .whole,
    [⟨"Period",16,0,.rw,.c,0xc350,[]⟩], []⟩,
  ⟨"WIN_POS", 0x100008, [(0x10000,4),(0x100,2)], .whole,
    [⟨"WinPos",18,0,.rw,.c,0x1000,[]⟩], []⟩,
  ⟨"WIN_DELAY", 0x10000c, [(0x10000,4),(0x100,2)], .whole,
    [⟨"Delay",19,0,.rw,.c,0,[]⟩], []⟩,
  ⟨"EXT_START", 0x100010, [(0x10000,4),(0x100,2)], .whole,
    [⟨"ExtWidthMin",9,0,.rw,.c,0,[]⟩, ⟨"ExtWidthMax",25,16,.rw,.c,0,[]⟩], []⟩,
  ⟨"EXT_DELAY", 0x100014, [(0x10000,4),(0x100,2)], .whole,
    [⟨"ExtDelay",16,0,.rw,.c,0x14,[]⟩], []⟩,
  ⟨"PGATE_CFG", 0x100018, [(0x10000,4),(0x100,2)], .whole,
    [⟨"PgateLead",7,0,.rw,.c,0,[]⟩, ⟨"PgateLag",15,8,.rw,.c,0,[]⟩, ⟨"PgateLow",16,16,.rw,.c,0,[]⟩], []⟩,
  ⟨"RAMAN_TRIG", 0x10001c, [(0x10000,4),(0x100,2)], .whole,
    [⟨"RamanM",12,0,.rw,.c,0,[]⟩, ⟨"RamanWidth",22,16,.rw,.c,1,[]⟩, ⟨"RtrigLow",24,24,.rw,.c,0,[]⟩], []⟩,
  ⟨"RAMAN_DELAY", 0x100020, [(0x10000,4),(0x100,2)], .whole,
    [⟨"RamanDelay",19,0,.rw,.c,0,[]⟩], []⟩,
  ⟨"PLAN_STATUS", 0x100024, [(0x10000,4)], .whole,
    [⟨"Tail",20,0,.ro,.v,0,[]⟩, ⟨"FailCheck",27,24,.ro,.v,0,[]⟩], []⟩,
  ⟨"PLAN_LOAD", 0x100028, [(0x10000,4)], .whole,
    [⟨"Load",10,0,.ro,.v,0,[]⟩], []⟩,
  ⟨"SYNC_COUNT", 0x10002c, [(0x10000,4)], .whole,
    [⟨"Early",15,0,.ro,.v,0,[]⟩, ⟨"Missed",31,16,.ro,.v,0,[]⟩], []⟩,
  ⟨"SHOT_COUNT_LO", 0x100030, [(0x10000,4)], .low,
    [⟨"Shots",31,0,.ro,.v,0,[]⟩], []⟩,
  ⟨"SHOT_COUNT_HI", 0x100034, [(0x10000,4)], .high,
    [⟨"Shots",31,0,.ro,.v,0,[]⟩], []⟩,
  ⟨"TONE_FREQ", 0x100040, [(0x10000,4),(0x100,2),(0x10,8)], .whole,
    [⟨"Freq",9,0,.rw,.c,0x50,[]⟩, ⟨"Amp",27,16,.rw,.c,0,[]⟩], []⟩,
  ⟨"TONE_OFFSET", 0x100044, [(0x10000,4),(0x100,2),(0x10,8)], .whole,
    [⟨"Offset",16,0,.rw,.c,0,[0]⟩, ⟨"AutoOffset",31,31,.rw,.c,1,[]⟩], []⟩,
  ⟨"TONE_CODE", 0x100048, [(0x10000,4),(0x100,2),(0x10,8)], .whole,
    [⟨"Type",1,0,.rw,.c,0,[]⟩, ⟨"Down",2,2,.rw,.c,0,[]⟩, ⟨"Chip",5,4,.rw,.c,0,[]⟩, ⟨"GolayLog",11,8,.rw,.c,6,[]⟩, ⟨"ChirpBW",22,16,.rw,.c,0xa,[]⟩], []⟩,
  ⟨"TONE_DUR", 0x10004c, [(0x10000,4),(0x100,2),(0x10,8)], .whole,
    [⟨"Dur",14,0,.rw,.c,0x64,[]⟩], []⟩,
  ⟨"WATCH_HOLE", 0x100124, [(0x10000,4),(4,7)], .whole,
    [], []⟩,
  ⟨"FE_CTRL", 0x100200, [(0x10000,4)], .whole,
    [⟨"RefKeep",0,0,.rw,.c,0,[]⟩, ⟨"BgFreeze",1,1,.rw,.c,0,[]⟩, ⟨"RamanRate",2,2,.rw,.c,0,[]⟩, ⟨"CorrBypass",3,3,.rw,.c,0,[]⟩, ⟨"OffShift",7,4,.rw,.c,8,[]⟩, ⟨"GainShift",11,8,.rw,.c,0xa,[]⟩], []⟩,
  ⟨"FE_STATUS", 0x100204, [(0x10000,4)], .whole,
    [⟨"RefReady",0,0,.ro,.v,0,[]⟩, ⟨"RefOn",1,1,.ro,.v,0,[]⟩, ⟨"BgLimit",5,2,.ro,.v,0,[]⟩, ⟨"SlicePower",11,6,.ro,.v,0,[]⟩], []⟩,
  ⟨"OVR_CNT_C", 0x100208, [(0x10000,4)], .whole,
    [⟨"CX",15,0,.ro,.v,0,[]⟩, ⟨"CY",31,16,.ro,.v,0,[]⟩], []⟩,
  ⟨"OVR_CNT_R", 0x10020c, [(0x10000,4)], .whole,
    [⟨"RA",15,0,.ro,.v,0,[]⟩, ⟨"RS",31,16,.ro,.v,0,[]⟩], []⟩,
  ⟨"FE_CLEAR", 0x100210, [(0x10000,4)], .whole,
    [⟨"ClearOvr",0,0,.wo,.v,0,[]⟩], []⟩]

/-- Registers: fibre ports, part 1. -/
def portDefs1 : List RegDef := [
  ⟨"SLICE_OFFSET", 0x100220, [(0x10000,4),(0x20,6)], .whole,
    [⟨"Offset",15,0,.ro,.t,0,[]⟩], []⟩,
  ⟨"SLICE_GAIN", 0x100224, [(0x10000,4),(0x20,6)], .whole,
    [⟨"Gain",15,0,.ro,.t,0x4000,[]⟩], []⟩,
  ⟨"SLICE_SKEW", 0x100228, [(0x10000,4),(0x20,6)], .whole,
    [⟨"Skew",7,0,.ro,.t,0,[]⟩], [0,0,0,0,0,0]⟩,
  ⟨"SLICE_BW_A", 0x10022c, [(0x10000,4),(0x20,6)], .whole,
    [⟨"HMinus",15,0,.ro,.t,0,[]⟩, ⟨"HPlus",31,16,.ro,.t,0,[]⟩], [0,0,0,0,0,0]⟩,
  ⟨"SLICE_BW_B", 0x100230, [(0x10000,4),(0x20,6)], .whole,
    [⟨"HZero",15,0,.ro,.t,0x4000,[]⟩], [0x4000,0x4000,0x4000,0x4000,0,0]⟩,
  ⟨"CAP_CTRL", 0x100300, [(0x10000,4)], .whole,
    [⟨"Arm",0,0,.wo,.v,0,[]⟩, ⟨"Stop",1,1,.wo,.v,0,[]⟩, ⟨"Source",6,4,.rw,.v,0,[]⟩, ⟨"Raw",7,7,.rw,.v,0,[]⟩, ⟨"Trigger",9,8,.rw,.v,0,[]⟩, ⟨"WindowOnly",10,10,.rw,.v,1,[]⟩, ⟨"RecBlocks",23,16,.rw,.v,0x10,[]⟩], []⟩,
  ⟨"CAP_LEN", 0x100304, [(0x10000,4)], .whole,
    [⟨"Total",23,0,.rw,.v,0x1000,[]⟩], []⟩,
  ⟨"CAP_STATUS", 0x100308, [(0x10000,4)], .whole,
    [⟨"State",1,0,.ro,.v,0,[]⟩, ⟨"Error",4,2,.ro,.v,0,[]⟩, ⟨"CaptureSeq",31,16,.ro,.v,0,[]⟩], []⟩,
  ⟨"CAP_DONE", 0x10030c, [(0x10000,4)], .whole,
    [⟨"Samples",23,0,.ro,.v,0,[]⟩], []⟩,
  ⟨"CHAIN_CTRL", 0x100400, [(0x10000,4)], .whole,
    [⟨"Gauge",8,0,.rw,.c,0xa,[]⟩, ⟨"Taper",10,9,.rw,.c,0,[]⟩, ⟨"ClipAsFade",11,11,.rw,.c,1,[]⟩, ⟨"PolFallback",12,12,.rw,.c,1,[]⟩, ⟨"FadeMode",13,13,.rw,.c,1,[]⟩, ⟨"FuseStep",19,16,.rw,.c,4,[]⟩, ⟨"QShift",22,20,.rw,.c,3,[]⟩], []⟩,
  ⟨"FADE_CFG", 0x100404, [(0x10000,4)], .whole,
    [⟨"FadeDepth",7,0,.rw,.c,0x10,[]⟩, ⟨"FadeFloor",15,8,.rw,.c,0,[]⟩], []⟩,
  ⟨"GEOMETRY", 0x100408, [(0x10000,4)], .whole,
    [⟨"GroupIndex",15,0,.rw,.c,0x3958,[]⟩], []⟩,
  ⟨"FIBRE_ORIGIN", 0x10040c, [(0x10000,4)], .whole,
    [⟨"Origin",19,0,.rw,.c,0,[]⟩], []⟩,
  ⟨"CHAIN_STATUS", 0x100410, [(0x10000,4)], .whole,
    [⟨"Positions",17,0,.ro,.v,0,[]⟩, ⟨"SettleCount",24,18,.ro,.v,0,[]⟩, ⟨"Slots",28,25,.ro,.v,0,[]⟩], []⟩,
  ⟨"FADE_TOTAL_LO", 0x100414, [(0x10000,4)], .low,
    [⟨"Faded",31,0,.ro,.v,0,[]⟩], []⟩,
  ⟨"FADE_TOTAL_HI", 0x100418, [(0x10000,4)], .high,
    [⟨"Faded",31,0,.ro,.v,0,[]⟩], []⟩,
  ⟨"FADE_LAST", 0x100420, [(0x10000,4),(4,8)], .whole,
    [⟨"Faded",17,0,.ro,.v,0,[]⟩], []⟩,
  ⟨"PEEK_POS", 0x100440, [(0x10000,4)], .whole,
    [⟨"Pos",17,0,.rw,.v,0,[]⟩, ⟨"Ready",31,31,.ro,.v,0,[]⟩], []⟩,
  ⟨"PEEK_DATA", 0x100444, [(0x10000,4),(4,7)], .whole,
    [⟨"Data",31,0,.ro,.v,0,[]⟩], []⟩,
  ⟨"RANGE_START", 0x100500, [(0x10000,4),(0x10,16)], .whole,
    [⟨"Start",17,0,.rw,.c,0,[]⟩, ⟨"Enable",31,31,.rw,.c,0,[]⟩], []⟩,
  ⟨"RANGE_COUNT", 0x100504, [(0x10000,4),(0x10,16)], .whole,
    [⟨"Count",17,0,.rw,.c,1,[]⟩], []⟩,
  ⟨"RANGE_CFG", 0x100508, [(0x10000,4),(0x10,16)], .whole,
    [⟨"Product",1,0,.rw,.c,0,[]⟩, ⟨"SpMean",2,2,.rw,.c,1,[]⟩, ⟨"MarkMap",3,3,.rw,.c,0,[]⟩, ⟨"Dsp",10,4,.rw,.c,1,[]⟩, ⟨"DecLog",14,12,.rw,.c,1,[]⟩, ⟨"RecPos",28,16,.rw,.c,0x200,[]⟩], []⟩,
  ⟨"RANGE_BAND", 0x10050c, [(0x10000,4),(0x10,16)], .whole,
    [⟨"BandWin",6,0,.rw,.c,0xa,[]⟩], []⟩,
  ⟨"PROD_STATUS", 0x100600, [(0x10000,4)], .whole,
    [⟨"Theta",10,0,.ro,.v,0,[]⟩, ⟨"StateLost",11,11,.ro,.v,0,[]⟩], []⟩]

/-- Registers: fibre ports, part 2. -/
def portDefs2 : List RegDef := [
  ⟨"END_CFG", 0x100610, [(0x10000,4)], .whole,
    [⟨"EndThr",7,0,.rw,.c,0x28,[]⟩, ⟨"EndEnable",8,8,.rw,.c,1,[]⟩, ⟨"TraceDec",22,16,.rw,.c,0x10,[]⟩, ⟨"TraceEnable",23,23,.rw,.c,1,[]⟩], []⟩,
  ⟨"END_STATUS", 0x100614, [(0x10000,4)], .whole,
    [⟨"End",17,0,.ro,.v,0,[]⟩, ⟨"Break",18,18,.ro,.v,0,[]⟩, ⟨"Valid",19,19,.ro,.v,0,[]⟩], []⟩,
  ⟨"CAPEV_CTRL", 0x100620, [(0x10000,4)], .whole,
    [⟨"Enable",0,0,.rw,.c,0,[]⟩, ⟨"Trigger",1,1,.wo,.v,0,[]⟩, ⟨"TrigBand",2,2,.rw,.c,0,[]⟩, ⟨"TrigBreak",3,3,.rw,.c,0,[]⟩, ⟨"CapRange",7,4,.rw,.c,0,[]⟩, ⟨"BandRange",11,8,.rw,.c,0,[]⟩, ⟨"Band",13,12,.rw,.c,0,[]⟩, ⟨"Thr",31,16,.rw,.c,0xffff,[]⟩], []⟩,
  ⟨"CAPEV_TIME", 0x100624, [(0x10000,4)], .whole,
    [⟨"Pre",15,0,.rw,.c,0x3e8,[]⟩, ⟨"Post",31,16,.rw,.c,0x3e8,[]⟩], []⟩,
  ⟨"CAPEV_BUF", 0x100628, [(0x10000,4)], .whole,
    [⟨"CapBuf",12,0,.rw,.c,0,[]⟩], []⟩,
  ⟨"CAPEV_STATUS", 0x10062c, [(0x10000,4)], .whole,
    [⟨"State",1,0,.ro,.v,0,[]⟩, ⟨"Seq",31,16,.ro,.v,0,[]⟩], []⟩,
  ⟨"BAND_COEF", 0x100800, [(0x10000,4),(0x50,16),(0x14,4),(4,5)], .whole,
    [⟨"Coef",31,0,.rw,.c,0,[]⟩], []⟩,
  ⟨"DEC_FIR", 0x100d00, [(0x10000,4),(4,8)], .whole,
    [⟨"HEven",15,0,.rw,.c,0,[]⟩, ⟨"HOdd",31,16,.rw,.c,0,[]⟩], [0xff78ffdc,0x2a8014e,0xf711fb12,0x3908118c,0x118c3908,0xfb12f711,0x14e02a8,0xffdcff78]⟩,
  ⟨"DTS_CTRL", 0x100e00, [(0x10000,4)], .whole,
    [⟨"AccLog",4,0,.rw,.c,0x10,[]⟩, ⟨"Dual",5,5,.rw,.c,0,[]⟩, ⟨"BinPos",14,8,.rw,.c,2,[]⟩, ⟨"RefSrc",16,16,.rw,.c,0,[]⟩, ⟨"RefTc",18,17,.rw,.c,0,[]⟩, ⟨"RecBins",29,20,.rw,.c,0x200,[]⟩], []⟩,
  ⟨"DTS_RANGE", 0x100e04, [(0x10000,4)], .whole,
    [⟨"RamanPos",18,0,.rw,.c,0x1000,[]⟩], []⟩,
  ⟨"BIN_START", 0x100e08, [(0x10000,4)], .whole,
    [⟨"BinStart",18,0,.rw,.c,0,[]⟩], []⟩,
  ⟨"BIN_COUNT", 0x100e0c, [(0x10000,4)], .whole,
    [⟨"Bins",16,0,.rw,.c,0x800,[]⟩], []⟩,
  ⟨"DARK_START", 0x100e10, [(0x10000,4)], .whole,
    [⟨"DarkStart",18,0,.rw,.c,0,[]⟩], []⟩,
  ⟨"DARK_LEN", 0x100e14, [(0x10000,4)], .whole,
    [⟨"DarkLen",12,0,.rw,.c,0,[]⟩], []⟩,
  ⟨"REF_BINS", 0x100e18, [(0x10000,4)], .whole,
    [⟨"RefBin",15,0,.rw,.c,0,[]⟩, ⟨"RefBins",22,16,.rw,.c,1,[]⟩], []⟩,
  ⟨"MIRROR", 0x100e1c, [(0x10000,4)], .whole,
    [⟨"MirrorBin",16,0,.rw,.c,0,[]⟩], []⟩,
  ⟨"ALPHA", 0x100e20, [(0x10000,4)], .whole,
    [⟨"Alpha",31,0,.rw,.c,0,[]⟩], []⟩,
  ⟨"RAMAN_ORIGIN", 0x100e24, [(0x10000,4)], .whole,
    [⟨"RamanOrigin",19,0,.rw,.c,0,[]⟩], []⟩,
  ⟨"X_LO", 0x100e28, [(0x10000,4)], .whole,
    [⟨"XLimit",31,0,.rw,.c,0xc0000000,[]⟩], []⟩,
  ⟨"X_HI", 0x100e2c, [(0x10000,4)], .whole,
    [⟨"XLimit",31,0,.rw,.c,0x40000000,[]⟩], []⟩,
  ⟨"REF_TEMP", 0x100e30, [(0x10000,4)], .whole,
    [⟨"RefTemp",15,0,.rw,.v,0x640,[]⟩], []⟩,
  ⟨"REF_AGE", 0x100e34, [(0x10000,4)], .whole,
    [⟨"RefAge",11,0,.rw,.c,0x3c,[]⟩], []⟩,
  ⟨"DTS_STATUS", 0x100e38, [(0x10000,4)], .whole,
    [⟨"Shots",20,0,.ro,.v,0,[]⟩, ⟨"Phase",22,21,.ro,.v,0,[]⟩, ⟨"RefFault",23,23,.ro,.v,0,[]⟩, ⟨"DtsCheck",27,24,.ro,.v,0,[]⟩], []⟩,
  ⟨"DTS_SEQ", 0x100e3c, [(0x10000,4)], .whole,
    [⟨"AccSeq",31,0,.ro,.v,0,[]⟩], []⟩]

/-- Registers: fibre ports, part 3. -/
def portDefs3 : List RegDef := [
  ⟨"SKIP_COUNT", 0x100e40, [(0x10000,4)], .whole,
    [⟨"Skipped",31,0,.ro,.v,0,[]⟩], []⟩,
  ⟨"POLY", 0x100f00, [(0x10000,4),(0x10,6),(4,4)], .whole,
    [⟨"Coef",31,0,.rw,.c,0,[]⟩], []⟩]

/-- Registers: fibre ports. -/
def portDefs : List RegDef := portDefs0 ++ portDefs1 ++ portDefs2 ++ portDefs3

/-- Registers: auxiliary converter and zones. -/
def auxDefs : List RegDef := [
  ⟨"AUX_CTRL", 0x200000, [], .whole,
    [⟨"TcEnable",3,0,.rw,.c,0,[]⟩, ⟨"CjComp",7,4,.rw,.c,0,[]⟩, ⟨"AuxRate",14,8,.rw,.c,0xa,[]⟩, ⟨"TcRecDiv",23,16,.rw,.c,0,[]⟩], []⟩,
  ⟨"TC_TABLE", 0x200004, [], .whole,
    [⟨"Table",7,0,.rw,.c,0,[]⟩], []⟩,
  ⟨"CJ_OFFSET", 0x200008, [], .whole,
    [⟨"CjOffset",15,0,.rw,.c,0,[]⟩], []⟩,
  ⟨"AUX_STATUS", 0x20000c, [], .whole,
    [⟨"Open",3,0,.ro,.v,0,[]⟩, ⟨"OutOfTable",7,4,.ro,.v,0,[]⟩, ⟨"CjOutOfTable",8,8,.ro,.v,0,[]⟩, ⟨"Running",9,9,.ro,.v,0,[]⟩], []⟩,
  ⟨"TC_VALUE", 0x200010, [(4,4)], .whole,
    [⟨"Value",31,0,.ro,.v,0,[]⟩], []⟩,
  ⟨"CJ_VALUE", 0x200020, [], .whole,
    [⟨"Value",31,0,.ro,.v,0,[]⟩], []⟩,
  ⟨"TC_VOLT", 0x200030, [(4,4)], .whole,
    [⟨"Volt",31,0,.ro,.v,0,[]⟩], []⟩,
  ⟨"TBL_SEG", 0x200040, [(4,5)], .whole,
    [⟨"Segments",6,0,.rw,.c,1,[]⟩], []⟩,
  ⟨"ZONE_CFG", 0x200100, [(0x20,8)], .whole,
    [⟨"Source",1,0,.rw,.c,0,[]⟩, ⟨"Port",3,2,.rw,.c,0,[]⟩, ⟨"Range",7,4,.rw,.c,0,[]⟩, ⟨"Band",9,8,.rw,.c,0,[]⟩, ⟨"Tc",11,10,.rw,.c,0,[]⟩], []⟩,
  ⟨"ZONE_LO", 0x200104, [(0x20,8)], .whole,
    [⟨"Level",31,0,.rw,.c,0,[]⟩], []⟩,
  ⟨"ZONE_HI", 0x200108, [(0x20,8)], .whole,
    [⟨"Level",31,0,.rw,.c,0,[]⟩], []⟩,
  ⟨"ZONE_FIRST", 0x20010c, [(0x20,8)], .whole,
    [⟨"Index",17,0,.rw,.c,0,[]⟩], []⟩,
  ⟨"ZONE_LAST", 0x200110, [(0x20,8)], .whole,
    [⟨"Index",17,0,.rw,.c,0,[]⟩], []⟩,
  ⟨"ZONE_TIMEOUT", 0x200114, [(0x20,8)], .whole,
    [⟨"Timeout",15,0,.rw,.c,0x64,[]⟩], []⟩,
  ⟨"ZONE_OUT", 0x200118, [(0x20,8)], .whole,
    [⟨"Code",15,0,.ro,.v,0xa3d,[]⟩, ⟨"Lost",16,16,.ro,.v,1,[]⟩], []⟩,
  ⟨"TBL_X", 0x201000, [(0x400,5),(8,65)], .whole,
    [⟨"Point",31,0,.rw,.c,0,[]⟩], []⟩,
  ⟨"TBL_Y", 0x201004, [(0x400,5),(8,65)], .whole,
    [⟨"Point",31,0,.rw,.c,0,[]⟩], []⟩,
  ⟨"TBL_HOLE", 0x201208, [(0x400,5),(4,126)], .whole,
    [], []⟩]

/-- Registers: timing lanes, regression and scan ports, part 0. -/
def laneDefs0 : List RegDef := [
  ⟨"LANE_CFG", 0x300000, [(0x10,266)], .whole,
    [⟨"Threshold",9,0,.rw,.c,0x55,[]⟩, ⟨"Hyst",11,10,.rw,.c,1,[]⟩, ⟨"Falling",12,12,.rw,.c,0,[]⟩, ⟨"Enable",13,13,.rw,.c,0,[]⟩, ⟨"HoldOff",23,16,.rw,.c,5,[]⟩, ⟨"Emitter",26,24,.rw,.c,0,[]⟩], []⟩,
  ⟨"LANE_WIN", 0x300004, [(0x10,266)], .whole,
    [⟨"Open",13,0,.rw,.c,0,[]⟩, ⟨"Close",29,16,.rw,.c,0x7d0,[]⟩], []⟩,
  ⟨"LANE_TRIM", 0x300008, [(0x10,266)], .whole,
    [⟨"ThrTrim",7,0,.ro,.t,0,[]⟩, ⟨"Blind",8,8,.ro,.v,0,[]⟩, ⟨"Level",9,9,.ro,.v,0,[]⟩], []⟩,
  ⟨"LANE_CNT_A", 0x302000, [(8,266)], .whole,
    [⟨"PreStart",15,0,.ro,.v,0,[]⟩, ⟨"Outside",31,16,.ro,.v,0,[]⟩], []⟩,
  ⟨"LANE_CNT_B", 0x302004, [(8,266)], .whole,
    [⟨"HoldSup",15,0,.ro,.v,0,[]⟩, ⟨"Drop",31,16,.ro,.v,0,[]⟩], []⟩,
  ⟨"TL_CTRL", 0x304000, [], .whole,
    [⟨"PreFire",10,0,.rw,.c,0x100,[]⟩], []⟩,
  ⟨"TL_CLEAR", 0x304004, [], .whole,
    [⟨"ClearCounts",0,0,.wo,.v,0,[]⟩], []⟩,
  ⟨"TL_STATUS", 0x304008, [], .whole,
    [⟨"LaneCheck",3,0,.ro,.v,0,[]⟩], []⟩,
  ⟨"START_CFG", 0x304010, [(4,8)], .whole,
    [⟨"Planned",0,0,.rw,.c,0,[]⟩, ⟨"Nominal",13,8,.rw,.c,0xa,[]⟩], []⟩,
  ⟨"START_STAT", 0x304030, [(4,8)], .whole,
    [⟨"Missed",15,0,.ro,.v,0,[]⟩], []⟩,
  ⟨"REG_CFG", 0x308000, [(0x40,16)], .whole,
    [⟨"Source",8,0,.rw,.c,0,[0,1,2,3]⟩, ⟨"Enable",9,9,.rw,.c,0,[]⟩, ⟨"Sliding",10,10,.rw,.c,1,[]⟩, ⟨"Gate",24,12,.rw,.c,0x40,[]⟩], [0x40508,0x40509,0x405ff,0x405ff,0x40400,0x40400,0x40400,0x40400,0x40400,0x40400,0x40400,0x40400,0x40400,0x40400,0x40400,0x40400]⟩,
  ⟨"REG_NOM", 0x308004, [(0x40,16)], .whole,
    [⟨"Nominal",31,0,.rw,.c,0xf4240,[]⟩], []⟩,
  ⟨"REG_LIMIT", 0x308008, [(0x40,16)], .whole,
    [⟨"Limit",31,0,.rw,.c,0,[]⟩], []⟩,
  ⟨"REG_STATUS", 0x30800c, [(0x40,16)], .whole,
    [⟨"Valid",0,0,.ro,.v,0,[]⟩, ⟨"Stale",1,1,.ro,.v,0,[]⟩, ⟨"Used",14,2,.ro,.v,0,[]⟩, ⟨"Rejected",27,15,.ro,.v,0,[]⟩], []⟩,
  ⟨"REG_PERIOD_LO", 0x308010, [(0x40,16)], .low,
    [⟨"Period",31,0,.ro,.v,0,[]⟩], []⟩,
  ⟨"REG_PERIOD_HI", 0x308014, [(0x40,16)], .high,
    [⟨"Period",31,0,.ro,.v,0,[]⟩], []⟩,
  ⟨"REG_PHASE_LO", 0x308018, [(0x40,16)], .low,
    [⟨"Phase",31,0,.ro,.v,0,[]⟩], []⟩,
  ⟨"REG_PHASE_HI", 0x30801c, [(0x40,16)], .high,
    [⟨"Phase",31,0,.ro,.v,0,[]⟩], []⟩,
  ⟨"REG_PHASE_FRAC", 0x308020, [(0x40,16)], .whole,
    [⟨"Frac",31,0,.ro,.v,0,[]⟩], []⟩,
  ⟨"REG_JITTER", 0x308024, [(0x40,16)], .whole,
    [⟨"Jitter",31,0,.ro,.v,0,[]⟩], []⟩,
  ⟨"REG_REJECT_TOTAL", 0x308028, [(0x40,16)], .whole,
    [⟨"Total",31,0,.ro,.v,0,[]⟩], []⟩,
  ⟨"SCAN_CTRL", 0x310000, [(0x100,2)], .whole,
    [⟨"Enable",0,0,.rw,.c,0,[]⟩, ⟨"Mode",1,1,.rw,.c,0,[]⟩, ⟨"Halves",3,2,.rw,.c,3,[]⟩, ⟨"SdrvEnable",4,4,.rw,.c,0,[]⟩, ⟨"Steps",28,16,.rw,.c,0x200,[]⟩], []⟩,
  ⟨"SCAN_FREQ", 0x310004, [(0x100,2)], .whole,
    [⟨"FMin",15,0,.rw,.c,0x64,[]⟩, ⟨"FMax",31,16,.rw,.c,0x9c40,[]⟩], []⟩,
  ⟨"SCAN_NOM", 0x310008, [(0x100,2)], .whole,
    [⟨"NomFreq",31,0,.rw,.c,0x3e800,[]⟩], []⟩]

/-- Registers: timing lanes, regression and scan ports, part 1. -/
def laneDefs1 : List RegDef := [
  ⟨"SCAN_GEOM", 0x31000c, [(0x100,2)], .whole,
    [⟨"Amp",15,0,.rw,.c,0xe666,[]⟩, ⟨"SyncPhase",31,16,.rw,.c,0,[]⟩], []⟩,
  ⟨"SCAN_SWEEP", 0x310010, [(0x100,2)], .whole,
    [⟨"SweepStart",15,0,.rw,.c,0,[]⟩, ⟨"SweepEnd",31,16,.rw,.c,0xf000,[]⟩], []⟩,
  ⟨"SCAN_DRV", 0x310014, [(0x100,2)], .whole,
    [⟨"DrvPhase",15,0,.rw,.c,0,[]⟩, ⟨"FrameDiv",28,16,.rw,.c,1,[]⟩], []⟩,
  ⟨"SCAN_LIMIT", 0x310018, [(0x100,2)], .whole,
    [⟨"JitLimit",15,0,.rw,.c,0x64,[]⟩], []⟩,
  ⟨"SCAN_STATUS", 0x31001c, [(0x100,2)], .whole,
    [⟨"Locked",0,0,.ro,.v,0,[]⟩, ⟨"Lost",1,1,.w1c,.v,0,[]⟩, ⟨"Losses",31,16,.ro,.v,0,[]⟩], []⟩]

/-- Registers: timing lanes, regression and scan ports. -/
def laneDefs : List RegDef := laneDefs0 ++ laneDefs1

/-- Registers: emitters. -/
def emtDefs : List RegDef := [
  ⟨"EMT_CTRL", 0x320000, [], .whole,
    [⟨"PortEnable",7,0,.rw,.c,0,[]⟩, ⟨"FrameSrc",9,8,.rw,.c,2,[]⟩, ⟨"AutoBypass",10,10,.rw,.c,0,[]⟩], []⟩,
  ⟨"EMT_FRAME_PERIOD", 0x320004, [], .whole,
    [⟨"Time",23,0,.rw,.c,0xc350,[]⟩], []⟩,
  ⟨"EMT_FRAME_PHASE", 0x320008, [], .whole,
    [⟨"Time",23,0,.rw,.c,0,[]⟩], []⟩,
  ⟨"EMT_FRAME_EXT", 0x32000c, [], .whole,
    [⟨"FrmWidthMin",9,0,.rw,.c,0,[]⟩, ⟨"FrmWidthMax",25,16,.rw,.c,0,[]⟩], []⟩,
  ⟨"EMT_FRAME_DELAY", 0x320010, [], .whole,
    [⟨"FrmDelay",16,0,.rw,.c,0x14,[]⟩], []⟩,
  ⟨"EMT_TIMING", 0x320014, [], .whole,
    [⟨"PchgWidth",7,0,.rw,.c,0x28,[]⟩, ⟨"Settle",15,8,.rw,.c,0x1e,[]⟩, ⟨"FireWidth",23,16,.rw,.c,0x10,[]⟩], []⟩,
  ⟨"EXP_LIMIT", 0x320018, [], .whole,
    [⟨"ExpLimit",15,0,.rw,.c,0x7d0,[]⟩], []⟩,
  ⟨"EMT_BANK", 0x320020, [], .whole,
    [⟨"Swap",0,0,.wo,.v,0,[]⟩, ⟨"Page",1,1,.rw,.v,0,[]⟩, ⟨"ReadActive",2,2,.rw,.v,0,[]⟩, ⟨"Active",3,3,.ro,.v,0,[]⟩, ⟨"Waiting",4,4,.ro,.v,0,[]⟩, ⟨"Error",7,5,.ro,.v,0,[]⟩], []⟩,
  ⟨"EMT_STATUS", 0x320024, [], .whole,
    [⟨"EmitCheck",2,0,.ro,.v,0,[]⟩, ⟨"InFrame",3,3,.ro,.v,0,[]⟩], []⟩,
  ⟨"FRAME_COUNT", 0x320028, [], .whole,
    [⟨"Frames",31,0,.ro,.v,0,[]⟩], []⟩,
  ⟨"PORT_TIMING", 0x320100, [(0x20,8)], .whole,
    [⟨"ShotIvl",13,0,.rw,.c,0x190,[]⟩, ⟨"DitherSpan",24,16,.rw,.c,0x40,[]⟩, ⟨"StatLow",25,25,.rw,.c,1,[]⟩], []⟩,
  ⟨"PORT_STATE", 0x320104, [(0x20,8)], .whole,
    [⟨"State",1,0,.ro,.v,0,[]⟩, ⟨"Cause",3,2,.ro,.v,0,[]⟩, ⟨"Pins",8,4,.ro,.v,0,[]⟩, ⟨"Misses",10,9,.ro,.v,0,[]⟩], []⟩,
  ⟨"PORT_OPEN", 0x320108, [(0x20,8)], .whole,
    [⟨"Open",15,0,.w1c,.v,0,[]⟩], []⟩,
  ⟨"PORT_CNT_A", 0x32010c, [(0x20,8)], .whole,
    [⟨"Late",15,0,.ro,.v,0,[]⟩, ⟨"Suppressed",31,16,.ro,.v,0,[]⟩], []⟩,
  ⟨"PORT_CNT_B", 0x320110, [(0x20,8)], .whole,
    [⟨"Overrun",15,0,.ro,.v,0,[]⟩, ⟨"StageFault",31,16,.ro,.v,0,[]⟩], []⟩,
  ⟨"PORT_SHOTS_LO", 0x320114, [(0x20,8)], .low,
    [⟨"Shots",31,0,.ro,.v,0,[]⟩], []⟩,
  ⟨"PORT_SHOTS_HI", 0x320118, [(0x20,8)], .high,
    [⟨"Shots",31,0,.ro,.v,0,[]⟩], []⟩]

/-- Registers: returns and histograms. -/
def histDefs : List RegDef := [
  ⟨"HIST_CFG", 0x340000, [(0x40,8)], .whole,
    [⟨"BinW",1,0,.rw,.c,2,[]⟩, ⟨"SpanM1",4,2,.rw,.c,1,[]⟩, ⟨"Guard",8,5,.rw,.c,2,[]⟩, ⟨"CoarseFrac",17,9,.rw,.c,0x80,[]⟩, ⟨"BgSrc",19,18,.rw,.c,2,[]⟩, ⟨"EmitEmpty",20,20,.rw,.c,1,[]⟩, ⟨"AmbArray",21,21,.rw,.c,0,[]⟩], []⟩,
  ⟨"HIST_OFF", 0x340004, [(0x40,8)], .whole,
    [⟨"HistOff",12,0,.rw,.c,0,[]⟩, ⟨"PortOffset",31,16,.rw,.c,0,[]⟩], []⟩,
  ⟨"HIST_THR", 0x340008, [(0x40,8)], .whole,
    [⟨"FaLog",5,0,.rw,.c,0x18,[]⟩, ⟨"CandLog",13,8,.rw,.c,0xc,[]⟩, ⟨"SatFrac",24,16,.rw,.c,0xe6,[]⟩], []⟩,
  ⟨"CLASS_CFG", 0x34000c, [(0x40,8)], .whole,
    [⟨"WideLimit",7,0,.rw,.c,0,[]⟩, ⟨"RainWidth",15,8,.rw,.c,0x10,[]⟩, ⟨"RainInt",31,16,.rw,.c,0x40,[]⟩], []⟩,
  ⟨"RAIN_RANGE", 0x340010, [(0x40,8)], .whole,
    [⟨"RainRange",15,0,.rw,.c,0,[]⟩], []⟩,
  ⟨"PT_POINTS", 0x340014, [(0x40,8)], .whole,
    [⟨"Points",31,0,.ro,.v,0,[]⟩], []⟩,
  ⟨"HIST_LANE", 0x341000, [(4,256)], .whole,
    [⟨"LaneOffset",15,0,.rw,.c,0,[]⟩, ⟨"Segment",19,16,.rw,.c,0,[]⟩, ⟨"SegGate",20,20,.rw,.c,0,[]⟩], []⟩,
  ⟨"HIST_LANE_CNT", 0x341400, [(4,256)], .whole,
    [⟨"OutOfHist",15,0,.ro,.v,0,[]⟩, ⟨"NoBank",31,16,.ro,.v,0,[]⟩], []⟩,
  ⟨"PT_STATUS", 0x342000, [], .whole,
    [⟨"HistCheck",3,0,.ro,.v,0,[]⟩], []⟩,
  ⟨"PT_CNT_A", 0x342004, [], .whole,
    [⟨"NoBank",15,0,.ro,.v,0,[]⟩, ⟨"Truncated",31,16,.ro,.v,0,[]⟩], []⟩,
  ⟨"PT_CNT_B", 0x342008, [], .whole,
    [⟨"Abandoned",15,0,.ro,.v,0,[]⟩], []⟩,
  ⟨"PT_RETURNS_LO", 0x34200c, [], .low,
    [⟨"Returns",31,0,.ro,.v,0,[]⟩], []⟩,
  ⟨"PT_RETURNS_HI", 0x342010, [], .high,
    [⟨"Returns",31,0,.ro,.v,0,[]⟩], []⟩,
  ⟨"PT_CLEAR", 0x342014, [], .whole,
    [⟨"ClearCounts",0,0,.wo,.v,0,[]⟩], []⟩,
  ⟨"DUMP_CTRL", 0x342100, [], .whole,
    [⟨"Enable",0,0,.rw,.c,0,[]⟩, ⟨"Zoom",1,1,.rw,.c,0,[]⟩, ⟨"Lane",15,8,.rw,.c,0,[]⟩, ⟨"Every",31,16,.rw,.c,1,[]⟩], []⟩]

/-- Registers: Brew cores, host view. -/
def coreDefs : List RegDef := [
  ⟨"CORE_CTRL", 0x400000, [(0x10000,16)], .whole,
    [⟨"Run",0,0,.rw,.c,0,[]⟩, ⟨"Entry",16,4,.rw,.c,0,[]⟩, ⟨"Wdog",31,24,.rw,.c,0,[]⟩], []⟩,
  ⟨"CORE_WIN", 0x400004, [(0x10000,16)], .whole,
    [⟨"Base",15,0,.rw,.c,0,[]⟩, ⟨"Size",31,16,.rw,.c,0,[]⟩], []⟩,
  ⟨"CORE_RING", 0x400008, [(0x10000,16)], .whole,
    [⟨"Timeout",13,0,.rw,.c,0x3e8,[]⟩, ⟨"MaxLen",26,16,.rw,.c,0xb4,[]⟩], []⟩,
  ⟨"CORE_STATUS", 0x40000c, [(0x10000,16)], .whole,
    [⟨"State",2,0,.ro,.v,0,[]⟩, ⟨"Cause",7,4,.ro,.v,0,[]⟩, ⟨"Pc",20,8,.ro,.v,0,[]⟩], []⟩,
  ⟨"CORE_MBOX_IN", 0x400010, [(0x10000,16)], .whole,
    [⟨"Mail",31,0,.rw,.v,0,[]⟩], []⟩,
  ⟨"CORE_MBOX_OUT", 0x400014, [(0x10000,16)], .whole,
    [⟨"Mail",31,0,.ro,.v,0,[]⟩], []⟩,
  ⟨"MEM_ADDR", 0x400018, [(0x10000,16)], .whole,
    [⟨"Addr",18,0,.rw,.v,0,[]⟩, ⟨"Space",31,31,.rw,.v,0,[]⟩], []⟩,
  ⟨"MEM_DATA", 0x40001c, [(0x10000,16)], .whole,
    [⟨"Data",31,0,.rw,.v,0,[]⟩], []⟩,
  ⟨"CYCLES_LO", 0x400020, [(0x10000,16)], .low,
    [⟨"Cycles",31,0,.ro,.v,0,[]⟩], []⟩,
  ⟨"CYCLES_HI", 0x400024, [(0x10000,16)], .high,
    [⟨"Cycles",31,0,.ro,.v,0,[]⟩], []⟩,
  ⟨"STREAM_CFG", 0x400040, [(0x10000,16),(0x10,4)], .whole,
    [⟨"Enable",0,0,.rw,.c,0,[]⟩, ⟨"Ring",4,1,.rw,.c,0,[]⟩, ⟨"LenLog",9,5,.rw,.c,0xc,[]⟩, ⟨"Base",22,10,.rw,.c,0,[]⟩], []⟩,
  ⟨"STREAM_TYPE", 0x400044, [(0x10000,16),(0x10,4)], .whole,
    [⟨"Match",15,0,.rw,.c,0,[]⟩, ⟨"Mask",31,16,.rw,.c,0,[]⟩], []⟩,
  ⟨"STREAM_SEL", 0x400048, [(0x10000,16),(0x10,4)], .whole,
    [⟨"Sel0",7,0,.rw,.c,0,[]⟩, ⟨"Sel0Mask",15,8,.rw,.c,0,[]⟩, ⟨"Sel1",23,16,.rw,.c,0,[]⟩, ⟨"Sel1Mask",31,24,.rw,.c,0,[]⟩], []⟩]

/-- Registers: memory, part 0. -/
def memDefs0 : List RegDef := [
  ⟨"MC_CFG", 0x500000, [(0x1000,2)], .whole,
    [⟨"Enable",0,0,.rw,.c,1,[]⟩, ⟨"Ranks",1,1,.rw,.c,0,[]⟩, ⟨"Density",3,2,.rw,.c,2,[]⟩, ⟨"Speed",4,4,.rw,.c,1,[]⟩, ⟨"RetrainCE",15,8,.rw,.c,0x40,[]⟩, ⟨"PatrolHours",23,16,.rw,.c,0x18,[]⟩], []⟩,
  ⟨"MC_STATUS", 0x500004, [(0x1000,2)], .whole,
    [⟨"State",2,0,.ro,.v,0,[]⟩, ⟨"Hot",3,3,.ro,.v,0,[]⟩, ⟨"OverTemp",4,4,.ro,.v,0,[]⟩, ⟨"Owed",7,5,.ro,.v,0,[]⟩, ⟨"Attempts",9,8,.ro,.v,0,[]⟩, ⟨"Retraining",10,10,.ro,.v,0,[]⟩, ⟨"Retiring",11,11,.ro,.v,0,[]⟩], []⟩,
  ⟨"XOR_MASK", 0x500008, [(0x1000,2),(4,5)], .whole,
    [⟨"Mask",17,0,.rw,.c,0,[]⟩], [0x11,0x22,0x44,0x88,0]⟩,
  ⟨"CE_COUNT", 0x500020, [(0x1000,2)], .whole,
    [⟨"Corrected",31,0,.ro,.v,0,[]⟩], []⟩,
  ⟨"UE_COUNT", 0x500024, [(0x1000,2)], .whole,
    [⟨"Uncorrectable",15,0,.ro,.v,0,[]⟩, ⟨"PoisonReads",31,16,.ro,.v,0,[]⟩], []⟩,
  ⟨"SCRUB_STATUS", 0x500028, [(0x1000,2)], .whole,
    [⟨"Progress",9,0,.ro,.v,0,[]⟩, ⟨"Priority",10,10,.ro,.v,0,[]⟩, ⟨"Passes",31,16,.ro,.v,0,[]⟩], []⟩,
  ⟨"MC_CTRL", 0x500030, [(0x1000,2)], .whole,
    [⟨"ClearCounts",0,0,.wo,.v,0,[]⟩, ⟨"Retrain",1,1,.wo,.v,0,[]⟩], []⟩,
  ⟨"REPEAT_LO", 0x500200, [(0x1000,2),(8,32)], .whole,
    [⟨"Loc",31,0,.ro,.v,0,[]⟩], []⟩,
  ⟨"REPEAT_HI", 0x500204, [(0x1000,2),(8,32)], .whole,
    [⟨"LocHi",7,0,.ro,.v,0,[]⟩, ⟨"Count",9,8,.ro,.v,0,[]⟩, ⟨"Valid",10,10,.ro,.v,0,[]⟩, ⟨"Age",15,11,.ro,.v,0,[]⟩], []⟩,
  ⟨"RETIRE", 0x500400, [(0x1000,2),(4,64)], .whole,
    [⟨"Valid",0,0,.ro,.c,0,[]⟩, ⟨"Rank",1,1,.ro,.c,0,[]⟩, ⟨"BG",3,2,.ro,.c,0,[]⟩, ⟨"BA",5,4,.ro,.c,0,[]⟩, ⟨"Spare",7,6,.ro,.c,0,[]⟩, ⟨"Row",24,8,.ro,.c,0,[]⟩, ⟨"Host",25,25,.ro,.c,0,[]⟩], []⟩,
  ⟨"ERR_LOG_ADDR_LO", 0x500600, [(0x1000,2),(0x20,16)], .low,
    [⟨"Addr",31,0,.ro,.v,0,[]⟩], []⟩,
  ⟨"ERR_LOG_ADDR_HI", 0x500604, [(0x1000,2),(0x20,16)], .high,
    [⟨"Addr",31,0,.ro,.v,0,[]⟩], []⟩,
  ⟨"ERR_LOG_LOC_LO", 0x500608, [(0x1000,2),(0x20,16)], .whole,
    [⟨"LocLo",31,0,.ro,.v,0,[]⟩], []⟩,
  ⟨"ERR_LOG_LOC_HI", 0x50060c, [(0x1000,2),(0x20,16)], .whole,
    [⟨"LocHi",7,0,.ro,.v,0,[]⟩], []⟩,
  ⟨"ERR_LOG_SYN", 0x500610, [(0x1000,2),(0x20,16)], .whole,
    [⟨"Syndrome",14,0,.ro,.v,0,[]⟩, ⟨"Z",15,15,.ro,.v,0,[]⟩], []⟩,
  ⟨"ERR_LOG_TIME_LO", 0x500614, [(0x1000,2),(0x20,16)], .low,
    [⟨"Time",31,0,.ro,.v,0,[]⟩], []⟩,
  ⟨"ERR_LOG_TIME_HI", 0x500618, [(0x1000,2),(0x20,16)], .high,
    [⟨"Time",31,0,.ro,.v,0,[]⟩], []⟩,
  ⟨"ERR_LOG_INFO", 0x50061c, [(0x1000,2),(0x20,16)], .whole,
    [⟨"Requester",7,0,.ro,.v,0,[]⟩, ⟨"Kind",9,8,.ro,.v,0,[]⟩], []⟩,
  ⟨"LOG_STATUS", 0x500800, [(0x1000,2)], .whole,
    [⟨"Head",3,0,.ro,.v,0,[]⟩, ⟨"Count",31,16,.ro,.v,0,[]⟩], []⟩,
  ⟨"SRAM_BLOCK_HOLE0", 0x502000, [(4,8)], .whole,
    [], []⟩,
  ⟨"SRAM_CE_COUNT", 0x502020, [], .whole,
    [⟨"Corrected",31,0,.ro,.v,0,[]⟩], []⟩,
  ⟨"SRAM_UE_COUNT", 0x502024, [], .whole,
    [⟨"Uncorrectable",15,0,.ro,.v,0,[]⟩, ⟨"PoisonReads",31,16,.ro,.v,0,[]⟩], []⟩,
  ⟨"SRAM_BLOCK_HOLE1", 0x502028, [(4,2)], .whole,
    [], []⟩,
  ⟨"SRAM_MC_CTRL", 0x502030, [], .whole,
    [⟨"ClearCounts",0,0,.wo,.v,0,[]⟩, ⟨"Retrain",1,1,.wo,.v,0,[]⟩], []⟩]

/-- Registers: memory, part 1. -/
def memDefs1 : List RegDef := [
  ⟨"SRAM_BLOCK_HOLE2", 0x502034, [(4,115)], .whole,
    [], []⟩,
  ⟨"SRAM_REPEAT_LO", 0x502200, [(8,32)], .whole,
    [⟨"Loc",31,0,.ro,.v,0,[]⟩], []⟩,
  ⟨"SRAM_REPEAT_HI", 0x502204, [(8,32)], .whole,
    [⟨"LocHi",7,0,.ro,.v,0,[]⟩, ⟨"Count",9,8,.ro,.v,0,[]⟩, ⟨"Valid",10,10,.ro,.v,0,[]⟩, ⟨"Age",15,11,.ro,.v,0,[]⟩], []⟩,
  ⟨"SRAM_BLOCK_HOLE3", 0x502300, [(4,192)], .whole,
    [], []⟩,
  ⟨"SRAM_ERR_LOG_ADDR_LO", 0x502600, [(0x20,16)], .low,
    [⟨"Addr",31,0,.ro,.v,0,[]⟩], []⟩,
  ⟨"SRAM_ERR_LOG_ADDR_HI", 0x502604, [(0x20,16)], .high,
    [⟨"Addr",31,0,.ro,.v,0,[]⟩], []⟩,
  ⟨"SRAM_ERR_LOG_LOC_LO", 0x502608, [(0x20,16)], .whole,
    [⟨"LocLo",31,0,.ro,.v,0,[]⟩], []⟩,
  ⟨"SRAM_ERR_LOG_LOC_HI", 0x50260c, [(0x20,16)], .whole,
    [⟨"LocHi",7,0,.ro,.v,0,[]⟩], []⟩,
  ⟨"SRAM_ERR_LOG_SYN", 0x502610, [(0x20,16)], .whole,
    [⟨"Syndrome",14,0,.ro,.v,0,[]⟩, ⟨"Z",15,15,.ro,.v,0,[]⟩], []⟩,
  ⟨"SRAM_ERR_LOG_TIME_LO", 0x502614, [(0x20,16)], .low,
    [⟨"Time",31,0,.ro,.v,0,[]⟩], []⟩,
  ⟨"SRAM_ERR_LOG_TIME_HI", 0x502618, [(0x20,16)], .high,
    [⟨"Time",31,0,.ro,.v,0,[]⟩], []⟩,
  ⟨"SRAM_ERR_LOG_INFO", 0x50261c, [(0x20,16)], .whole,
    [⟨"Requester",7,0,.ro,.v,0,[]⟩, ⟨"Kind",9,8,.ro,.v,0,[]⟩], []⟩,
  ⟨"SRAM_LOG_STATUS", 0x502800, [], .whole,
    [⟨"Head",3,0,.ro,.v,0,[]⟩, ⟨"Count",31,16,.ro,.v,0,[]⟩], []⟩,
  ⟨"SRAM_BLOCK_HOLE4", 0x502804, [(4,511)], .whole,
    [], []⟩,
  ⟨"MEM_CHMASK", 0x503000, [], .whole,
    [⟨"ChMask",22,0,.rw,.c,0xf0,[]⟩], []⟩,
  ⟨"MEM_MODE", 0x503004, [], .whole,
    [⟨"Mode",1,0,.ro,.v,0,[]⟩], []⟩,
  ⟨"REGION_SIZE", 0x503010, [(4,3)], .whole,
    [⟨"Size",15,0,.rw,.c,0,[]⟩], [0x2000,0x1000,0x1000]⟩]

/-- Registers: memory. -/
def memDefs : List RegDef := memDefs0 ++ memDefs1

/-- Registers: rings, Crema, links, part 0. -/
def ringDefs0 : List RegDef := [
  ⟨"RING_CFG", 0x600000, [(0x40,16)], .whole,
    [⟨"Links",7,0,.rw,.c,0,[]⟩, ⟨"Failover",10,8,.rw,.c,0,[]⟩, ⟨"FailEn",11,11,.rw,.c,0,[]⟩, ⟨"Policy",12,12,.rw,.c,0,[7,8,11,12]⟩, ⟨"Crema",13,13,.rw,.c,0,[]⟩, ⟨"AutoStart",14,14,.rw,.c,0,[]⟩, ⟨"Weight",19,16,.rw,.c,4,[]⟩, ⟨"HighWater",26,20,.rw,.c,0x50,[]⟩], [0x5040000,0x5040000,0x5040000,0x5040000,0x5040000,0x5040000,0x5041000,0x5040000,0x5040000,0x5041000,0x5041000,0x5040000,0x5040000,0x5040000,0x5041000,0x5040000]⟩,
  ⟨"RING_BODY", 0x600004, [(0x40,16)], .whole,
    [⟨"Base",15,0,.rw,.c,0,[8,11,12]⟩, ⟨"Size",31,16,.rw,.c,0,[8,11,12]⟩], []⟩,
  ⟨"RING_AGE", 0x600008, [(0x40,16)], .whole,
    [⟨"AgeLimit",7,0,.rw,.c,0xc8,[]⟩, ⟨"FlushUs",23,8,.rw,.c,0x64,[]⟩], []⟩,
  ⟨"RING_DECL", 0x60000c, [(0x40,16)], .whole,
    [⟨"Decl",15,0,.rw,.c,0,[0,1,2,3,4,11,12,15]⟩], []⟩,
  ⟨"RING_STATE", 0x600010, [(0x40,16)], .whole,
    [⟨"State",1,0,.ro,.v,0,[]⟩, ⟨"High",2,2,.ro,.v,0,[]⟩, ⟨"DrainDrop",3,3,.ro,.v,0,[]⟩, ⟨"Fill",13,4,.ro,.v,0,[]⟩], []⟩,
  ⟨"RING_LOST_LO", 0x600014, [(0x40,16)], .low,
    [⟨"Lost",31,0,.ro,.v,0,[]⟩], []⟩,
  ⟨"RING_LOST_HI", 0x600018, [(0x40,16)], .high,
    [⟨"Lost",31,0,.ro,.v,0,[]⟩], []⟩,
  ⟨"RING_SEQ", 0x60001c, [(0x40,16)], .whole,
    [⟨"Next",31,0,.ro,.v,0,[]⟩], []⟩,
  ⟨"RING_DGSEQ", 0x600020, [(0x40,16)], .whole,
    [⟨"Next",31,0,.ro,.v,0,[]⟩], []⟩,
  ⟨"CREMA_CFG", 0x610000, [(0x10,16)], .whole,
    [⟨"Engine",2,0,.rw,.c,0,[]⟩, ⟨"PfMode",5,4,.rw,.c,0,[]⟩, ⟨"BlockKiB",12,8,.rw,.c,4,[]⟩, ⟨"ResetBlocks",23,16,.rw,.c,0x10,[]⟩], []⟩,
  ⟨"CREMA_STREAM", 0x610004, [(0x10,16)], .whole,
    [⟨"Generation",11,0,.ro,.v,0,[]⟩], []⟩,
  ⟨"CREMA_BLKSEQ", 0x610008, [(0x10,16)], .whole,
    [⟨"Next",31,0,.ro,.v,0,[]⟩], []⟩,
  ⟨"CREMA_RAW", 0x61000c, [(0x10,16)], .whole,
    [⟨"Fallbacks",15,0,.ro,.v,0,[]⟩, ⟨"RawBlocks",31,16,.ro,.v,0,[]⟩], []⟩,
  ⟨"ENG_STATUS", 0x610100, [(0x20,8)], .whole,
    [⟨"State",1,0,.ro,.v,0,[]⟩, ⟨"Ring",7,4,.ro,.v,0,[]⟩, ⟨"Switches",31,16,.ro,.v,0,[]⟩], []⟩,
  ⟨"ENG_IN_LO", 0x610108, [(0x20,8)], .low,
    [⟨"Bytes",31,0,.ro,.v,0,[]⟩], []⟩,
  ⟨"ENG_IN_HI", 0x61010c, [(0x20,8)], .high,
    [⟨"Bytes",31,0,.ro,.v,0,[]⟩], []⟩,
  ⟨"ENG_OUT_LO", 0x610110, [(0x20,8)], .low,
    [⟨"Bytes",31,0,.ro,.v,0,[]⟩], []⟩,
  ⟨"ENG_OUT_HI", 0x610114, [(0x20,8)], .high,
    [⟨"Bytes",31,0,.ro,.v,0,[]⟩], []⟩,
  ⟨"DECOMP_STATUS", 0x610200, [], .whole,
    [⟨"Error",2,0,.ro,.v,0,[]⟩, ⟨"Section",15,8,.ro,.v,0,[]⟩], []⟩,
  ⟨"LINK_CFG", 0x620000, [(0x100,8)], .whole,
    [⟨"Enable",0,0,.rw,.c,0,[]⟩, ⟨"Rate",1,1,.rw,.c,0,[]⟩, ⟨"Fec",2,2,.rw,.c,1,[]⟩, ⟨"Tag",3,3,.rw,.c,0,[]⟩, ⟨"Ipv6",4,4,.rw,.c,0,[]⟩, ⟨"UdpCsum",5,5,.rw,.c,1,[]⟩, ⟨"Pfc",6,6,.rw,.c,0,[]⟩, ⟨"Pcp",10,8,.rw,.c,0,[]⟩, ⟨"Vid",27,16,.rw,.c,0,[]⟩], []⟩,
  ⟨"LINK_FRAME", 0x620004, [(0x100,8)], .whole,
    [⟨"FrameMax",13,0,.rw,.c,0x5ee,[]⟩, ⟨"Dscp",21,16,.rw,.c,0,[]⟩, ⟨"StallMs",31,22,.rw,.c,0x64,[]⟩], []⟩,
  ⟨"LINK_MAC_LO", 0x620008, [(0x100,8)], .whole,
    [⟨"Mac",31,0,.rw,.c,0,[]⟩], []⟩,
  ⟨"LINK_MAC_HI", 0x62000c, [(0x100,8)], .whole,
    [⟨"Mac",15,0,.rw,.c,0,[]⟩], []⟩,
  ⟨"DST_MAC_LO", 0x620010, [(0x100,8)], .whole,
    [⟨"Mac",31,0,.rw,.c,0,[]⟩], []⟩]

/-- Registers: rings, Crema, links, part 1. -/
def ringDefs1 : List RegDef := [
  ⟨"DST_MAC_HI", 0x620014, [(0x100,8)], .whole,
    [⟨"Mac",15,0,.rw,.c,0,[]⟩], []⟩,
  ⟨"SRC_IP", 0x620020, [(0x100,8),(4,4)], .whole,
    [⟨"Addr",31,0,.rw,.c,0,[]⟩], []⟩,
  ⟨"DST_IP", 0x620030, [(0x100,8),(4,4)], .whole,
    [⟨"Addr",31,0,.rw,.c,0,[]⟩], []⟩,
  ⟨"PEER_IP", 0x620040, [(0x100,8),(4,4)], .whole,
    [⟨"Addr",31,0,.rw,.c,0,[]⟩], []⟩,
  ⟨"LINK_PORTS", 0x620050, [(0x100,8)], .whole,
    [⟨"SrcPort",15,0,.rw,.c,0x5a49,[]⟩, ⟨"DstPort",31,16,.rw,.c,0x5a49,[]⟩], []⟩,
  ⟨"LINK_CMD", 0x620054, [(0x100,8)], .whole,
    [⟨"CmdPort",15,0,.rw,.c,0x5a4a,[]⟩, ⟨"CmdEnable",16,16,.rw,.c,0,[]⟩, ⟨"PeerPrefix",24,17,.rw,.c,0,[]⟩], []⟩,
  ⟨"LINK_STATUS", 0x620060, [(0x100,8)], .whole,
    [⟨"State",2,0,.ro,.v,0,[]⟩, ⟨"Stalls",31,16,.ro,.v,0,[]⟩], []⟩,
  ⟨"LINK_LOAD", 0x620064, [(0x100,8)], .whole,
    [⟨"Load",10,0,.ro,.v,0,[]⟩], []⟩,
  ⟨"TX_FRAMES_LO", 0x620068, [(0x100,8)], .low,
    [⟨"Frames",31,0,.ro,.v,0,[]⟩], []⟩,
  ⟨"TX_FRAMES_HI", 0x62006c, [(0x100,8)], .high,
    [⟨"Frames",31,0,.ro,.v,0,[]⟩], []⟩,
  ⟨"RX_COUNT", 0x620070, [(0x100,8)], .whole,
    [⟨"Cmd",15,0,.ro,.v,0,[]⟩, ⟨"Discard",31,16,.ro,.v,0,[]⟩], []⟩,
  ⟨"TX_DISCARD", 0x620074, [(0x100,8)], .whole,
    [⟨"Datagrams",31,0,.ro,.v,0,[]⟩], []⟩]

/-- Registers: rings, Crema, links. -/
def ringDefs : List RegDef := ringDefs0 ++ ringDefs1

/-- Registers: alarms, Roaster, test, part 0. -/
def alarmDefs0 : List RegDef := [
  ⟨"ALARM_CTRL", 0x700000, [], .whole,
    [⟨"Budget",9,0,.rw,.c,0x100,[]⟩, ⟨"LogLevel",18,16,.rw,.c,1,[]⟩], []⟩,
  ⟨"ALARM_STATUS", 0x700004, [], .whole,
    [⟨"Latched",0,0,.ro,.v,0,[]⟩, ⟨"Severity",3,1,.ro,.v,0,[]⟩, ⟨"Tracked",13,4,.ro,.v,0,[]⟩, ⟨"Coalescing",14,14,.ro,.v,0,[]⟩], []⟩,
  ⟨"ALARM_MASK", 0x700010, [(4,8)], .whole,
    [⟨"Code",15,0,.rw,.c,0,[]⟩, ⟨"Mask",31,16,.rw,.c,0,[]⟩], []⟩,
  ⟨"ALARM_HIST_HEAD", 0x700040, [], .whole,
    [⟨"Head",5,0,.rsh,.p,0,[]⟩, ⟨"Count",31,16,.rsh,.p,0,[]⟩], []⟩,
  ⟨"ALARM_HIST_CODE", 0x701000, [(0x20,64)], .whole,
    [⟨"Code",15,0,.rsh,.p,0,[]⟩, ⟨"Severity",18,16,.rsh,.p,0,[]⟩, ⟨"Valid",31,31,.rsh,.p,0,[]⟩], []⟩,
  ⟨"ALARM_HIST_ARG0", 0x701004, [(0x20,64)], .whole,
    [⟨"Arg",31,0,.rsh,.p,0,[]⟩], []⟩,
  ⟨"ALARM_HIST_ARG1", 0x701008, [(0x20,64)], .whole,
    [⟨"Arg",31,0,.rsh,.p,0,[]⟩], []⟩,
  ⟨"ALARM_HIST_TIME_LO", 0x701010, [(0x20,64)], .low,
    [⟨"Time",31,0,.rsh,.p,0,[]⟩], []⟩,
  ⟨"ALARM_HIST_TIME_HI", 0x701014, [(0x20,64)], .high,
    [⟨"Time",31,0,.rsh,.p,0,[]⟩], []⟩,
  ⟨"CAL_CFG", 0x710000, [], .whole,
    [⟨"DeltaT",3,0,.rw,.c,3,[]⟩, ⟨"Interval",15,4,.rw,.c,0x3c,[]⟩, ⟨"ForceAfter",23,16,.rw,.c,0xa,[]⟩, ⟨"TdcSrc",25,24,.rw,.c,2,[]⟩], []⟩,
  ⟨"CAL_CMD", 0x710004, [], .whole,
    [⟨"Coherent",3,0,.wo,.v,0,[]⟩, ⟨"Raman",7,4,.wo,.v,0,[]⟩, ⟨"Tdc",8,8,.wo,.v,0,[]⟩, ⟨"Thresh",9,9,.wo,.v,0,[]⟩], []⟩,
  ⟨"CAL_STATUS", 0x710008, [], .whole,
    [⟨"Waiting",3,0,.ro,.v,0,[]⟩, ⟨"Running",7,4,.ro,.v,0,[]⟩, ⟨"Failures",23,8,.ro,.v,0,[]⟩], []⟩,
  ⟨"FIBRE_TEST", 0x720000, [(0x10,4)], .whole,
    [⟨"Mode",1,0,.rw,.c,0,[]⟩, ⟨"EchoAtten",2,2,.rw,.c,0,[]⟩, ⟨"Pattern",4,3,.rw,.c,0,[]⟩, ⟨"Seed",31,16,.rw,.c,0,[]⟩], []⟩,
  ⟨"SYN_FIBRE", 0x720004, [(0x10,4)], .whole,
    [⟨"BreakPos",17,0,.rw,.c,0x3ffff,[]⟩, ⟨"A0",25,18,.rw,.c,0x40,[]⟩, ⟨"NoiseRms",31,26,.rw,.c,1,[]⟩], []⟩,
  ⟨"SYN_VIB_A", 0x720040, [(8,8)], .whole,
    [⟨"VibPos",17,0,.rw,.c,0,[]⟩, ⟨"LossMdb",31,18,.rw,.c,0,[1,2,3,4,5,6,7]⟩], [0x3200000,0,0,0,0,0,0,0]⟩,
  ⟨"SYN_VIB_B", 0x720044, [(8,8)], .whole,
    [⟨"VibAmp",15,0,.rw,.c,0,[]⟩, ⟨"VibFreq",31,16,.rw,.c,0,[]⟩], []⟩,
  ⟨"LANE_TEST", 0x720100, [], .whole,
    [⟨"Inject",15,0,.rw,.c,0,[]⟩, ⟨"FireStart",23,16,.rw,.c,0,[]⟩, ⟨"InjAmp",31,24,.rw,.c,0x64,[]⟩], []⟩,
  ⟨"LANE_TEST_T", 0x720104, [], .whole,
    [⟨"InjDelay",12,0,.rw,.c,0x64,[]⟩, ⟨"LoopDelay",18,13,.rw,.c,0xa,[]⟩], []⟩,
  ⟨"SYN_RET0", 0x720110, [], .whole,
    [⟨"Lanes",15,0,.rw,.c,0,[]⟩, ⟨"Seed",31,16,.rw,.c,0,[]⟩], []⟩,
  ⟨"SYN_RET1", 0x720114, [], .whole,
    [⟨"Target",31,0,.rw,.c,0,[]⟩], []⟩,
  ⟨"SYN_RET2", 0x720118, [], .whole,
    [⟨"Prob",7,0,.rw,.c,0x80,[]⟩, ⟨"Sigma",23,8,.rw,.c,0x32,[]⟩, ⟨"AmbRate",31,24,.rw,.c,1,[]⟩], []⟩,
  ⟨"SYN_RET3", 0x72011c, [], .whole,
    [⟨"Target0",5,0,.rw,.c,0xa,[]⟩], []⟩,
  ⟨"LINK_TEST", 0x720200, [(4,8)], .whole,
    [⟨"Loop",1,0,.rw,.c,0,[]⟩, ⟨"PrbsGen",2,2,.rw,.c,0,[]⟩, ⟨"PrbsCheck",3,3,.rw,.c,0,[]⟩, ⟨"PRBS_ERR",31,16,.ro,.v,0,[]⟩], []⟩,
  ⟨"BIST_CFG", 0x720300, [], .whole,
    [⟨"Sram",0,0,.rw,.c,0,[]⟩, ⟨"Dram",1,1,.rw,.c,0,[]⟩], []⟩]

/-- Registers: alarms, Roaster, test, part 1. -/
def alarmDefs1 : List RegDef := [
  ⟨"BIST_STATUS", 0x720304, [], .whole,
    [⟨"Failed",7,0,.ro,.v,0,[]⟩, ⟨"Ran",8,8,.ro,.v,0,[]⟩], []⟩]

/-- Registers: alarms, Roaster, test. -/
def alarmDefs : List RegDef := alarmDefs0 ++ alarmDefs1

/-- Registers: Brew cores, core view: the core space of core n stands at 0x1_0000_0000 + 0x10_0000 x n, part 0. -/
def cvDefs0 : List RegDef := [
  ⟨"SP_WP", 0x100070000, [(0x100000,16),(0x10,4)], .whole,
    [⟨"Count",31,0,.ro,.v,0,[]⟩], []⟩,
  ⟨"SP_RP", 0x100070004, [(0x100000,16),(0x10,4)], .whole,
    [⟨"Count",31,0,.rw,.v,0,[]⟩], []⟩,
  ⟨"SP_WMARK", 0x100070008, [(0x100000,16),(0x10,4)], .whole,
    [⟨"Value",31,0,.rw,.v,0,[]⟩], []⟩,
  ⟨"SP_DROP", 0x10007000c, [(0x100000,16),(0x10,4)], .whole,
    [⟨"Value",31,0,.ro,.v,0,[]⟩], []⟩,
  ⟨"DMA_LOCAL", 0x100070100, [(0x100000,16),(0x20,4)], .whole,
    [⟨"Addr",31,0,.rw,.v,0,[]⟩], []⟩,
  ⟨"DMA_REMOTE_LO", 0x100070104, [(0x100000,16),(0x20,4)], .whole,
    [⟨"Addr",31,0,.rw,.v,0,[]⟩], []⟩,
  ⟨"DMA_REMOTE_HI", 0x100070108, [(0x100000,16),(0x20,4)], .whole,
    [⟨"Addr",3,0,.rw,.v,0,[]⟩], []⟩,
  ⟨"DMA_SHAPE", 0x10007010c, [(0x100000,16),(0x20,4)], .whole,
    [⟨"RowBytes",15,0,.rw,.v,8,[]⟩, ⟨"Rows",28,16,.rw,.v,1,[]⟩], []⟩,
  ⟨"DMA_STRIDE", 0x100070110, [(0x100000,16),(0x20,4)], .whole,
    [⟨"LStride",15,0,.rw,.v,0,[]⟩, ⟨"RStride",31,16,.rw,.v,0,[]⟩], []⟩,
  ⟨"DMA_CTRL", 0x100070114, [(0x100000,16),(0x20,4)], .whole,
    [⟨"Go",0,0,.wo,.v,0,[]⟩, ⟨"Dir",1,1,.rw,.v,0,[]⟩, ⟨"Target",2,2,.rw,.v,0,[]⟩, ⟨"IntEn",3,3,.rw,.v,0,[]⟩], []⟩,
  ⟨"DMA_STATUS", 0x100070118, [(0x100000,16),(0x20,4)], .whole,
    [⟨"Busy",0,0,.ro,.v,0,[]⟩, ⟨"Done",1,1,.w1c,.v,0,[]⟩, ⟨"Error",6,4,.ro,.v,0,[]⟩], []⟩,
  ⟨"INT_ENABLE", 0x100070200, [(0x100000,16)], .whole,
    [⟨"Sources",15,0,.rw,.v,0,[]⟩], []⟩,
  ⟨"INT_PENDING", 0x100070204, [(0x100000,16)], .whole,
    [⟨"Sources",15,0,.w1c,.v,0,[]⟩], []⟩,
  ⟨"INT_VECBASE", 0x100070208, [(0x100000,16)], .whole,
    [⟨"VecBase",12,0,.rw,.v,0,[]⟩], []⟩,
  ⟨"INT_SAVE", 0x10007020c, [(0x100000,16)], .whole,
    [⟨"EPC",12,0,.rw,.v,0,[]⟩, ⟨"EWSL",20,16,.rw,.v,0,[]⟩, ⟨"IE",24,24,.ro,.v,0,[]⟩, ⟨"Cause",31,28,.ro,.v,0,[]⟩], []⟩,
  ⟨"CV_TIME_LO", 0x100070300, [(0x100000,16)], .low,
    [⟨"Time",31,0,.ro,.v,0,[]⟩], []⟩,
  ⟨"CV_TIME_HI", 0x100070304, [(0x100000,16)], .high,
    [⟨"Time",31,0,.ro,.v,0,[]⟩], []⟩,
  ⟨"CORE_INFO", 0x100070308, [(0x100000,16)], .whole,
    [⟨"Epoch",15,0,.ro,.v,0,[]⟩, ⟨"CoreId",19,16,.ro,.v,0,[]⟩], [0,0x10000,0x20000,0x30000,0x40000,0x50000,0x60000,0x70000,0x80000,0x90000,0xa0000,0xb0000,0xc0000,0xd0000,0xe0000,0xf0000]⟩,
  ⟨"TIMER", 0x10007030c, [(0x100000,16)], .whole,
    [⟨"Period",23,0,.rw,.v,0,[]⟩], []⟩,
  ⟨"SIGNAL", 0x100070310, [(0x100000,16)], .whole,
    [⟨"Kick",0,0,.wo,.v,0,[]⟩, ⟨"Doorbell",31,16,.wo,.v,0,[]⟩], []⟩,
  ⟨"MBOX_IN", 0x100070318, [(0x100000,16)], .whole,
    [⟨"Mail",31,0,.ro,.v,0,[]⟩], []⟩,
  ⟨"MBOX_OUT", 0x10007031c, [(0x100000,16)], .whole,
    [⟨"Mail",31,0,.rw,.v,0,[]⟩], []⟩,
  ⟨"ALARM_ARG0", 0x100070320, [(0x100000,16)], .whole,
    [⟨"Arg",31,0,.rw,.v,0,[]⟩], []⟩,
  ⟨"ALARM_ARG1", 0x100070324, [(0x100000,16)], .whole,
    [⟨"Arg",31,0,.rw,.v,0,[]⟩], []⟩]

/-- Registers: Brew cores, core view: the core space of core n stands at 0x1_0000_0000 + 0x10_0000 x n, part 1. -/
def cvDefs1 : List RegDef := [
  ⟨"ALARM_RAISE", 0x100070328, [(0x100000,16)], .whole,
    [⟨"Code",15,0,.wo,.v,0,[]⟩, ⟨"Severity",18,16,.wo,.v,0,[]⟩], []⟩,
  ⟨"CORE_FLAGS", 0x10007032c, [(0x100000,16)], .whole,
    [⟨"AccSat",0,0,.w1c,.v,0,[]⟩, ⟨"Poison",1,1,.w1c,.v,0,[]⟩, ⟨"NmiActive",2,2,.w1c,.v,0,[]⟩, ⟨"AlarmErr",3,3,.w1c,.v,0,[]⟩], []⟩,
  ⟨"RING_STATUS", 0x100070400, [(0x100000,16)], .whole,
    [⟨"Held",0,0,.ro,.v,0,[]⟩, ⟨"Ring",4,1,.ro,.v,0,[]⟩, ⟨"Size",18,8,.ro,.v,0,[]⟩, ⟨"Last",22,20,.ro,.v,0,[]⟩], []⟩]

/-- Registers: Brew cores, core view: the core space of core n stands at 0x1_0000_0000 + 0x10_0000 x n. -/
def cvDefs : List RegDef := cvDefs0 ++ cvDefs1

/-- The table that covers an address. -/
def defsAt (a : Nat) : List RegDef :=
  if a < 0x10000 then hostDefs else
  if a < 0x20000 then clkDefs else
  if a < 0x100000 then pwrDefs else
  if a < 0x200000 then portDefs else
  if a < 0x300000 then auxDefs else
  if a < 0x320000 then laneDefs else
  if a < 0x340000 then emtDefs else
  if a < 0x400000 then histDefs else
  if a < 0x500000 then coreDefs else
  if a < 0x600000 then memDefs else
  if a < 0x700000 then ringDefs else
  if a < 0x100000000 then alarmDefs else
  cvDefs

end Sys2Proof.Machine
end

