-- ==== Sys2Proof/Machine/RegFile.lean ====
section
/-! DEFINITION. The register file: every register of the register tables has its one home here, and every read and
write of a register goes through these operations. An unlisted address reads its reset value (R18). -/
namespace Sys2Proof.Machine

/-- The register file: address to 32-bit word. DESIGN CHOICE, safe: log 5. -/
abbrev RegFile := Sparse Word

/-- A field of a register: the byte address of its register and its bits. -/
structure Fld where
  addr : Nat
  hi : Nat
  lo : Nat
deriving DecidableEq, Repr

/-- The innermost index of an offset within repeated registers, if the offset is that of one of them. -/
def dimIndex : List (Nat × Nat) → Nat → Nat → Option Nat
  | [], off, i => if off = 0 then some i else none
  | (st, n) :: ds, off, _ =>
    if off / st < n then dimIndex ds (off % st) (off / st) else none

/-- The register heading of a table at an address, with its innermost index. -/
def findIn : List RegDef → Nat → Option (RegDef × Nat)
  | [], _ => none
  | d :: ds, a =>
    if a < d.base then findIn ds a
    else match dimIndex d.dims (a - d.base) 0 with
      | some i => some (d, i)
      | none => findIn ds a

/-- The register heading at an address, with its innermost index. -/
def findReg (a : Nat) : Option (RegDef × Nat) := findIn (defsAt a) a

/-- The bits of a field set to `v`, all others zero. -/
def placeBits (hi lo v : Nat) : Nat := v % 2 ^ (hi + 1 - lo) * 2 ^ lo

/-- The reset word of a register heading at an innermost index. -/
def resetOf (d : RegDef) (i : Nat) : Nat :=
  match d.per[i]? with
  | some w => w
  | none => d.fields.foldl (fun w f => w + placeBits f.hi f.lo f.rst) 0

/-- What an unlisted register reads as: the reset word of its register table (R18). -/
def resetWord (a : Nat) : Word :=
  match findReg a with
  | some (d, i) => BitVec.ofNat 32 (resetOf d i)
  | none => 0

/-- The mask of the fields of a register that satisfy `p`, at their innermost index. -/
def maskOf (p : FieldDef → Nat → Bool) (a : Nat) : Word :=
  match findReg a with
  | some (d, i) =>
    BitVec.ofNat 32 (d.fields.foldl (fun w f => if p f i then w + placeBits f.hi f.lo (2 ^ (f.hi + 1 - f.lo) - 1) else w) 0)
  | none => 0

/-- A field the host may set: RW and not fixed at this index (R13). -/
def FieldDef.settable (f : FieldDef) (i : Nat) : Bool := f.acc == .rw && !(f.roAt.contains i)

/-- The RW bits of class C of a register: those a write sends to the pending bank (R19). -/
def cMask (a : Nat) : Word := maskOf (fun f i => f.settable i && f.cls == .c) a

/-- The RW bits of any other class: those a write sets at once (R19). -/
def vMask (a : Nat) : Word := maskOf (fun f i => f.settable i && f.cls != .c) a

/-- The W1C bits of a register (R13). -/
def w1cMask (a : Nat) : Word := maskOf (fun f _ => f.acc == .w1c) a

/-- The bits a read returns: all but WO fields (R13, R16). -/
def readMask (a : Nat) : Word := maskOf (fun f _ => f.acc != .wo) a

/-- The bits of RO fields of class P or V, which the snapshot mirror shows (R513). -/
def mirrorMask (a : Nat) : Word := maskOf (fun f _ => f.acc == .ro && (f.cls == .p || f.cls == .v)) a

/-- The bits of RSH fields. -/
def rshMask (a : Nat) : Word := maskOf (fun f _ => f.acc == .rsh) a

/-- The word of a register. -/
def rfWord (r : RegFile) (a : Nat) : Word := spGet resetWord r a

/-- Set the word of a register. -/
def rfSet (r : RegFile) (a : Nat) (v : Word) : RegFile := spSet resetWord r a v

/-- The value of a field within a word. -/
def Fld.of (f : Fld) (w : Word) : Nat := w.toNat / 2 ^ f.lo % 2 ^ (f.hi + 1 - f.lo)

/-- A word with a field replaced. -/
def Fld.put (f : Fld) (w : Word) (v : Nat) : Word :=
  BitVec.ofNat 32 (w.toNat - placeBits f.hi f.lo (f.of w) + placeBits f.hi f.lo v)

/-- The value of a field. -/
def rfRd (r : RegFile) (f : Fld) : Nat := f.of (rfWord r f.addr)

/-- Set a field. -/
def rfWr (r : RegFile) (f : Fld) (v : Nat) : RegFile := rfSet r f.addr (f.put (rfWord r f.addr) v)

/-- The value of a field read as two's complement of its width. -/
def rfRdS (r : RegFile) (f : Fld) : Int :=
  let v := rfRd r f
  let w := f.hi + 1 - f.lo
  if v < 2 ^ (w - 1) then (v : Int) else (v : Int) - 2 ^ w

/-- Add to a field, saturating at its largest value ("saturates" in the register tables). -/
def rfInc (r : RegFile) (f : Fld) (k : Nat) : RegFile := rfWr r f (min (rfRd r f + k) (2 ^ (f.hi + 1 - f.lo) - 1))

/-- A class C word overlaid with a staged one (R35). -/
def overlayWord (mask old new : Word) : Word := (old &&& ~~~mask) ||| (new &&& mask)

/-- A register file with staged class C words applied (R35, R37). -/
def rfOverlay (r : RegFile) : Sparse Word → RegFile
  | [] => r
  | (a, v) :: m => rfOverlay (rfSet r a (overlayWord (cMask a) (rfWord r a) v)) m

/-- Two adjacent registers read as one 64-bit quantity, low half first (R17). -/
def rfRd64 (r : RegFile) (lo : Nat) : Nat := (rfWord r lo).toNat + 2 ^ 32 * (rfWord r (lo + 4)).toNat

/-- Set a 64-bit quantity (R17). -/
def rfWr64 (r : RegFile) (lo v : Nat) : RegFile :=
  rfSet (rfSet r lo (BitVec.ofNat 32 v)) (lo + 4) (BitVec.ofNat 32 (v / 2 ^ 32))

end Sys2Proof.Machine
end

