-- ==== Sys2Proof/Machine/StateAux.lean ====
section
/-! DEFINITION. The state of the auxiliary converter and the zone outputs (R197 – R207). Instants are on the crystal count,
ns, unless they are said to be device times. -/
namespace Sys2Proof.Machine

/-- A conversion that waits for the next pulse of its input (R199). -/
structure TcConv where
  code : Int
  mid : Nat                    -- device time of its midpoint
  openBefore : Bool
  scan : Nat
  cfg : RegFile
deriving DecidableEq, Repr

/-- A thermocouple input (R197 – R201). -/
structure TcSt where
  pulsed : Bool                -- its pulse of the running scan has ended
  done : Bool                  -- its conversion of the running scan has ended
  mark : Bool                  -- the latest pulse was marked open
  conv : Option TcConv
  good : List (Nat × Int)      -- values without OPEN or OUT_OF_TABLE, newest first: device time, m°C
  at_ : Option Nat             -- instant of the latest release without OPEN
deriving DecidableEq, Repr

/-- A scan whose 0x0203 record has not left (R202). -/
structure ScanRec where
  seq : Nat
  dev : Nat                    -- device time and crystal instant of its start
  at_ : Nat
  epoch : Nat
  enabled : Nat
  waiting : List Nat           -- inputs not yet released; 4 for the cold junction
  open_ : Nat
  oot : Nat
  cjOot : Bool
  cj : Int
  temp : List Int
  volt : List Int
deriving DecidableEq, Repr

/-- The auxiliary converter. -/
structure AuxSt where
  running : Bool
  scanAt : Nat                 -- start of the running scan
  scanDev : Nat
  nextAt : Nat                 -- start of the next scan
  base : Nat                   -- start of the scan from which the running AuxRate counts, and scans since (R197)
  count : Nat
  seq : Nat                    -- scans started since reset
  active : Bool                -- a scan runs
  cjDone : Bool
  cfg : RegFile                -- configuration of the running scan
  tcs : Vector TcSt 4
  recs : List ScanRec
deriving DecidableEq, Repr

/-- A zone (R204 – R206). -/
structure ZoneSt where
  most : Option Nat            -- largest BE of the sets closed since the previous update
  value : Option Nat           -- the band value that holds
  at_ : Option Nat             -- instant of the last contributing band set
deriving DecidableEq, Repr

/-- The zone outputs. -/
structure ZonesSt where
  zones : Vector ZoneSt 8
  low : Bool                   -- V_RATIO is too low: every zone drives 0 V (R546)
  last : Option Nat            -- count of the last 100 ms update
deriving DecidableEq, Repr


/-- A thermocouple input that has not converted. -/
def TcSt.rest : TcSt := { pulsed := false, done := false, mark := false, conv := none, good := [], at_ := none }
/-- The auxiliary converter, stopped. -/
def AuxSt.rest : AuxSt :=
  { running := false, scanAt := 0, scanDev := 0, nextAt := 0, base := 0, count := 0, seq := 0, active := false, cjDone := false, cfg := [], tcs := Vector.replicate 4 TcSt.rest,
    recs := [] }
/-- The zone outputs. -/
def ZonesSt.rest : ZonesSt := { zones := Vector.replicate 8 ⟨none, none, none⟩, low := false, last := none }

end Sys2Proof.Machine
end

