-- ==== Sys2Proof/Machine/StateBrew.lean ====
section
/-! DEFINITION. The state of the Brew cores that no register shows (R296 – R337). Instants are on the crystal count, ns. -/
namespace Sys2Proof.Machine

/-- Where a result lands (R299, R311). -/
inductive Dest
  | w (phys : Nat) (v : Word)                 -- a physical data register
  | acc (d : Nat) (im : Bool) (v : Int)       -- a half of an accumulator
  | part (d part : Nat) (v : Word)            -- a portion of an accumulator (R305)
  | addr (f : Nat) (v : Word)                 -- an address register
deriving DecidableEq, Repr

/-- A result in flight: it lands when `left` further instructions have begun to issue (R311). -/
structure Flight where
  left : Nat
  chain : Bool                 -- of an accumulating operation
  to_ : Dest
deriving DecidableEq, Repr

/-- An RPT in progress (R315, R316). -/
structure RptSt where
  first : Nat                  -- index of the first word of its block
  words : Nat
  at_ : Nat                    -- words of the running iteration that have issued
  left : Nat                   -- iterations that have not ended
  step : Nat
deriving DecidableEq, Repr

/-- A ring-port wait (R329, R330). -/
inductive PortWait
  | credit (ring size phys : Nat)   -- RACQ waits for space
  | copy (phys : Nat)               -- RCOM copies its record
deriving DecidableEq, Repr

/-- A DMA transfer in progress, with the settings at its Go (R324). -/
structure DmaSt where
  toRemote : Bool
  table : Bool
deriving DecidableEq, Repr

/-- A stream port: records produced and matched, and records accepted and not yet written (R326, R327). -/
structure SpSt where
  offered : List (List Byte)
  accepted : List (List Byte)
deriving DecidableEq, Repr

/-- A core. -/
structure CoreSt where
  w : Vector Word 64           -- physical data registers
  wsl : Nat                    -- slide register
  acc : Vector (Int × Int) 8   -- re and im, s40
  addr : Vector Word 64        -- address registers by selector f: P, N, K, B (R307)
  pc : Nat                     -- index of the next instruction
  flights : List Flight        -- results in flight, in order of issue
  branch : Option (Nat × Option Nat)  -- delay slots still to issue, and the target; none for RETI
  rpt : Option RptSt
  wait : Option PortWait
  deadline : Option Nat        -- of the RACQ that waits, set at its first issue (R320)
  resume : Option Nat          -- deadline of a RACQ to which a handler has just returned (R320)
  kept : List (Nat × Option Nat) -- return index of each interrupt that has not returned, and the deadline of a RACQ it ended, newest first (R320)
  errs : List Nat              -- causes of errors that have not been taken (R321)
  aborting : Bool              -- an ABORT waits for acceptance (R337)
  timerFrom : Nat              -- start of the running timer period
  timerMissed : Bool           -- a period elapsed while the core was frozen (R336)
  wdogFrom : Nat               -- last kick, or expiry, of the watchdog (R322)
  timeLatch : Option Word      -- TIME_HI latched by a read of TIME_LO (R510)
  low : Word                   -- low half of an instruction word, held until the high half is written (R335)
  dma : Vector (Option DmaSt) 4
  sp : Vector SpSt 4
deriving DecidableEq, Repr

/-- A core at its start: every register is zero (R333, R334). -/
def CoreSt.rest : CoreSt :=
  ⟨Vector.replicate 64 0, 0, Vector.replicate 8 (0, 0), Vector.replicate 64 0, 0, [], none, none, none, none, none, [], [], false, 0, false, 0, none, 0,
    Vector.replicate 4 none, Vector.replicate 4 ⟨[], []⟩⟩

end Sys2Proof.Machine
end

