-- ==== Sys2Proof/Machine/Fields.lean ====
section
/-! DEFINITION. One definition per register field of the spec's register tables: its address and its bits. The
arguments are the register's indices, outermost first (port, slot, tone ...); slot 0 is the plan and slot 1 the watch
plan of R80. -/
namespace Sys2Proof.Machine

def Fld.ID_PART_Vendor : Fld := ⟨0, 15, 0⟩
def Fld.ID_PART_Part : Fld := ⟨0, 31, 16⟩
def Fld.ID_REV_Revision : Fld := ⟨4, 7, 0⟩
def Fld.ID_LEVELS_Levels : Fld := ⟨8, 31, 0⟩
def Fld.DIE_ID_LO_DieId : Fld := ⟨0x10, 31, 0⟩
def Fld.DIE_ID_HI_DieId : Fld := ⟨0x14, 31, 0⟩
def Fld.FUSE_STATUS_KeyHash : Fld := ⟨0x18, 0, 0⟩
def Fld.FUSE_STATUS_Lock : Fld := ⟨0x18, 1, 1⟩
def Fld.FUSE_STATUS_ReadbackFault : Fld := ⟨0x18, 2, 2⟩
def Fld.DEVICE_ID_DeviceId : Fld := ⟨0x20, 9, 0⟩
def Fld.DEVICE_ID_ArrayId : Fld := ⟨0x20, 31, 16⟩
def Fld.HOST_STATUS_Outstanding : Fld := ⟨0x30, 3, 0⟩
def Fld.HOST_STATUS_Queued : Fld := ⟨0x30, 8, 4⟩
def Fld.HOST_STATUS_Framing : Fld := ⟨0x30, 23, 16⟩
def Fld.HOST_STATUS_CrcErr : Fld := ⟨0x30, 31, 24⟩
def Fld.ALERT_EVENT_ImageDone : Fld := ⟨0x34, 0, 0⟩
def Fld.ALERT_EVENT_StateEntered : Fld := ⟨0x34, 1, 1⟩
def Fld.ALERT_EVENT_EpochApplied : Fld := ⟨0x34, 2, 2⟩
def Fld.ALERT_EVENT_SnapshotDone : Fld := ⟨0x34, 3, 3⟩
def Fld.ALERT_EVENT_FlashDone : Fld := ⟨0x34, 4, 4⟩
def Fld.ALERT_ENABLE_ImageDone : Fld := ⟨0x38, 0, 0⟩
def Fld.ALERT_ENABLE_StateEntered : Fld := ⟨0x38, 1, 1⟩
def Fld.ALERT_ENABLE_EpochApplied : Fld := ⟨0x38, 2, 2⟩
def Fld.ALERT_ENABLE_SnapshotDone : Fld := ⟨0x38, 3, 3⟩
def Fld.ALERT_ENABLE_FlashDone : Fld := ⟨0x38, 4, 4⟩
def Fld.FUSE_KEYHASH_Hash (n : Nat) : Fld := ⟨0x40 + 4 * n, 31, 0⟩
def Fld.FUSE_STAGE_Hash (n : Nat) : Fld := ⟨0x60 + 4 * n, 31, 0⟩
def Fld.EPOCH_STATUS_Epoch : Fld := ⟨0x100, 15, 0⟩
def Fld.EPOCH_STATUS_Applying : Fld := ⟨0x100, 16, 16⟩
def Fld.EPOCH_STATUS_Scheduled : Fld := ⟨0x100, 17, 17⟩
def Fld.EPOCH_STATUS_Pending : Fld := ⟨0x100, 18, 18⟩
def Fld.COMMIT_TIME_LO_TimeLo : Fld := ⟨0x104, 31, 0⟩
def Fld.COMMIT_TIME_HI_TimeHi : Fld := ⟨0x108, 31, 0⟩
def Fld.COMMIT_RESULT_Reason : Fld := ⟨0x10c, 7, 0⟩
def Fld.COMMIT_RESULT_TargetEpoch : Fld := ⟨0x10c, 23, 8⟩
def Fld.EPOCH_CTRL_Discard : Fld := ⟨0x110, 0, 0⟩
def Fld.EPOCH_CTRL_Cancel : Fld := ⟨0x110, 1, 1⟩
def Fld.SNAP_TIME_LO_SnapTime : Fld := ⟨0x114, 31, 0⟩
def Fld.SNAP_TIME_HI_SnapTime : Fld := ⟨0x118, 31, 0⟩
def Fld.SNAP_STATUS_SnapEpoch : Fld := ⟨0x11c, 15, 0⟩
def Fld.SNAP_STATUS_Valid : Fld := ⟨0x11c, 16, 16⟩
def Fld.SNAP_STATUS_SnapApplying : Fld := ⟨0x11c, 17, 17⟩
def Fld.CLK_STATUS_Locked : Fld := ⟨0x10000, 4, 0⟩
def Fld.CLK_STATUS_ClkinLocked : Fld := ⟨0x10000, 5, 5⟩
def Fld.CLK_STATUS_ClkSrc : Fld := ⟨0x10000, 6, 6⟩
def Fld.CLK_CFG_ClkSrc : Fld := ⟨0x10004, 0, 0⟩
def Fld.LOOP_STAT_Losses (n : Nat) : Fld := ⟨0x10010 + 4 * n, 15, 0⟩
def Fld.LOOP_STAT_LastCause (n : Nat) : Fld := ⟨0x10010 + 4 * n, 17, 16⟩
def Fld.TIME_NOW_LO_Time : Fld := ⟨0x10100, 31, 0⟩
def Fld.TIME_NOW_HI_Time : Fld := ⟨0x10104, 31, 0⟩
def Fld.TIME_FRAC_Time : Fld := ⟨0x10108, 31, 0⟩
def Fld.TIME_CFG_TimeSrc : Fld := ⟨0x10110, 1, 0⟩
def Fld.TIME_CFG_AgeSrc : Fld := ⟨0x10110, 2, 2⟩
def Fld.TIME_CFG_PpsOutEn : Fld := ⟨0x10110, 3, 3⟩
def Fld.TIME_CFG_PpsOutGate : Fld := ⟨0x10110, 4, 4⟩
def Fld.TIME_CFG_PpsInFalling : Fld := ⟨0x10110, 5, 5⟩
def Fld.TIME_CFG_FreqShift : Fld := ⟨0x10110, 11, 8⟩
def Fld.TIME_CFG_SlewTime : Fld := ⟨0x10110, 22, 16⟩
def Fld.TIME_CFG_TimeRecSec : Fld := ⟨0x10110, 31, 24⟩
def Fld.PPS_DELAY_PpsDelay : Fld := ⟨0x10114, 31, 0⟩
def Fld.AGE_SLOPE_Slope : Fld := ⟨0x10118, 31, 0⟩
def Fld.TIME_STATE_State : Fld := ⟨0x1011c, 2, 0⟩
def Fld.TIME_STATE_Labelled : Fld := ⟨0x1011c, 3, 3⟩
def Fld.TIME_STATE_Slewing : Fld := ⟨0x1011c, 4, 4⟩
def Fld.PHASE_ERR_Err : Fld := ⟨0x10120, 31, 0⟩
def Fld.FREQ_CORR_LO_Corr : Fld := ⟨0x10124, 31, 0⟩
def Fld.FREQ_CORR_HI_Corr : Fld := ⟨0x10128, 31, 0⟩
def Fld.AGE_LEARNED_Value : Fld := ⟨0x1012c, 31, 0⟩
def Fld.AGE_DAYS_Value : Fld := ⟨0x10130, 31, 0⟩
def Fld.TIME_LABEL_LO_Label : Fld := ⟨0x10134, 31, 0⟩
def Fld.TIME_LABEL_HI_Label : Fld := ⟨0x10138, 31, 0⟩
def Fld.TIME_ARM_Arm : Fld := ⟨0x1013c, 0, 0⟩
def Fld.HOLD_START_LO_Time : Fld := ⟨0x10140, 31, 0⟩
def Fld.HOLD_START_HI_Time : Fld := ⟨0x10144, 31, 0⟩
def Fld.TIME_COUNT_Steps : Fld := ⟨0x10148, 15, 0⟩
def Fld.TIME_COUNT_PpsRejected : Fld := ⟨0x10148, 31, 16⟩
def Fld.SYNC_OUT_CFG_Source : Fld := ⟨0x10200, 1, 0⟩
def Fld.SYNC_OUT_CFG_SyncPort : Fld := ⟨0x10200, 3, 2⟩
def Fld.SYNC_OUT_CFG_SyncLow : Fld := ⟨0x10200, 4, 4⟩
def Fld.SYNC_OUT_CFG_SyncWidth : Fld := ⟨0x10200, 31, 16⟩
def Fld.SYNC_OUT_PERIOD_Time : Fld := ⟨0x10204, 31, 0⟩
def Fld.SYNC_OUT_PHASE_Time : Fld := ⟨0x10208, 31, 0⟩
def Fld.PWR_STATE_State : Fld := ⟨0x20000, 2, 0⟩
def Fld.PWR_STATE_Transit : Fld := ⟨0x20000, 3, 3⟩
def Fld.PWR_STATE_Stage : Fld := ⟨0x20000, 7, 4⟩
def Fld.RESET_CAUSE_Last : Fld := ⟨0x20004, 3, 0⟩
def Fld.RESET_CAUSE_Previous : Fld := ⟨0x20004, 15, 4⟩
def Fld.RESET_CAUSE_Rail : Fld := ⟨0x20004, 19, 16⟩
def Fld.RESET_COUNT_A_Pin : Fld := ⟨0x20008, 15, 0⟩
def Fld.RESET_COUNT_A_HostSoft : Fld := ⟨0x20008, 31, 16⟩
def Fld.RESET_COUNT_B_Watchdog : Fld := ⟨0x2000c, 15, 0⟩
def Fld.RESET_COUNT_B_Fatal : Fld := ⟨0x2000c, 31, 16⟩
def Fld.UP_TIME_Seconds : Fld := ⟨0x20010, 31, 0⟩
def Fld.RESET_CTRL_Key : Fld := ⟨0x20014, 15, 0⟩
def Fld.IMAGE_STATUS_Source : Fld := ⟨0x20020, 1, 0⟩
def Fld.IMAGE_STATUS_ResultA : Fld := ⟨0x20020, 7, 4⟩
def Fld.IMAGE_STATUS_ResultB : Fld := ⟨0x20020, 11, 8⟩
def Fld.IMAGE_STATUS_ResultHost : Fld := ⟨0x20020, 15, 12⟩
def Fld.IMAGE_STATUS_Reason : Fld := ⟨0x20020, 23, 16⟩
def Fld.IMAGE_SEQ_Sequence : Fld := ⟨0x20024, 31, 0⟩
def Fld.IMAGE_FAULT_Section : Fld := ⟨0x20028, 15, 0⟩
def Fld.IMAGE_DIGEST_Digest (n : Nat) : Fld := ⟨0x20030 + 4 * n, 31, 0⟩
def Fld.SUSP_CFG_WakeTo : Fld := ⟨0x20060, 0, 0⟩
def Fld.SUSP_CFG_PinWake : Fld := ⟨0x20060, 1, 1⟩
def Fld.SUSP_CFG_CsWake : Fld := ⟨0x20060, 2, 2⟩
def Fld.SUSP_TIMER_Seconds : Fld := ⟨0x20064, 23, 0⟩
def Fld.SENT_CFG_LinkKeep : Fld := ⟨0x20068, 7, 0⟩
def Fld.SYS_WDOG_Period : Fld := ⟨0x20080, 15, 0⟩
def Fld.SYS_WDOG_HostKick : Fld := ⟨0x20080, 16, 16⟩
def Fld.SYS_WDOG_CORES_CoreMask : Fld := ⟨0x20084, 15, 0⟩
def Fld.SYS_WDOG_KICK_Key : Fld := ⟨0x20088, 15, 0⟩
def Fld.SUPPLY_CFG_WarnPct : Fld := ⟨0x20100, 2, 0⟩
def Fld.SUPPLY_STATUS_Warn : Fld := ⟨0x20104, 8, 0⟩
def Fld.SUPPLY_STATUS_Seen : Fld := ⟨0x20104, 24, 16⟩
def Fld.DIE_TEMP_Temp : Fld := ⟨0x20108, 15, 0⟩
def Fld.DIE_TEMP_TjWarn : Fld := ⟨0x20108, 23, 16⟩
def Fld.WATCH_CTRL_Ports : Fld := ⟨0x20200, 3, 0⟩
def Fld.WATCH_CTRL_PinWake : Fld := ⟨0x20200, 8, 8⟩
def Fld.WATCH_CTRL_PinFall : Fld := ⟨0x20200, 9, 9⟩
def Fld.WATCH_CTRL_Burst : Fld := ⟨0x20200, 28, 16⟩
def Fld.WATCH_PERIOD_Period : Fld := ⟨0x20204, 19, 0⟩
def Fld.WATCH_PERIOD_Lead : Fld := ⟨0x20204, 26, 20⟩
def Fld.WAKE_DAS_Enable : Fld := ⟨0x20208, 0, 0⟩
def Fld.WAKE_DAS_Port : Fld := ⟨0x20208, 2, 1⟩
def Fld.WAKE_DAS_Range : Fld := ⟨0x20208, 7, 4⟩
def Fld.WAKE_DAS_Band : Fld := ⟨0x20208, 9, 8⟩
def Fld.WAKE_DAS_K : Fld := ⟨0x20208, 16, 12⟩
def Fld.WAKE_DAS_THR_WakeThr : Fld := ⟨0x2020c, 15, 0⟩
def Fld.WAKE_DTS_Enable : Fld := ⟨0x20210, 0, 0⟩
def Fld.WAKE_DTS_RiseThr : Fld := ⟨0x20210, 31, 16⟩
def Fld.WAKE_STATUS_Cause : Fld := ⟨0x20214, 2, 0⟩
def Fld.WAKE_STATUS_Skipped : Fld := ⟨0x20214, 31, 16⟩
def Fld.PLAN_CTRL_ToneCount (n m : Nat) : Fld := ⟨0x100000 + 0x10000 * n + 0x100 * m, 3, 0⟩
def Fld.PLAN_CTRL_StartSrc (n m : Nat) : Fld := ⟨0x100000 + 0x10000 * n + 0x100 * m, 8, 8⟩
def Fld.SHOT_PERIOD_Period (n m : Nat) : Fld := ⟨0x100004 + 0x10000 * n + 0x100 * m, 16, 0⟩
def Fld.WIN_POS_WinPos (n m : Nat) : Fld := ⟨0x100008 + 0x10000 * n + 0x100 * m, 18, 0⟩
def Fld.WIN_DELAY_Delay (n m : Nat) : Fld := ⟨0x10000c + 0x10000 * n + 0x100 * m, 19, 0⟩
def Fld.EXT_START_ExtWidthMin (n m : Nat) : Fld := ⟨0x100010 + 0x10000 * n + 0x100 * m, 9, 0⟩
def Fld.EXT_START_ExtWidthMax (n m : Nat) : Fld := ⟨0x100010 + 0x10000 * n + 0x100 * m, 25, 16⟩
def Fld.EXT_DELAY_ExtDelay (n m : Nat) : Fld := ⟨0x100014 + 0x10000 * n + 0x100 * m, 16, 0⟩
def Fld.PGATE_CFG_PgateLead (n m : Nat) : Fld := ⟨0x100018 + 0x10000 * n + 0x100 * m, 7, 0⟩
def Fld.PGATE_CFG_PgateLag (n m : Nat) : Fld := ⟨0x100018 + 0x10000 * n + 0x100 * m, 15, 8⟩
def Fld.PGATE_CFG_PgateLow (n m : Nat) : Fld := ⟨0x100018 + 0x10000 * n + 0x100 * m, 16, 16⟩
def Fld.RAMAN_TRIG_RamanM (n m : Nat) : Fld := ⟨0x10001c + 0x10000 * n + 0x100 * m, 12, 0⟩
def Fld.RAMAN_TRIG_RamanWidth (n m : Nat) : Fld := ⟨0x10001c + 0x10000 * n + 0x100 * m, 22, 16⟩
def Fld.RAMAN_TRIG_RtrigLow (n m : Nat) : Fld := ⟨0x10001c + 0x10000 * n + 0x100 * m, 24, 24⟩
def Fld.RAMAN_DELAY_RamanDelay (n m : Nat) : Fld := ⟨0x100020 + 0x10000 * n + 0x100 * m, 19, 0⟩
def Fld.PLAN_STATUS_Tail (n : Nat) : Fld := ⟨0x100024 + 0x10000 * n, 20, 0⟩
def Fld.PLAN_STATUS_FailCheck (n : Nat) : Fld := ⟨0x100024 + 0x10000 * n, 27, 24⟩
def Fld.PLAN_LOAD_Load (n : Nat) : Fld := ⟨0x100028 + 0x10000 * n, 10, 0⟩
def Fld.SYNC_COUNT_Early (n : Nat) : Fld := ⟨0x10002c + 0x10000 * n, 15, 0⟩
def Fld.SYNC_COUNT_Missed (n : Nat) : Fld := ⟨0x10002c + 0x10000 * n, 31, 16⟩
def Fld.SHOT_COUNT_LO_Shots (n : Nat) : Fld := ⟨0x100030 + 0x10000 * n, 31, 0⟩
def Fld.SHOT_COUNT_HI_Shots (n : Nat) : Fld := ⟨0x100034 + 0x10000 * n, 31, 0⟩
def Fld.TONE_FREQ_Freq (n m k : Nat) : Fld := ⟨0x100040 + 0x10000 * n + 0x100 * m + 0x10 * k, 9, 0⟩
def Fld.TONE_FREQ_Amp (n m k : Nat) : Fld := ⟨0x100040 + 0x10000 * n + 0x100 * m + 0x10 * k, 27, 16⟩
def Fld.TONE_OFFSET_Offset (n m k : Nat) : Fld := ⟨0x100044 + 0x10000 * n + 0x100 * m + 0x10 * k, 16, 0⟩
def Fld.TONE_OFFSET_AutoOffset (n m k : Nat) : Fld := ⟨0x100044 + 0x10000 * n + 0x100 * m + 0x10 * k, 31, 31⟩
def Fld.TONE_CODE_Type (n m k : Nat) : Fld := ⟨0x100048 + 0x10000 * n + 0x100 * m + 0x10 * k, 1, 0⟩
def Fld.TONE_CODE_Down (n m k : Nat) : Fld := ⟨0x100048 + 0x10000 * n + 0x100 * m + 0x10 * k, 2, 2⟩
def Fld.TONE_CODE_Chip (n m k : Nat) : Fld := ⟨0x100048 + 0x10000 * n + 0x100 * m + 0x10 * k, 5, 4⟩
def Fld.TONE_CODE_GolayLog (n m k : Nat) : Fld := ⟨0x100048 + 0x10000 * n + 0x100 * m + 0x10 * k, 11, 8⟩
def Fld.TONE_CODE_ChirpBW (n m k : Nat) : Fld := ⟨0x100048 + 0x10000 * n + 0x100 * m + 0x10 * k, 22, 16⟩
def Fld.TONE_DUR_Dur (n m k : Nat) : Fld := ⟨0x10004c + 0x10000 * n + 0x100 * m + 0x10 * k, 14, 0⟩
def Fld.FE_CTRL_RefKeep (n : Nat) : Fld := ⟨0x100200 + 0x10000 * n, 0, 0⟩
def Fld.FE_CTRL_BgFreeze (n : Nat) : Fld := ⟨0x100200 + 0x10000 * n, 1, 1⟩
def Fld.FE_CTRL_RamanRate (n : Nat) : Fld := ⟨0x100200 + 0x10000 * n, 2, 2⟩
def Fld.FE_CTRL_CorrBypass (n : Nat) : Fld := ⟨0x100200 + 0x10000 * n, 3, 3⟩
def Fld.FE_CTRL_OffShift (n : Nat) : Fld := ⟨0x100200 + 0x10000 * n, 7, 4⟩
def Fld.FE_CTRL_GainShift (n : Nat) : Fld := ⟨0x100200 + 0x10000 * n, 11, 8⟩
def Fld.FE_STATUS_RefReady (n : Nat) : Fld := ⟨0x100204 + 0x10000 * n, 0, 0⟩
def Fld.FE_STATUS_RefOn (n : Nat) : Fld := ⟨0x100204 + 0x10000 * n, 1, 1⟩
def Fld.FE_STATUS_BgLimit (n : Nat) : Fld := ⟨0x100204 + 0x10000 * n, 5, 2⟩
def Fld.FE_STATUS_SlicePower (n : Nat) : Fld := ⟨0x100204 + 0x10000 * n, 11, 6⟩
def Fld.OVR_CNT_C_CX (n : Nat) : Fld := ⟨0x100208 + 0x10000 * n, 15, 0⟩
def Fld.OVR_CNT_C_CY (n : Nat) : Fld := ⟨0x100208 + 0x10000 * n, 31, 16⟩
def Fld.OVR_CNT_R_RA (n : Nat) : Fld := ⟨0x10020c + 0x10000 * n, 15, 0⟩
def Fld.OVR_CNT_R_RS (n : Nat) : Fld := ⟨0x10020c + 0x10000 * n, 31, 16⟩
def Fld.FE_CLEAR_ClearOvr (n : Nat) : Fld := ⟨0x100210 + 0x10000 * n, 0, 0⟩
def Fld.SLICE_OFFSET_Offset (n m : Nat) : Fld := ⟨0x100220 + 0x10000 * n + 0x20 * m, 15, 0⟩
def Fld.SLICE_GAIN_Gain (n m : Nat) : Fld := ⟨0x100224 + 0x10000 * n + 0x20 * m, 15, 0⟩
def Fld.SLICE_SKEW_Skew (n m : Nat) : Fld := ⟨0x100228 + 0x10000 * n + 0x20 * m, 7, 0⟩
def Fld.SLICE_BW_A_HMinus (n m : Nat) : Fld := ⟨0x10022c + 0x10000 * n + 0x20 * m, 15, 0⟩
def Fld.SLICE_BW_A_HPlus (n m : Nat) : Fld := ⟨0x10022c + 0x10000 * n + 0x20 * m, 31, 16⟩
def Fld.SLICE_BW_B_HZero (n m : Nat) : Fld := ⟨0x100230 + 0x10000 * n + 0x20 * m, 15, 0⟩
def Fld.CAP_CTRL_Arm (n : Nat) : Fld := ⟨0x100300 + 0x10000 * n, 0, 0⟩
def Fld.CAP_CTRL_Stop (n : Nat) : Fld := ⟨0x100300 + 0x10000 * n, 1, 1⟩
def Fld.CAP_CTRL_Source (n : Nat) : Fld := ⟨0x100300 + 0x10000 * n, 6, 4⟩
def Fld.CAP_CTRL_Raw (n : Nat) : Fld := ⟨0x100300 + 0x10000 * n, 7, 7⟩
def Fld.CAP_CTRL_Trigger (n : Nat) : Fld := ⟨0x100300 + 0x10000 * n, 9, 8⟩
def Fld.CAP_CTRL_WindowOnly (n : Nat) : Fld := ⟨0x100300 + 0x10000 * n, 10, 10⟩
def Fld.CAP_CTRL_RecBlocks (n : Nat) : Fld := ⟨0x100300 + 0x10000 * n, 23, 16⟩
def Fld.CAP_LEN_Total (n : Nat) : Fld := ⟨0x100304 + 0x10000 * n, 23, 0⟩
def Fld.CAP_STATUS_State (n : Nat) : Fld := ⟨0x100308 + 0x10000 * n, 1, 0⟩
def Fld.CAP_STATUS_Error (n : Nat) : Fld := ⟨0x100308 + 0x10000 * n, 4, 2⟩
def Fld.CAP_STATUS_CaptureSeq (n : Nat) : Fld := ⟨0x100308 + 0x10000 * n, 31, 16⟩
def Fld.CAP_DONE_Samples (n : Nat) : Fld := ⟨0x10030c + 0x10000 * n, 23, 0⟩
def Fld.CHAIN_CTRL_Gauge (n : Nat) : Fld := ⟨0x100400 + 0x10000 * n, 8, 0⟩
def Fld.CHAIN_CTRL_Taper (n : Nat) : Fld := ⟨0x100400 + 0x10000 * n, 10, 9⟩
def Fld.CHAIN_CTRL_ClipAsFade (n : Nat) : Fld := ⟨0x100400 + 0x10000 * n, 11, 11⟩
def Fld.CHAIN_CTRL_PolFallback (n : Nat) : Fld := ⟨0x100400 + 0x10000 * n, 12, 12⟩
def Fld.CHAIN_CTRL_FadeMode (n : Nat) : Fld := ⟨0x100400 + 0x10000 * n, 13, 13⟩
def Fld.CHAIN_CTRL_FuseStep (n : Nat) : Fld := ⟨0x100400 + 0x10000 * n, 19, 16⟩
def Fld.CHAIN_CTRL_QShift (n : Nat) : Fld := ⟨0x100400 + 0x10000 * n, 22, 20⟩
def Fld.FADE_CFG_FadeDepth (n : Nat) : Fld := ⟨0x100404 + 0x10000 * n, 7, 0⟩
def Fld.FADE_CFG_FadeFloor (n : Nat) : Fld := ⟨0x100404 + 0x10000 * n, 15, 8⟩
def Fld.GEOMETRY_GroupIndex (n : Nat) : Fld := ⟨0x100408 + 0x10000 * n, 15, 0⟩
def Fld.FIBRE_ORIGIN_Origin (n : Nat) : Fld := ⟨0x10040c + 0x10000 * n, 19, 0⟩
def Fld.CHAIN_STATUS_Positions (n : Nat) : Fld := ⟨0x100410 + 0x10000 * n, 17, 0⟩
def Fld.CHAIN_STATUS_SettleCount (n : Nat) : Fld := ⟨0x100410 + 0x10000 * n, 24, 18⟩
def Fld.CHAIN_STATUS_Slots (n : Nat) : Fld := ⟨0x100410 + 0x10000 * n, 28, 25⟩
def Fld.FADE_TOTAL_LO_Faded (n : Nat) : Fld := ⟨0x100414 + 0x10000 * n, 31, 0⟩
def Fld.FADE_TOTAL_HI_Faded (n : Nat) : Fld := ⟨0x100418 + 0x10000 * n, 31, 0⟩
def Fld.FADE_LAST_Faded (n m : Nat) : Fld := ⟨0x100420 + 0x10000 * n + 4 * m, 17, 0⟩
def Fld.PEEK_POS_Pos (n : Nat) : Fld := ⟨0x100440 + 0x10000 * n, 17, 0⟩
def Fld.PEEK_POS_Ready (n : Nat) : Fld := ⟨0x100440 + 0x10000 * n, 31, 31⟩
def Fld.PEEK_DATA_Data (n m : Nat) : Fld := ⟨0x100444 + 0x10000 * n + 4 * m, 31, 0⟩
def Fld.RANGE_START_Start (n m : Nat) : Fld := ⟨0x100500 + 0x10000 * n + 0x10 * m, 17, 0⟩
def Fld.RANGE_START_Enable (n m : Nat) : Fld := ⟨0x100500 + 0x10000 * n + 0x10 * m, 31, 31⟩
def Fld.RANGE_COUNT_Count (n m : Nat) : Fld := ⟨0x100504 + 0x10000 * n + 0x10 * m, 17, 0⟩
def Fld.RANGE_CFG_Product (n m : Nat) : Fld := ⟨0x100508 + 0x10000 * n + 0x10 * m, 1, 0⟩
def Fld.RANGE_CFG_SpMean (n m : Nat) : Fld := ⟨0x100508 + 0x10000 * n + 0x10 * m, 2, 2⟩
def Fld.RANGE_CFG_MarkMap (n m : Nat) : Fld := ⟨0x100508 + 0x10000 * n + 0x10 * m, 3, 3⟩
def Fld.RANGE_CFG_Dsp (n m : Nat) : Fld := ⟨0x100508 + 0x10000 * n + 0x10 * m, 10, 4⟩
def Fld.RANGE_CFG_DecLog (n m : Nat) : Fld := ⟨0x100508 + 0x10000 * n + 0x10 * m, 14, 12⟩
def Fld.RANGE_CFG_RecPos (n m : Nat) : Fld := ⟨0x100508 + 0x10000 * n + 0x10 * m, 28, 16⟩
def Fld.RANGE_BAND_BandWin (n m : Nat) : Fld := ⟨0x10050c + 0x10000 * n + 0x10 * m, 6, 0⟩
def Fld.PROD_STATUS_Theta (n : Nat) : Fld := ⟨0x100600 + 0x10000 * n, 10, 0⟩
def Fld.PROD_STATUS_StateLost (n : Nat) : Fld := ⟨0x100600 + 0x10000 * n, 11, 11⟩
def Fld.END_CFG_EndThr (n : Nat) : Fld := ⟨0x100610 + 0x10000 * n, 7, 0⟩
def Fld.END_CFG_EndEnable (n : Nat) : Fld := ⟨0x100610 + 0x10000 * n, 8, 8⟩
def Fld.END_CFG_TraceDec (n : Nat) : Fld := ⟨0x100610 + 0x10000 * n, 22, 16⟩
def Fld.END_CFG_TraceEnable (n : Nat) : Fld := ⟨0x100610 + 0x10000 * n, 23, 23⟩
def Fld.END_STATUS_End (n : Nat) : Fld := ⟨0x100614 + 0x10000 * n, 17, 0⟩
def Fld.END_STATUS_Break (n : Nat) : Fld := ⟨0x100614 + 0x10000 * n, 18, 18⟩
def Fld.END_STATUS_Valid (n : Nat) : Fld := ⟨0x100614 + 0x10000 * n, 19, 19⟩
def Fld.CAPEV_CTRL_Enable (n : Nat) : Fld := ⟨0x100620 + 0x10000 * n, 0, 0⟩
def Fld.CAPEV_CTRL_Trigger (n : Nat) : Fld := ⟨0x100620 + 0x10000 * n, 1, 1⟩
def Fld.CAPEV_CTRL_TrigBand (n : Nat) : Fld := ⟨0x100620 + 0x10000 * n, 2, 2⟩
def Fld.CAPEV_CTRL_TrigBreak (n : Nat) : Fld := ⟨0x100620 + 0x10000 * n, 3, 3⟩
def Fld.CAPEV_CTRL_CapRange (n : Nat) : Fld := ⟨0x100620 + 0x10000 * n, 7, 4⟩
def Fld.CAPEV_CTRL_BandRange (n : Nat) : Fld := ⟨0x100620 + 0x10000 * n, 11, 8⟩
def Fld.CAPEV_CTRL_Band (n : Nat) : Fld := ⟨0x100620 + 0x10000 * n, 13, 12⟩
def Fld.CAPEV_CTRL_Thr (n : Nat) : Fld := ⟨0x100620 + 0x10000 * n, 31, 16⟩
def Fld.CAPEV_TIME_Pre (n : Nat) : Fld := ⟨0x100624 + 0x10000 * n, 15, 0⟩
def Fld.CAPEV_TIME_Post (n : Nat) : Fld := ⟨0x100624 + 0x10000 * n, 31, 16⟩
def Fld.CAPEV_BUF_CapBuf (n : Nat) : Fld := ⟨0x100628 + 0x10000 * n, 12, 0⟩
def Fld.CAPEV_STATUS_State (n : Nat) : Fld := ⟨0x10062c + 0x10000 * n, 1, 0⟩
def Fld.CAPEV_STATUS_Seq (n : Nat) : Fld := ⟨0x10062c + 0x10000 * n, 31, 16⟩
def Fld.BAND_COEF_Coef (n m k j : Nat) : Fld := ⟨0x100800 + 0x10000 * n + 0x50 * m + 0x14 * k + 4 * j, 31, 0⟩
def Fld.DEC_FIR_HEven (n m : Nat) : Fld := ⟨0x100d00 + 0x10000 * n + 4 * m, 15, 0⟩
def Fld.DEC_FIR_HOdd (n m : Nat) : Fld := ⟨0x100d00 + 0x10000 * n + 4 * m, 31, 16⟩
def Fld.DTS_CTRL_AccLog (n : Nat) : Fld := ⟨0x100e00 + 0x10000 * n, 4, 0⟩
def Fld.DTS_CTRL_Dual (n : Nat) : Fld := ⟨0x100e00 + 0x10000 * n, 5, 5⟩
def Fld.DTS_CTRL_BinPos (n : Nat) : Fld := ⟨0x100e00 + 0x10000 * n, 14, 8⟩
def Fld.DTS_CTRL_RefSrc (n : Nat) : Fld := ⟨0x100e00 + 0x10000 * n, 16, 16⟩
def Fld.DTS_CTRL_RefTc (n : Nat) : Fld := ⟨0x100e00 + 0x10000 * n, 18, 17⟩
def Fld.DTS_CTRL_RecBins (n : Nat) : Fld := ⟨0x100e00 + 0x10000 * n, 29, 20⟩
def Fld.DTS_RANGE_RamanPos (n : Nat) : Fld := ⟨0x100e04 + 0x10000 * n, 18, 0⟩
def Fld.BIN_START_BinStart (n : Nat) : Fld := ⟨0x100e08 + 0x10000 * n, 18, 0⟩
def Fld.BIN_COUNT_Bins (n : Nat) : Fld := ⟨0x100e0c + 0x10000 * n, 16, 0⟩
def Fld.DARK_START_DarkStart (n : Nat) : Fld := ⟨0x100e10 + 0x10000 * n, 18, 0⟩
def Fld.DARK_LEN_DarkLen (n : Nat) : Fld := ⟨0x100e14 + 0x10000 * n, 12, 0⟩
def Fld.REF_BINS_RefBin (n : Nat) : Fld := ⟨0x100e18 + 0x10000 * n, 15, 0⟩
def Fld.REF_BINS_RefBins (n : Nat) : Fld := ⟨0x100e18 + 0x10000 * n, 22, 16⟩
def Fld.MIRROR_MirrorBin (n : Nat) : Fld := ⟨0x100e1c + 0x10000 * n, 16, 0⟩
def Fld.ALPHA_Alpha (n : Nat) : Fld := ⟨0x100e20 + 0x10000 * n, 31, 0⟩
def Fld.RAMAN_ORIGIN_RamanOrigin (n : Nat) : Fld := ⟨0x100e24 + 0x10000 * n, 19, 0⟩
def Fld.X_LO_XLimit (n : Nat) : Fld := ⟨0x100e28 + 0x10000 * n, 31, 0⟩
def Fld.X_HI_XLimit (n : Nat) : Fld := ⟨0x100e2c + 0x10000 * n, 31, 0⟩
def Fld.REF_TEMP_RefTemp (n : Nat) : Fld := ⟨0x100e30 + 0x10000 * n, 15, 0⟩
def Fld.REF_AGE_RefAge (n : Nat) : Fld := ⟨0x100e34 + 0x10000 * n, 11, 0⟩
def Fld.DTS_STATUS_Shots (n : Nat) : Fld := ⟨0x100e38 + 0x10000 * n, 20, 0⟩
def Fld.DTS_STATUS_Phase (n : Nat) : Fld := ⟨0x100e38 + 0x10000 * n, 22, 21⟩
def Fld.DTS_STATUS_RefFault (n : Nat) : Fld := ⟨0x100e38 + 0x10000 * n, 23, 23⟩
def Fld.DTS_STATUS_DtsCheck (n : Nat) : Fld := ⟨0x100e38 + 0x10000 * n, 27, 24⟩
def Fld.DTS_SEQ_AccSeq (n : Nat) : Fld := ⟨0x100e3c + 0x10000 * n, 31, 0⟩
def Fld.SKIP_COUNT_Skipped (n : Nat) : Fld := ⟨0x100e40 + 0x10000 * n, 31, 0⟩
def Fld.POLY_Coef (n m k : Nat) : Fld := ⟨0x100f00 + 0x10000 * n + 0x10 * m + 4 * k, 31, 0⟩
def Fld.AUX_CTRL_TcEnable : Fld := ⟨0x200000, 3, 0⟩
def Fld.AUX_CTRL_CjComp : Fld := ⟨0x200000, 7, 4⟩
def Fld.AUX_CTRL_AuxRate : Fld := ⟨0x200000, 14, 8⟩
def Fld.AUX_CTRL_TcRecDiv : Fld := ⟨0x200000, 23, 16⟩
def Fld.TC_TABLE_Table : Fld := ⟨0x200004, 7, 0⟩
def Fld.CJ_OFFSET_CjOffset : Fld := ⟨0x200008, 15, 0⟩
def Fld.AUX_STATUS_Open : Fld := ⟨0x20000c, 3, 0⟩
def Fld.AUX_STATUS_OutOfTable : Fld := ⟨0x20000c, 7, 4⟩
def Fld.AUX_STATUS_CjOutOfTable : Fld := ⟨0x20000c, 8, 8⟩
def Fld.AUX_STATUS_Running : Fld := ⟨0x20000c, 9, 9⟩
def Fld.TC_VALUE_Value (n : Nat) : Fld := ⟨0x200010 + 4 * n, 31, 0⟩
def Fld.CJ_VALUE_Value : Fld := ⟨0x200020, 31, 0⟩
def Fld.TC_VOLT_Volt (n : Nat) : Fld := ⟨0x200030 + 4 * n, 31, 0⟩
def Fld.TBL_SEG_Segments (n : Nat) : Fld := ⟨0x200040 + 4 * n, 6, 0⟩
def Fld.ZONE_CFG_Source (n : Nat) : Fld := ⟨0x200100 + 0x20 * n, 1, 0⟩
def Fld.ZONE_CFG_Port (n : Nat) : Fld := ⟨0x200100 + 0x20 * n, 3, 2⟩
def Fld.ZONE_CFG_Range (n : Nat) : Fld := ⟨0x200100 + 0x20 * n, 7, 4⟩
def Fld.ZONE_CFG_Band (n : Nat) : Fld := ⟨0x200100 + 0x20 * n, 9, 8⟩
def Fld.ZONE_CFG_Tc (n : Nat) : Fld := ⟨0x200100 + 0x20 * n, 11, 10⟩
def Fld.ZONE_LO_Level (n : Nat) : Fld := ⟨0x200104 + 0x20 * n, 31, 0⟩
def Fld.ZONE_HI_Level (n : Nat) : Fld := ⟨0x200108 + 0x20 * n, 31, 0⟩
def Fld.ZONE_FIRST_Index (n : Nat) : Fld := ⟨0x20010c + 0x20 * n, 17, 0⟩
def Fld.ZONE_LAST_Index (n : Nat) : Fld := ⟨0x200110 + 0x20 * n, 17, 0⟩
def Fld.ZONE_TIMEOUT_Timeout (n : Nat) : Fld := ⟨0x200114 + 0x20 * n, 15, 0⟩
def Fld.ZONE_OUT_Code (n : Nat) : Fld := ⟨0x200118 + 0x20 * n, 15, 0⟩
def Fld.ZONE_OUT_Lost (n : Nat) : Fld := ⟨0x200118 + 0x20 * n, 16, 16⟩
def Fld.TBL_X_Point (n m : Nat) : Fld := ⟨0x201000 + 0x400 * n + 8 * m, 31, 0⟩
def Fld.TBL_Y_Point (n m : Nat) : Fld := ⟨0x201004 + 0x400 * n + 8 * m, 31, 0⟩
def Fld.LANE_CFG_Threshold (n : Nat) : Fld := ⟨0x300000 + 0x10 * n, 9, 0⟩
def Fld.LANE_CFG_Hyst (n : Nat) : Fld := ⟨0x300000 + 0x10 * n, 11, 10⟩
def Fld.LANE_CFG_Falling (n : Nat) : Fld := ⟨0x300000 + 0x10 * n, 12, 12⟩
def Fld.LANE_CFG_Enable (n : Nat) : Fld := ⟨0x300000 + 0x10 * n, 13, 13⟩
def Fld.LANE_CFG_HoldOff (n : Nat) : Fld := ⟨0x300000 + 0x10 * n, 23, 16⟩
def Fld.LANE_CFG_Emitter (n : Nat) : Fld := ⟨0x300000 + 0x10 * n, 26, 24⟩
def Fld.LANE_WIN_Open (n : Nat) : Fld := ⟨0x300004 + 0x10 * n, 13, 0⟩
def Fld.LANE_WIN_Close (n : Nat) : Fld := ⟨0x300004 + 0x10 * n, 29, 16⟩
def Fld.LANE_TRIM_ThrTrim (n : Nat) : Fld := ⟨0x300008 + 0x10 * n, 7, 0⟩
def Fld.LANE_TRIM_Blind (n : Nat) : Fld := ⟨0x300008 + 0x10 * n, 8, 8⟩
def Fld.LANE_TRIM_Level (n : Nat) : Fld := ⟨0x300008 + 0x10 * n, 9, 9⟩
def Fld.LANE_CNT_A_PreStart (n : Nat) : Fld := ⟨0x302000 + 8 * n, 15, 0⟩
def Fld.LANE_CNT_A_Outside (n : Nat) : Fld := ⟨0x302000 + 8 * n, 31, 16⟩
def Fld.LANE_CNT_B_HoldSup (n : Nat) : Fld := ⟨0x302004 + 8 * n, 15, 0⟩
def Fld.LANE_CNT_B_Drop (n : Nat) : Fld := ⟨0x302004 + 8 * n, 31, 16⟩
def Fld.TL_CTRL_PreFire : Fld := ⟨0x304000, 10, 0⟩
def Fld.TL_CLEAR_ClearCounts : Fld := ⟨0x304004, 0, 0⟩
def Fld.TL_STATUS_LaneCheck : Fld := ⟨0x304008, 3, 0⟩
def Fld.START_CFG_Planned (n : Nat) : Fld := ⟨0x304010 + 4 * n, 0, 0⟩
def Fld.START_CFG_Nominal (n : Nat) : Fld := ⟨0x304010 + 4 * n, 13, 8⟩
def Fld.START_STAT_Missed (n : Nat) : Fld := ⟨0x304030 + 4 * n, 15, 0⟩
def Fld.REG_CFG_Source (n : Nat) : Fld := ⟨0x308000 + 0x40 * n, 8, 0⟩
def Fld.REG_CFG_Enable (n : Nat) : Fld := ⟨0x308000 + 0x40 * n, 9, 9⟩
def Fld.REG_CFG_Sliding (n : Nat) : Fld := ⟨0x308000 + 0x40 * n, 10, 10⟩
def Fld.REG_CFG_Gate (n : Nat) : Fld := ⟨0x308000 + 0x40 * n, 24, 12⟩
def Fld.REG_NOM_Nominal (n : Nat) : Fld := ⟨0x308004 + 0x40 * n, 31, 0⟩
def Fld.REG_LIMIT_Limit (n : Nat) : Fld := ⟨0x308008 + 0x40 * n, 31, 0⟩
def Fld.REG_STATUS_Valid (n : Nat) : Fld := ⟨0x30800c + 0x40 * n, 0, 0⟩
def Fld.REG_STATUS_Stale (n : Nat) : Fld := ⟨0x30800c + 0x40 * n, 1, 1⟩
def Fld.REG_STATUS_Used (n : Nat) : Fld := ⟨0x30800c + 0x40 * n, 14, 2⟩
def Fld.REG_STATUS_Rejected (n : Nat) : Fld := ⟨0x30800c + 0x40 * n, 27, 15⟩
def Fld.REG_PERIOD_LO_Period (n : Nat) : Fld := ⟨0x308010 + 0x40 * n, 31, 0⟩
def Fld.REG_PERIOD_HI_Period (n : Nat) : Fld := ⟨0x308014 + 0x40 * n, 31, 0⟩
def Fld.REG_PHASE_LO_Phase (n : Nat) : Fld := ⟨0x308018 + 0x40 * n, 31, 0⟩
def Fld.REG_PHASE_HI_Phase (n : Nat) : Fld := ⟨0x30801c + 0x40 * n, 31, 0⟩
def Fld.REG_PHASE_FRAC_Frac (n : Nat) : Fld := ⟨0x308020 + 0x40 * n, 31, 0⟩
def Fld.REG_JITTER_Jitter (n : Nat) : Fld := ⟨0x308024 + 0x40 * n, 31, 0⟩
def Fld.REG_REJECT_TOTAL_Total (n : Nat) : Fld := ⟨0x308028 + 0x40 * n, 31, 0⟩
def Fld.SCAN_CTRL_Enable (n : Nat) : Fld := ⟨0x310000 + 0x100 * n, 0, 0⟩
def Fld.SCAN_CTRL_Mode (n : Nat) : Fld := ⟨0x310000 + 0x100 * n, 1, 1⟩
def Fld.SCAN_CTRL_Halves (n : Nat) : Fld := ⟨0x310000 + 0x100 * n, 3, 2⟩
def Fld.SCAN_CTRL_SdrvEnable (n : Nat) : Fld := ⟨0x310000 + 0x100 * n, 4, 4⟩
def Fld.SCAN_CTRL_Steps (n : Nat) : Fld := ⟨0x310000 + 0x100 * n, 28, 16⟩
def Fld.SCAN_FREQ_FMin (n : Nat) : Fld := ⟨0x310004 + 0x100 * n, 15, 0⟩
def Fld.SCAN_FREQ_FMax (n : Nat) : Fld := ⟨0x310004 + 0x100 * n, 31, 16⟩
def Fld.SCAN_NOM_NomFreq (n : Nat) : Fld := ⟨0x310008 + 0x100 * n, 31, 0⟩
def Fld.SCAN_GEOM_Amp (n : Nat) : Fld := ⟨0x31000c + 0x100 * n, 15, 0⟩
def Fld.SCAN_GEOM_SyncPhase (n : Nat) : Fld := ⟨0x31000c + 0x100 * n, 31, 16⟩
def Fld.SCAN_SWEEP_SweepStart (n : Nat) : Fld := ⟨0x310010 + 0x100 * n, 15, 0⟩
def Fld.SCAN_SWEEP_SweepEnd (n : Nat) : Fld := ⟨0x310010 + 0x100 * n, 31, 16⟩
def Fld.SCAN_DRV_DrvPhase (n : Nat) : Fld := ⟨0x310014 + 0x100 * n, 15, 0⟩
def Fld.SCAN_DRV_FrameDiv (n : Nat) : Fld := ⟨0x310014 + 0x100 * n, 28, 16⟩
def Fld.SCAN_LIMIT_JitLimit (n : Nat) : Fld := ⟨0x310018 + 0x100 * n, 15, 0⟩
def Fld.SCAN_STATUS_Locked (n : Nat) : Fld := ⟨0x31001c + 0x100 * n, 0, 0⟩
def Fld.SCAN_STATUS_Lost (n : Nat) : Fld := ⟨0x31001c + 0x100 * n, 1, 1⟩
def Fld.SCAN_STATUS_Losses (n : Nat) : Fld := ⟨0x31001c + 0x100 * n, 31, 16⟩
def Fld.EMT_CTRL_PortEnable : Fld := ⟨0x320000, 7, 0⟩
def Fld.EMT_CTRL_FrameSrc : Fld := ⟨0x320000, 9, 8⟩
def Fld.EMT_CTRL_AutoBypass : Fld := ⟨0x320000, 10, 10⟩
def Fld.EMT_FRAME_PERIOD_Time : Fld := ⟨0x320004, 23, 0⟩
def Fld.EMT_FRAME_PHASE_Time : Fld := ⟨0x320008, 23, 0⟩
def Fld.EMT_FRAME_EXT_FrmWidthMin : Fld := ⟨0x32000c, 9, 0⟩
def Fld.EMT_FRAME_EXT_FrmWidthMax : Fld := ⟨0x32000c, 25, 16⟩
def Fld.EMT_FRAME_DELAY_FrmDelay : Fld := ⟨0x320010, 16, 0⟩
def Fld.EMT_TIMING_PchgWidth : Fld := ⟨0x320014, 7, 0⟩
def Fld.EMT_TIMING_Settle : Fld := ⟨0x320014, 15, 8⟩
def Fld.EMT_TIMING_FireWidth : Fld := ⟨0x320014, 23, 16⟩
def Fld.EXP_LIMIT_ExpLimit : Fld := ⟨0x320018, 15, 0⟩
def Fld.EMT_BANK_Swap : Fld := ⟨0x320020, 0, 0⟩
def Fld.EMT_BANK_Page : Fld := ⟨0x320020, 1, 1⟩
def Fld.EMT_BANK_ReadActive : Fld := ⟨0x320020, 2, 2⟩
def Fld.EMT_BANK_Active : Fld := ⟨0x320020, 3, 3⟩
def Fld.EMT_BANK_Waiting : Fld := ⟨0x320020, 4, 4⟩
def Fld.EMT_BANK_Error : Fld := ⟨0x320020, 7, 5⟩
def Fld.EMT_STATUS_EmitCheck : Fld := ⟨0x320024, 2, 0⟩
def Fld.EMT_STATUS_InFrame : Fld := ⟨0x320024, 3, 3⟩
def Fld.FRAME_COUNT_Frames : Fld := ⟨0x320028, 31, 0⟩
def Fld.PORT_TIMING_ShotIvl (n : Nat) : Fld := ⟨0x320100 + 0x20 * n, 13, 0⟩
def Fld.PORT_TIMING_DitherSpan (n : Nat) : Fld := ⟨0x320100 + 0x20 * n, 24, 16⟩
def Fld.PORT_TIMING_StatLow (n : Nat) : Fld := ⟨0x320100 + 0x20 * n, 25, 25⟩
def Fld.PORT_STATE_State (n : Nat) : Fld := ⟨0x320104 + 0x20 * n, 1, 0⟩
def Fld.PORT_STATE_Cause (n : Nat) : Fld := ⟨0x320104 + 0x20 * n, 3, 2⟩
def Fld.PORT_STATE_Pins (n : Nat) : Fld := ⟨0x320104 + 0x20 * n, 8, 4⟩
def Fld.PORT_STATE_Misses (n : Nat) : Fld := ⟨0x320104 + 0x20 * n, 10, 9⟩
def Fld.PORT_OPEN_Open (n : Nat) : Fld := ⟨0x320108 + 0x20 * n, 15, 0⟩
def Fld.PORT_CNT_A_Late (n : Nat) : Fld := ⟨0x32010c + 0x20 * n, 15, 0⟩
def Fld.PORT_CNT_A_Suppressed (n : Nat) : Fld := ⟨0x32010c + 0x20 * n, 31, 16⟩
def Fld.PORT_CNT_B_Overrun (n : Nat) : Fld := ⟨0x320110 + 0x20 * n, 15, 0⟩
def Fld.PORT_CNT_B_StageFault (n : Nat) : Fld := ⟨0x320110 + 0x20 * n, 31, 16⟩
def Fld.PORT_SHOTS_LO_Shots (n : Nat) : Fld := ⟨0x320114 + 0x20 * n, 31, 0⟩
def Fld.PORT_SHOTS_HI_Shots (n : Nat) : Fld := ⟨0x320118 + 0x20 * n, 31, 0⟩
def Fld.HIST_CFG_BinW (n : Nat) : Fld := ⟨0x340000 + 0x40 * n, 1, 0⟩
def Fld.HIST_CFG_SpanM1 (n : Nat) : Fld := ⟨0x340000 + 0x40 * n, 4, 2⟩
def Fld.HIST_CFG_Guard (n : Nat) : Fld := ⟨0x340000 + 0x40 * n, 8, 5⟩
def Fld.HIST_CFG_CoarseFrac (n : Nat) : Fld := ⟨0x340000 + 0x40 * n, 17, 9⟩
def Fld.HIST_CFG_BgSrc (n : Nat) : Fld := ⟨0x340000 + 0x40 * n, 19, 18⟩
def Fld.HIST_CFG_EmitEmpty (n : Nat) : Fld := ⟨0x340000 + 0x40 * n, 20, 20⟩
def Fld.HIST_CFG_AmbArray (n : Nat) : Fld := ⟨0x340000 + 0x40 * n, 21, 21⟩
def Fld.HIST_OFF_HistOff (n : Nat) : Fld := ⟨0x340004 + 0x40 * n, 12, 0⟩
def Fld.HIST_OFF_PortOffset (n : Nat) : Fld := ⟨0x340004 + 0x40 * n, 31, 16⟩
def Fld.HIST_THR_FaLog (n : Nat) : Fld := ⟨0x340008 + 0x40 * n, 5, 0⟩
def Fld.HIST_THR_CandLog (n : Nat) : Fld := ⟨0x340008 + 0x40 * n, 13, 8⟩
def Fld.HIST_THR_SatFrac (n : Nat) : Fld := ⟨0x340008 + 0x40 * n, 24, 16⟩
def Fld.CLASS_CFG_WideLimit (n : Nat) : Fld := ⟨0x34000c + 0x40 * n, 7, 0⟩
def Fld.CLASS_CFG_RainWidth (n : Nat) : Fld := ⟨0x34000c + 0x40 * n, 15, 8⟩
def Fld.CLASS_CFG_RainInt (n : Nat) : Fld := ⟨0x34000c + 0x40 * n, 31, 16⟩
def Fld.RAIN_RANGE_RainRange (n : Nat) : Fld := ⟨0x340010 + 0x40 * n, 15, 0⟩
def Fld.PT_POINTS_Points (n : Nat) : Fld := ⟨0x340014 + 0x40 * n, 31, 0⟩
def Fld.HIST_LANE_LaneOffset (n : Nat) : Fld := ⟨0x341000 + 4 * n, 15, 0⟩
def Fld.HIST_LANE_Segment (n : Nat) : Fld := ⟨0x341000 + 4 * n, 19, 16⟩
def Fld.HIST_LANE_SegGate (n : Nat) : Fld := ⟨0x341000 + 4 * n, 20, 20⟩
def Fld.HIST_LANE_CNT_OutOfHist (n : Nat) : Fld := ⟨0x341400 + 4 * n, 15, 0⟩
def Fld.HIST_LANE_CNT_NoBank (n : Nat) : Fld := ⟨0x341400 + 4 * n, 31, 16⟩
def Fld.PT_STATUS_HistCheck : Fld := ⟨0x342000, 3, 0⟩
def Fld.PT_CNT_A_NoBank : Fld := ⟨0x342004, 15, 0⟩
def Fld.PT_CNT_A_Truncated : Fld := ⟨0x342004, 31, 16⟩
def Fld.PT_CNT_B_Abandoned : Fld := ⟨0x342008, 15, 0⟩
def Fld.PT_RETURNS_LO_Returns : Fld := ⟨0x34200c, 31, 0⟩
def Fld.PT_RETURNS_HI_Returns : Fld := ⟨0x342010, 31, 0⟩
def Fld.PT_CLEAR_ClearCounts : Fld := ⟨0x342014, 0, 0⟩
def Fld.DUMP_CTRL_Enable : Fld := ⟨0x342100, 0, 0⟩
def Fld.DUMP_CTRL_Zoom : Fld := ⟨0x342100, 1, 1⟩
def Fld.DUMP_CTRL_Lane : Fld := ⟨0x342100, 15, 8⟩
def Fld.DUMP_CTRL_Every : Fld := ⟨0x342100, 31, 16⟩
def Fld.CORE_CTRL_Run (n : Nat) : Fld := ⟨0x400000 + 0x10000 * n, 0, 0⟩
def Fld.CORE_CTRL_Entry (n : Nat) : Fld := ⟨0x400000 + 0x10000 * n, 16, 4⟩
def Fld.CORE_CTRL_Wdog (n : Nat) : Fld := ⟨0x400000 + 0x10000 * n, 31, 24⟩
def Fld.CORE_WIN_Base (n : Nat) : Fld := ⟨0x400004 + 0x10000 * n, 15, 0⟩
def Fld.CORE_WIN_Size (n : Nat) : Fld := ⟨0x400004 + 0x10000 * n, 31, 16⟩
def Fld.CORE_RING_Timeout (n : Nat) : Fld := ⟨0x400008 + 0x10000 * n, 13, 0⟩
def Fld.CORE_RING_MaxLen (n : Nat) : Fld := ⟨0x400008 + 0x10000 * n, 26, 16⟩
def Fld.CORE_STATUS_State (n : Nat) : Fld := ⟨0x40000c + 0x10000 * n, 2, 0⟩
def Fld.CORE_STATUS_Cause (n : Nat) : Fld := ⟨0x40000c + 0x10000 * n, 7, 4⟩
def Fld.CORE_STATUS_Pc (n : Nat) : Fld := ⟨0x40000c + 0x10000 * n, 20, 8⟩
def Fld.CORE_MBOX_IN_Mail (n : Nat) : Fld := ⟨0x400010 + 0x10000 * n, 31, 0⟩
def Fld.CORE_MBOX_OUT_Mail (n : Nat) : Fld := ⟨0x400014 + 0x10000 * n, 31, 0⟩
def Fld.MEM_ADDR_Addr (n : Nat) : Fld := ⟨0x400018 + 0x10000 * n, 18, 0⟩
def Fld.MEM_ADDR_Space (n : Nat) : Fld := ⟨0x400018 + 0x10000 * n, 31, 31⟩
def Fld.MEM_DATA_Data (n : Nat) : Fld := ⟨0x40001c + 0x10000 * n, 31, 0⟩
def Fld.CYCLES_LO_Cycles (n : Nat) : Fld := ⟨0x400020 + 0x10000 * n, 31, 0⟩
def Fld.CYCLES_HI_Cycles (n : Nat) : Fld := ⟨0x400024 + 0x10000 * n, 31, 0⟩
def Fld.STREAM_CFG_Enable (n m : Nat) : Fld := ⟨0x400040 + 0x10000 * n + 0x10 * m, 0, 0⟩
def Fld.STREAM_CFG_Ring (n m : Nat) : Fld := ⟨0x400040 + 0x10000 * n + 0x10 * m, 4, 1⟩
def Fld.STREAM_CFG_LenLog (n m : Nat) : Fld := ⟨0x400040 + 0x10000 * n + 0x10 * m, 9, 5⟩
def Fld.STREAM_CFG_Base (n m : Nat) : Fld := ⟨0x400040 + 0x10000 * n + 0x10 * m, 22, 10⟩
def Fld.STREAM_TYPE_Match (n m : Nat) : Fld := ⟨0x400044 + 0x10000 * n + 0x10 * m, 15, 0⟩
def Fld.STREAM_TYPE_Mask (n m : Nat) : Fld := ⟨0x400044 + 0x10000 * n + 0x10 * m, 31, 16⟩
def Fld.STREAM_SEL_Sel0 (n m : Nat) : Fld := ⟨0x400048 + 0x10000 * n + 0x10 * m, 7, 0⟩
def Fld.STREAM_SEL_Sel0Mask (n m : Nat) : Fld := ⟨0x400048 + 0x10000 * n + 0x10 * m, 15, 8⟩
def Fld.STREAM_SEL_Sel1 (n m : Nat) : Fld := ⟨0x400048 + 0x10000 * n + 0x10 * m, 23, 16⟩
def Fld.STREAM_SEL_Sel1Mask (n m : Nat) : Fld := ⟨0x400048 + 0x10000 * n + 0x10 * m, 31, 24⟩
def Fld.MC_CFG_Enable (n : Nat) : Fld := ⟨0x500000 + 0x1000 * n, 0, 0⟩
def Fld.MC_CFG_Ranks (n : Nat) : Fld := ⟨0x500000 + 0x1000 * n, 1, 1⟩
def Fld.MC_CFG_Density (n : Nat) : Fld := ⟨0x500000 + 0x1000 * n, 3, 2⟩
def Fld.MC_CFG_Speed (n : Nat) : Fld := ⟨0x500000 + 0x1000 * n, 4, 4⟩
def Fld.MC_CFG_RetrainCE (n : Nat) : Fld := ⟨0x500000 + 0x1000 * n, 15, 8⟩
def Fld.MC_CFG_PatrolHours (n : Nat) : Fld := ⟨0x500000 + 0x1000 * n, 23, 16⟩
def Fld.MC_STATUS_State (n : Nat) : Fld := ⟨0x500004 + 0x1000 * n, 2, 0⟩
def Fld.MC_STATUS_Hot (n : Nat) : Fld := ⟨0x500004 + 0x1000 * n, 3, 3⟩
def Fld.MC_STATUS_OverTemp (n : Nat) : Fld := ⟨0x500004 + 0x1000 * n, 4, 4⟩
def Fld.MC_STATUS_Owed (n : Nat) : Fld := ⟨0x500004 + 0x1000 * n, 7, 5⟩
def Fld.MC_STATUS_Attempts (n : Nat) : Fld := ⟨0x500004 + 0x1000 * n, 9, 8⟩
def Fld.MC_STATUS_Retraining (n : Nat) : Fld := ⟨0x500004 + 0x1000 * n, 10, 10⟩
def Fld.MC_STATUS_Retiring (n : Nat) : Fld := ⟨0x500004 + 0x1000 * n, 11, 11⟩
def Fld.XOR_MASK_Mask (n m : Nat) : Fld := ⟨0x500008 + 0x1000 * n + 4 * m, 17, 0⟩
def Fld.CE_COUNT_Corrected (n : Nat) : Fld := ⟨0x500020 + 0x1000 * n, 31, 0⟩
def Fld.UE_COUNT_Uncorrectable (n : Nat) : Fld := ⟨0x500024 + 0x1000 * n, 15, 0⟩
def Fld.UE_COUNT_PoisonReads (n : Nat) : Fld := ⟨0x500024 + 0x1000 * n, 31, 16⟩
def Fld.SCRUB_STATUS_Progress (n : Nat) : Fld := ⟨0x500028 + 0x1000 * n, 9, 0⟩
def Fld.SCRUB_STATUS_Priority (n : Nat) : Fld := ⟨0x500028 + 0x1000 * n, 10, 10⟩
def Fld.SCRUB_STATUS_Passes (n : Nat) : Fld := ⟨0x500028 + 0x1000 * n, 31, 16⟩
def Fld.MC_CTRL_ClearCounts (n : Nat) : Fld := ⟨0x500030 + 0x1000 * n, 0, 0⟩
def Fld.MC_CTRL_Retrain (n : Nat) : Fld := ⟨0x500030 + 0x1000 * n, 1, 1⟩
def Fld.REPEAT_LO_Loc (n m : Nat) : Fld := ⟨0x500200 + 0x1000 * n + 8 * m, 31, 0⟩
def Fld.REPEAT_HI_LocHi (n m : Nat) : Fld := ⟨0x500204 + 0x1000 * n + 8 * m, 7, 0⟩
def Fld.REPEAT_HI_Count (n m : Nat) : Fld := ⟨0x500204 + 0x1000 * n + 8 * m, 9, 8⟩
def Fld.REPEAT_HI_Valid (n m : Nat) : Fld := ⟨0x500204 + 0x1000 * n + 8 * m, 10, 10⟩
def Fld.REPEAT_HI_Age (n m : Nat) : Fld := ⟨0x500204 + 0x1000 * n + 8 * m, 15, 11⟩
def Fld.RETIRE_Valid (n m : Nat) : Fld := ⟨0x500400 + 0x1000 * n + 4 * m, 0, 0⟩
def Fld.RETIRE_Rank (n m : Nat) : Fld := ⟨0x500400 + 0x1000 * n + 4 * m, 1, 1⟩
def Fld.RETIRE_BG (n m : Nat) : Fld := ⟨0x500400 + 0x1000 * n + 4 * m, 3, 2⟩
def Fld.RETIRE_BA (n m : Nat) : Fld := ⟨0x500400 + 0x1000 * n + 4 * m, 5, 4⟩
def Fld.RETIRE_Spare (n m : Nat) : Fld := ⟨0x500400 + 0x1000 * n + 4 * m, 7, 6⟩
def Fld.RETIRE_Row (n m : Nat) : Fld := ⟨0x500400 + 0x1000 * n + 4 * m, 24, 8⟩
def Fld.RETIRE_Host (n m : Nat) : Fld := ⟨0x500400 + 0x1000 * n + 4 * m, 25, 25⟩
def Fld.ERR_LOG_ADDR_LO_Addr (n m : Nat) : Fld := ⟨0x500600 + 0x1000 * n + 0x20 * m, 31, 0⟩
def Fld.ERR_LOG_ADDR_HI_Addr (n m : Nat) : Fld := ⟨0x500604 + 0x1000 * n + 0x20 * m, 31, 0⟩
def Fld.ERR_LOG_LOC_LO_LocLo (n m : Nat) : Fld := ⟨0x500608 + 0x1000 * n + 0x20 * m, 31, 0⟩
def Fld.ERR_LOG_LOC_HI_LocHi (n m : Nat) : Fld := ⟨0x50060c + 0x1000 * n + 0x20 * m, 7, 0⟩
def Fld.ERR_LOG_SYN_Syndrome (n m : Nat) : Fld := ⟨0x500610 + 0x1000 * n + 0x20 * m, 14, 0⟩
def Fld.ERR_LOG_SYN_Z (n m : Nat) : Fld := ⟨0x500610 + 0x1000 * n + 0x20 * m, 15, 15⟩
def Fld.ERR_LOG_TIME_LO_Time (n m : Nat) : Fld := ⟨0x500614 + 0x1000 * n + 0x20 * m, 31, 0⟩
def Fld.ERR_LOG_TIME_HI_Time (n m : Nat) : Fld := ⟨0x500618 + 0x1000 * n + 0x20 * m, 31, 0⟩
def Fld.ERR_LOG_INFO_Requester (n m : Nat) : Fld := ⟨0x50061c + 0x1000 * n + 0x20 * m, 7, 0⟩
def Fld.ERR_LOG_INFO_Kind (n m : Nat) : Fld := ⟨0x50061c + 0x1000 * n + 0x20 * m, 9, 8⟩
def Fld.LOG_STATUS_Head (n : Nat) : Fld := ⟨0x500800 + 0x1000 * n, 3, 0⟩
def Fld.LOG_STATUS_Count (n : Nat) : Fld := ⟨0x500800 + 0x1000 * n, 31, 16⟩
def Fld.SRAM_CE_COUNT_Corrected : Fld := ⟨0x502020, 31, 0⟩
def Fld.SRAM_UE_COUNT_Uncorrectable : Fld := ⟨0x502024, 15, 0⟩
def Fld.SRAM_UE_COUNT_PoisonReads : Fld := ⟨0x502024, 31, 16⟩
def Fld.SRAM_MC_CTRL_ClearCounts : Fld := ⟨0x502030, 0, 0⟩
def Fld.SRAM_MC_CTRL_Retrain : Fld := ⟨0x502030, 1, 1⟩
def Fld.SRAM_REPEAT_LO_Loc (n : Nat) : Fld := ⟨0x502200 + 8 * n, 31, 0⟩
def Fld.SRAM_REPEAT_HI_LocHi (n : Nat) : Fld := ⟨0x502204 + 8 * n, 7, 0⟩
def Fld.SRAM_REPEAT_HI_Count (n : Nat) : Fld := ⟨0x502204 + 8 * n, 9, 8⟩
def Fld.SRAM_REPEAT_HI_Valid (n : Nat) : Fld := ⟨0x502204 + 8 * n, 10, 10⟩
def Fld.SRAM_REPEAT_HI_Age (n : Nat) : Fld := ⟨0x502204 + 8 * n, 15, 11⟩
def Fld.SRAM_ERR_LOG_ADDR_LO_Addr (n : Nat) : Fld := ⟨0x502600 + 0x20 * n, 31, 0⟩
def Fld.SRAM_ERR_LOG_ADDR_HI_Addr (n : Nat) : Fld := ⟨0x502604 + 0x20 * n, 31, 0⟩
def Fld.SRAM_ERR_LOG_LOC_LO_LocLo (n : Nat) : Fld := ⟨0x502608 + 0x20 * n, 31, 0⟩
def Fld.SRAM_ERR_LOG_LOC_HI_LocHi (n : Nat) : Fld := ⟨0x50260c + 0x20 * n, 7, 0⟩
def Fld.SRAM_ERR_LOG_SYN_Syndrome (n : Nat) : Fld := ⟨0x502610 + 0x20 * n, 14, 0⟩
def Fld.SRAM_ERR_LOG_SYN_Z (n : Nat) : Fld := ⟨0x502610 + 0x20 * n, 15, 15⟩
def Fld.SRAM_ERR_LOG_TIME_LO_Time (n : Nat) : Fld := ⟨0x502614 + 0x20 * n, 31, 0⟩
def Fld.SRAM_ERR_LOG_TIME_HI_Time (n : Nat) : Fld := ⟨0x502618 + 0x20 * n, 31, 0⟩
def Fld.SRAM_ERR_LOG_INFO_Requester (n : Nat) : Fld := ⟨0x50261c + 0x20 * n, 7, 0⟩
def Fld.SRAM_ERR_LOG_INFO_Kind (n : Nat) : Fld := ⟨0x50261c + 0x20 * n, 9, 8⟩
def Fld.SRAM_LOG_STATUS_Head : Fld := ⟨0x502800, 3, 0⟩
def Fld.SRAM_LOG_STATUS_Count : Fld := ⟨0x502800, 31, 16⟩
def Fld.MEM_CHMASK_ChMask : Fld := ⟨0x503000, 22, 0⟩
def Fld.MEM_MODE_Mode : Fld := ⟨0x503004, 1, 0⟩
def Fld.REGION_SIZE_Size (n : Nat) : Fld := ⟨0x503010 + 4 * n, 15, 0⟩
def Fld.RING_CFG_Links (n : Nat) : Fld := ⟨0x600000 + 0x40 * n, 7, 0⟩
def Fld.RING_CFG_Failover (n : Nat) : Fld := ⟨0x600000 + 0x40 * n, 10, 8⟩
def Fld.RING_CFG_FailEn (n : Nat) : Fld := ⟨0x600000 + 0x40 * n, 11, 11⟩
def Fld.RING_CFG_Policy (n : Nat) : Fld := ⟨0x600000 + 0x40 * n, 12, 12⟩
def Fld.RING_CFG_Crema (n : Nat) : Fld := ⟨0x600000 + 0x40 * n, 13, 13⟩
def Fld.RING_CFG_AutoStart (n : Nat) : Fld := ⟨0x600000 + 0x40 * n, 14, 14⟩
def Fld.RING_CFG_Weight (n : Nat) : Fld := ⟨0x600000 + 0x40 * n, 19, 16⟩
def Fld.RING_CFG_HighWater (n : Nat) : Fld := ⟨0x600000 + 0x40 * n, 26, 20⟩
def Fld.RING_BODY_Base (n : Nat) : Fld := ⟨0x600004 + 0x40 * n, 15, 0⟩
def Fld.RING_BODY_Size (n : Nat) : Fld := ⟨0x600004 + 0x40 * n, 31, 16⟩
def Fld.RING_AGE_AgeLimit (n : Nat) : Fld := ⟨0x600008 + 0x40 * n, 7, 0⟩
def Fld.RING_AGE_FlushUs (n : Nat) : Fld := ⟨0x600008 + 0x40 * n, 23, 8⟩
def Fld.RING_DECL_Decl (n : Nat) : Fld := ⟨0x60000c + 0x40 * n, 15, 0⟩
def Fld.RING_STATE_State (n : Nat) : Fld := ⟨0x600010 + 0x40 * n, 1, 0⟩
def Fld.RING_STATE_High (n : Nat) : Fld := ⟨0x600010 + 0x40 * n, 2, 2⟩
def Fld.RING_STATE_DrainDrop (n : Nat) : Fld := ⟨0x600010 + 0x40 * n, 3, 3⟩
def Fld.RING_STATE_Fill (n : Nat) : Fld := ⟨0x600010 + 0x40 * n, 13, 4⟩
def Fld.RING_LOST_LO_Lost (n : Nat) : Fld := ⟨0x600014 + 0x40 * n, 31, 0⟩
def Fld.RING_LOST_HI_Lost (n : Nat) : Fld := ⟨0x600018 + 0x40 * n, 31, 0⟩
def Fld.RING_SEQ_Next (n : Nat) : Fld := ⟨0x60001c + 0x40 * n, 31, 0⟩
def Fld.RING_DGSEQ_Next (n : Nat) : Fld := ⟨0x600020 + 0x40 * n, 31, 0⟩
def Fld.CREMA_CFG_Engine (n : Nat) : Fld := ⟨0x610000 + 0x10 * n, 2, 0⟩
def Fld.CREMA_CFG_PfMode (n : Nat) : Fld := ⟨0x610000 + 0x10 * n, 5, 4⟩
def Fld.CREMA_CFG_BlockKiB (n : Nat) : Fld := ⟨0x610000 + 0x10 * n, 12, 8⟩
def Fld.CREMA_CFG_ResetBlocks (n : Nat) : Fld := ⟨0x610000 + 0x10 * n, 23, 16⟩
def Fld.CREMA_STREAM_Generation (n : Nat) : Fld := ⟨0x610004 + 0x10 * n, 11, 0⟩
def Fld.CREMA_BLKSEQ_Next (n : Nat) : Fld := ⟨0x610008 + 0x10 * n, 31, 0⟩
def Fld.CREMA_RAW_Fallbacks (n : Nat) : Fld := ⟨0x61000c + 0x10 * n, 15, 0⟩
def Fld.CREMA_RAW_RawBlocks (n : Nat) : Fld := ⟨0x61000c + 0x10 * n, 31, 16⟩
def Fld.ENG_STATUS_State (n : Nat) : Fld := ⟨0x610100 + 0x20 * n, 1, 0⟩
def Fld.ENG_STATUS_Ring (n : Nat) : Fld := ⟨0x610100 + 0x20 * n, 7, 4⟩
def Fld.ENG_STATUS_Switches (n : Nat) : Fld := ⟨0x610100 + 0x20 * n, 31, 16⟩
def Fld.ENG_IN_LO_Bytes (n : Nat) : Fld := ⟨0x610108 + 0x20 * n, 31, 0⟩
def Fld.ENG_IN_HI_Bytes (n : Nat) : Fld := ⟨0x61010c + 0x20 * n, 31, 0⟩
def Fld.ENG_OUT_LO_Bytes (n : Nat) : Fld := ⟨0x610110 + 0x20 * n, 31, 0⟩
def Fld.ENG_OUT_HI_Bytes (n : Nat) : Fld := ⟨0x610114 + 0x20 * n, 31, 0⟩
def Fld.DECOMP_STATUS_Error : Fld := ⟨0x610200, 2, 0⟩
def Fld.DECOMP_STATUS_Section : Fld := ⟨0x610200, 15, 8⟩
def Fld.LINK_CFG_Enable (n : Nat) : Fld := ⟨0x620000 + 0x100 * n, 0, 0⟩
def Fld.LINK_CFG_Rate (n : Nat) : Fld := ⟨0x620000 + 0x100 * n, 1, 1⟩
def Fld.LINK_CFG_Fec (n : Nat) : Fld := ⟨0x620000 + 0x100 * n, 2, 2⟩
def Fld.LINK_CFG_Tag (n : Nat) : Fld := ⟨0x620000 + 0x100 * n, 3, 3⟩
def Fld.LINK_CFG_Ipv6 (n : Nat) : Fld := ⟨0x620000 + 0x100 * n, 4, 4⟩
def Fld.LINK_CFG_UdpCsum (n : Nat) : Fld := ⟨0x620000 + 0x100 * n, 5, 5⟩
def Fld.LINK_CFG_Pfc (n : Nat) : Fld := ⟨0x620000 + 0x100 * n, 6, 6⟩
def Fld.LINK_CFG_Pcp (n : Nat) : Fld := ⟨0x620000 + 0x100 * n, 10, 8⟩
def Fld.LINK_CFG_Vid (n : Nat) : Fld := ⟨0x620000 + 0x100 * n, 27, 16⟩
def Fld.LINK_FRAME_FrameMax (n : Nat) : Fld := ⟨0x620004 + 0x100 * n, 13, 0⟩
def Fld.LINK_FRAME_Dscp (n : Nat) : Fld := ⟨0x620004 + 0x100 * n, 21, 16⟩
def Fld.LINK_FRAME_StallMs (n : Nat) : Fld := ⟨0x620004 + 0x100 * n, 31, 22⟩
def Fld.LINK_MAC_LO_Mac (n : Nat) : Fld := ⟨0x620008 + 0x100 * n, 31, 0⟩
def Fld.LINK_MAC_HI_Mac (n : Nat) : Fld := ⟨0x62000c + 0x100 * n, 15, 0⟩
def Fld.DST_MAC_LO_Mac (n : Nat) : Fld := ⟨0x620010 + 0x100 * n, 31, 0⟩
def Fld.DST_MAC_HI_Mac (n : Nat) : Fld := ⟨0x620014 + 0x100 * n, 15, 0⟩
def Fld.SRC_IP_Addr (n m : Nat) : Fld := ⟨0x620020 + 0x100 * n + 4 * m, 31, 0⟩
def Fld.DST_IP_Addr (n m : Nat) : Fld := ⟨0x620030 + 0x100 * n + 4 * m, 31, 0⟩
def Fld.PEER_IP_Addr (n m : Nat) : Fld := ⟨0x620040 + 0x100 * n + 4 * m, 31, 0⟩
def Fld.LINK_PORTS_SrcPort (n : Nat) : Fld := ⟨0x620050 + 0x100 * n, 15, 0⟩
def Fld.LINK_PORTS_DstPort (n : Nat) : Fld := ⟨0x620050 + 0x100 * n, 31, 16⟩
def Fld.LINK_CMD_CmdPort (n : Nat) : Fld := ⟨0x620054 + 0x100 * n, 15, 0⟩
def Fld.LINK_CMD_CmdEnable (n : Nat) : Fld := ⟨0x620054 + 0x100 * n, 16, 16⟩
def Fld.LINK_CMD_PeerPrefix (n : Nat) : Fld := ⟨0x620054 + 0x100 * n, 24, 17⟩
def Fld.LINK_STATUS_State (n : Nat) : Fld := ⟨0x620060 + 0x100 * n, 2, 0⟩
def Fld.LINK_STATUS_Stalls (n : Nat) : Fld := ⟨0x620060 + 0x100 * n, 31, 16⟩
def Fld.LINK_LOAD_Load (n : Nat) : Fld := ⟨0x620064 + 0x100 * n, 10, 0⟩
def Fld.TX_FRAMES_LO_Frames (n : Nat) : Fld := ⟨0x620068 + 0x100 * n, 31, 0⟩
def Fld.TX_FRAMES_HI_Frames (n : Nat) : Fld := ⟨0x62006c + 0x100 * n, 31, 0⟩
def Fld.RX_COUNT_Cmd (n : Nat) : Fld := ⟨0x620070 + 0x100 * n, 15, 0⟩
def Fld.RX_COUNT_Discard (n : Nat) : Fld := ⟨0x620070 + 0x100 * n, 31, 16⟩
def Fld.TX_DISCARD_Datagrams (n : Nat) : Fld := ⟨0x620074 + 0x100 * n, 31, 0⟩
def Fld.ALARM_CTRL_Budget : Fld := ⟨0x700000, 9, 0⟩
def Fld.ALARM_CTRL_LogLevel : Fld := ⟨0x700000, 18, 16⟩
def Fld.ALARM_STATUS_Latched : Fld := ⟨0x700004, 0, 0⟩
def Fld.ALARM_STATUS_Severity : Fld := ⟨0x700004, 3, 1⟩
def Fld.ALARM_STATUS_Tracked : Fld := ⟨0x700004, 13, 4⟩
def Fld.ALARM_STATUS_Coalescing : Fld := ⟨0x700004, 14, 14⟩
def Fld.ALARM_MASK_Code (n : Nat) : Fld := ⟨0x700010 + 4 * n, 15, 0⟩
def Fld.ALARM_MASK_Mask (n : Nat) : Fld := ⟨0x700010 + 4 * n, 31, 16⟩
def Fld.ALARM_HIST_HEAD_Head : Fld := ⟨0x700040, 5, 0⟩
def Fld.ALARM_HIST_HEAD_Count : Fld := ⟨0x700040, 31, 16⟩
def Fld.ALARM_HIST_CODE_Code (n : Nat) : Fld := ⟨0x701000 + 0x20 * n, 15, 0⟩
def Fld.ALARM_HIST_CODE_Severity (n : Nat) : Fld := ⟨0x701000 + 0x20 * n, 18, 16⟩
def Fld.ALARM_HIST_CODE_Valid (n : Nat) : Fld := ⟨0x701000 + 0x20 * n, 31, 31⟩
def Fld.ALARM_HIST_ARG0_Arg (n : Nat) : Fld := ⟨0x701004 + 0x20 * n, 31, 0⟩
def Fld.ALARM_HIST_ARG1_Arg (n : Nat) : Fld := ⟨0x701008 + 0x20 * n, 31, 0⟩
def Fld.ALARM_HIST_TIME_LO_Time (n : Nat) : Fld := ⟨0x701010 + 0x20 * n, 31, 0⟩
def Fld.ALARM_HIST_TIME_HI_Time (n : Nat) : Fld := ⟨0x701014 + 0x20 * n, 31, 0⟩
def Fld.CAL_CFG_DeltaT : Fld := ⟨0x710000, 3, 0⟩
def Fld.CAL_CFG_Interval : Fld := ⟨0x710000, 15, 4⟩
def Fld.CAL_CFG_ForceAfter : Fld := ⟨0x710000, 23, 16⟩
def Fld.CAL_CFG_TdcSrc : Fld := ⟨0x710000, 25, 24⟩
def Fld.CAL_CMD_Coherent : Fld := ⟨0x710004, 3, 0⟩
def Fld.CAL_CMD_Raman : Fld := ⟨0x710004, 7, 4⟩
def Fld.CAL_CMD_Tdc : Fld := ⟨0x710004, 8, 8⟩
def Fld.CAL_CMD_Thresh : Fld := ⟨0x710004, 9, 9⟩
def Fld.CAL_STATUS_Waiting : Fld := ⟨0x710008, 3, 0⟩
def Fld.CAL_STATUS_Running : Fld := ⟨0x710008, 7, 4⟩
def Fld.CAL_STATUS_Failures : Fld := ⟨0x710008, 23, 8⟩
def Fld.FIBRE_TEST_Mode (n : Nat) : Fld := ⟨0x720000 + 0x10 * n, 1, 0⟩
def Fld.FIBRE_TEST_EchoAtten (n : Nat) : Fld := ⟨0x720000 + 0x10 * n, 2, 2⟩
def Fld.FIBRE_TEST_Pattern (n : Nat) : Fld := ⟨0x720000 + 0x10 * n, 4, 3⟩
def Fld.FIBRE_TEST_Seed (n : Nat) : Fld := ⟨0x720000 + 0x10 * n, 31, 16⟩
def Fld.SYN_FIBRE_BreakPos (n : Nat) : Fld := ⟨0x720004 + 0x10 * n, 17, 0⟩
def Fld.SYN_FIBRE_A0 (n : Nat) : Fld := ⟨0x720004 + 0x10 * n, 25, 18⟩
def Fld.SYN_FIBRE_NoiseRms (n : Nat) : Fld := ⟨0x720004 + 0x10 * n, 31, 26⟩
def Fld.SYN_VIB_A_VibPos (n : Nat) : Fld := ⟨0x720040 + 8 * n, 17, 0⟩
def Fld.SYN_VIB_A_LossMdb (n : Nat) : Fld := ⟨0x720040 + 8 * n, 31, 18⟩
def Fld.SYN_VIB_B_VibAmp (n : Nat) : Fld := ⟨0x720044 + 8 * n, 15, 0⟩
def Fld.SYN_VIB_B_VibFreq (n : Nat) : Fld := ⟨0x720044 + 8 * n, 31, 16⟩
def Fld.LANE_TEST_Inject : Fld := ⟨0x720100, 15, 0⟩
def Fld.LANE_TEST_FireStart : Fld := ⟨0x720100, 23, 16⟩
def Fld.LANE_TEST_InjAmp : Fld := ⟨0x720100, 31, 24⟩
def Fld.LANE_TEST_T_InjDelay : Fld := ⟨0x720104, 12, 0⟩
def Fld.LANE_TEST_T_LoopDelay : Fld := ⟨0x720104, 18, 13⟩
def Fld.SYN_RET0_Lanes : Fld := ⟨0x720110, 15, 0⟩
def Fld.SYN_RET0_Seed : Fld := ⟨0x720110, 31, 16⟩
def Fld.SYN_RET1_Target : Fld := ⟨0x720114, 31, 0⟩
def Fld.SYN_RET2_Prob : Fld := ⟨0x720118, 7, 0⟩
def Fld.SYN_RET2_Sigma : Fld := ⟨0x720118, 23, 8⟩
def Fld.SYN_RET2_AmbRate : Fld := ⟨0x720118, 31, 24⟩
def Fld.SYN_RET3_Target0 : Fld := ⟨0x72011c, 5, 0⟩
def Fld.LINK_TEST_Loop (n : Nat) : Fld := ⟨0x720200 + 4 * n, 1, 0⟩
def Fld.LINK_TEST_PrbsGen (n : Nat) : Fld := ⟨0x720200 + 4 * n, 2, 2⟩
def Fld.LINK_TEST_PrbsCheck (n : Nat) : Fld := ⟨0x720200 + 4 * n, 3, 3⟩
def Fld.LINK_TEST_PRBS_ERR (n : Nat) : Fld := ⟨0x720200 + 4 * n, 31, 16⟩
def Fld.BIST_CFG_Sram : Fld := ⟨0x720300, 0, 0⟩
def Fld.BIST_CFG_Dram : Fld := ⟨0x720300, 1, 1⟩
def Fld.BIST_STATUS_Failed : Fld := ⟨0x720304, 7, 0⟩
def Fld.BIST_STATUS_Ran : Fld := ⟨0x720304, 8, 8⟩
def Fld.SP_WP_Count (n m : Nat) : Fld := ⟨0x100070000 + 0x100000 * n + 0x10 * m, 31, 0⟩
def Fld.SP_RP_Count (n m : Nat) : Fld := ⟨0x100070004 + 0x100000 * n + 0x10 * m, 31, 0⟩
def Fld.SP_WMARK_Value (n m : Nat) : Fld := ⟨0x100070008 + 0x100000 * n + 0x10 * m, 31, 0⟩
def Fld.SP_DROP_Value (n m : Nat) : Fld := ⟨0x10007000c + 0x100000 * n + 0x10 * m, 31, 0⟩
def Fld.DMA_LOCAL_Addr (n m : Nat) : Fld := ⟨0x100070100 + 0x100000 * n + 0x20 * m, 31, 0⟩
def Fld.DMA_REMOTE_LO_Addr (n m : Nat) : Fld := ⟨0x100070104 + 0x100000 * n + 0x20 * m, 31, 0⟩
def Fld.DMA_REMOTE_HI_Addr (n m : Nat) : Fld := ⟨0x100070108 + 0x100000 * n + 0x20 * m, 3, 0⟩
def Fld.DMA_SHAPE_RowBytes (n m : Nat) : Fld := ⟨0x10007010c + 0x100000 * n + 0x20 * m, 15, 0⟩
def Fld.DMA_SHAPE_Rows (n m : Nat) : Fld := ⟨0x10007010c + 0x100000 * n + 0x20 * m, 28, 16⟩
def Fld.DMA_STRIDE_LStride (n m : Nat) : Fld := ⟨0x100070110 + 0x100000 * n + 0x20 * m, 15, 0⟩
def Fld.DMA_STRIDE_RStride (n m : Nat) : Fld := ⟨0x100070110 + 0x100000 * n + 0x20 * m, 31, 16⟩
def Fld.DMA_CTRL_Go (n m : Nat) : Fld := ⟨0x100070114 + 0x100000 * n + 0x20 * m, 0, 0⟩
def Fld.DMA_CTRL_Dir (n m : Nat) : Fld := ⟨0x100070114 + 0x100000 * n + 0x20 * m, 1, 1⟩
def Fld.DMA_CTRL_Target (n m : Nat) : Fld := ⟨0x100070114 + 0x100000 * n + 0x20 * m, 2, 2⟩
def Fld.DMA_CTRL_IntEn (n m : Nat) : Fld := ⟨0x100070114 + 0x100000 * n + 0x20 * m, 3, 3⟩
def Fld.DMA_STATUS_Busy (n m : Nat) : Fld := ⟨0x100070118 + 0x100000 * n + 0x20 * m, 0, 0⟩
def Fld.DMA_STATUS_Done (n m : Nat) : Fld := ⟨0x100070118 + 0x100000 * n + 0x20 * m, 1, 1⟩
def Fld.DMA_STATUS_Error (n m : Nat) : Fld := ⟨0x100070118 + 0x100000 * n + 0x20 * m, 6, 4⟩
def Fld.INT_ENABLE_Sources (n : Nat) : Fld := ⟨0x100070200 + 0x100000 * n, 15, 0⟩
def Fld.INT_PENDING_Sources (n : Nat) : Fld := ⟨0x100070204 + 0x100000 * n, 15, 0⟩
def Fld.INT_VECBASE_VecBase (n : Nat) : Fld := ⟨0x100070208 + 0x100000 * n, 12, 0⟩
def Fld.INT_SAVE_EPC (n : Nat) : Fld := ⟨0x10007020c + 0x100000 * n, 12, 0⟩
def Fld.INT_SAVE_EWSL (n : Nat) : Fld := ⟨0x10007020c + 0x100000 * n, 20, 16⟩
def Fld.INT_SAVE_IE (n : Nat) : Fld := ⟨0x10007020c + 0x100000 * n, 24, 24⟩
def Fld.INT_SAVE_Cause (n : Nat) : Fld := ⟨0x10007020c + 0x100000 * n, 31, 28⟩
def Fld.CV_TIME_LO_Time (n : Nat) : Fld := ⟨0x100070300 + 0x100000 * n, 31, 0⟩
def Fld.CV_TIME_HI_Time (n : Nat) : Fld := ⟨0x100070304 + 0x100000 * n, 31, 0⟩
def Fld.CORE_INFO_Epoch (n : Nat) : Fld := ⟨0x100070308 + 0x100000 * n, 15, 0⟩
def Fld.CORE_INFO_CoreId (n : Nat) : Fld := ⟨0x100070308 + 0x100000 * n, 19, 16⟩
def Fld.TIMER_Period (n : Nat) : Fld := ⟨0x10007030c + 0x100000 * n, 23, 0⟩
def Fld.SIGNAL_Kick (n : Nat) : Fld := ⟨0x100070310 + 0x100000 * n, 0, 0⟩
def Fld.SIGNAL_Doorbell (n : Nat) : Fld := ⟨0x100070310 + 0x100000 * n, 31, 16⟩
def Fld.MBOX_IN_Mail (n : Nat) : Fld := ⟨0x100070318 + 0x100000 * n, 31, 0⟩
def Fld.MBOX_OUT_Mail (n : Nat) : Fld := ⟨0x10007031c + 0x100000 * n, 31, 0⟩
def Fld.ALARM_ARG0_Arg (n : Nat) : Fld := ⟨0x100070320 + 0x100000 * n, 31, 0⟩
def Fld.ALARM_ARG1_Arg (n : Nat) : Fld := ⟨0x100070324 + 0x100000 * n, 31, 0⟩
def Fld.ALARM_RAISE_Code (n : Nat) : Fld := ⟨0x100070328 + 0x100000 * n, 15, 0⟩
def Fld.ALARM_RAISE_Severity (n : Nat) : Fld := ⟨0x100070328 + 0x100000 * n, 18, 16⟩
def Fld.CORE_FLAGS_AccSat (n : Nat) : Fld := ⟨0x10007032c + 0x100000 * n, 0, 0⟩
def Fld.CORE_FLAGS_Poison (n : Nat) : Fld := ⟨0x10007032c + 0x100000 * n, 1, 1⟩
def Fld.CORE_FLAGS_NmiActive (n : Nat) : Fld := ⟨0x10007032c + 0x100000 * n, 2, 2⟩
def Fld.CORE_FLAGS_AlarmErr (n : Nat) : Fld := ⟨0x10007032c + 0x100000 * n, 3, 3⟩
def Fld.RING_STATUS_Held (n : Nat) : Fld := ⟨0x100070400 + 0x100000 * n, 0, 0⟩
def Fld.RING_STATUS_Ring (n : Nat) : Fld := ⟨0x100070400 + 0x100000 * n, 4, 1⟩
def Fld.RING_STATUS_Size (n : Nat) : Fld := ⟨0x100070400 + 0x100000 * n, 18, 8⟩
def Fld.RING_STATUS_Last (n : Nat) : Fld := ⟨0x100070400 + 0x100000 * n, 22, 20⟩

end Sys2Proof.Machine
end

