-- ==== Sys2Proof/Machine/StateFibre.lean ====
section
/-! DEFINITION. The state of the fibre road that no register shows: shot timer, front end, phase chain, product unit.
Instants are on the crystal count, ns, unless they are said to be device times. -/
namespace Sys2Proof.Machine

/-- A shot in progress: its boundary, and the configuration its slot samples are processed under (R38, R136, R143). -/
structure Shot where
  id : Nat               -- launches of the port since reset
  n : Nat                -- shot index (R55)
  at_ : Nat              -- shot boundary
  dev : Nat              -- device time of the boundary
  t0 : Nat               -- first shot boundary of its plan (R60, R124)
  epoch : Nat
  slot : Nat             -- plan slot in use: 0 plan, 1 watch plan (R80)
  calStep : Bool         -- a calibration step took effect at this boundary (R101)
  restart : Bool         -- first shot of a series (R139)
  gap : Bool             -- it follows shots lost to a clock loss (R139)
  cfg : RegFile          -- registers at the boundary
deriving DecidableEq, Repr

/-- A tone window: planned until it opens, then open until it closes or is cut (R62, R73). -/
structure ToneWin where
  shot : Nat             -- id of its shot
  tone : Nat
  openAt : Nat
  closeAt : Nat
  opened : Bool
  cut : Option Nat       -- instant of the cut (R73)
  at_ : Nat              -- the tone's launch
  instant : Nat          -- device time of the tone's launch (R144)
  dead : Bool            -- samples discarded by a clock loss (R113)
deriving DecidableEq, Repr

/-- The Raman window (R67). -/
structure RamanWin where
  shot : Nat
  openAt : Nat
  closeAt : Nat
  opened : Bool
  dead : Bool                  -- samples discarded by a clock loss (R113)
  stray : Bool                 -- its accumulation ended while it was open: the shot is not included (R188, R190)
deriving DecidableEq, Repr

/-- The shot timer and probe synthesiser of a port (R53 – R86). -/
structure ProbeSt where
  running : Bool               -- not STOPPED, and its function runs in the present power state
  hostStopped : Bool           -- ABORT or STOP by the host holds (R476)
  slot : Nat                   -- plan slot in use (R80)
  bounds : List Nat            -- shot boundaries to come, earliest first
  index : Nat                  -- shot index of the next shot (R55)
  t0 : Nat                     -- first shot boundary of the plan (R60)
  fresh : Bool                 -- the next shot is shot 0 of a plan: its boundary becomes t0
  reopen : Bool                -- the next launched shot opens a new series (R139)
  lostShots : Bool             -- shots were lost to a clock loss since the last launched one (R139)
  launches : List (Nat × Nat × Nat)   -- launches still to come: shot id, tone, instant
  codes : List (Shot × Nat)    -- codes whose emission has begun: their shot and tone (R60)
  gates : List (Nat × Nat)     -- gate intervals not yet over: opening and closing (R65)
  pgate : Bool                 -- PGATE active
  rtrig : Bool                 -- RTRIG asserted
  rtrigEnd : Nat
  muted : Bool                 -- silent since a loss of PLL-A, until the next boundary after relock (R77)
  lastEvent : Option Nat       -- instant of the last accepted event (R71)
  waitFrom : Option Nat        -- the port waits for its first event since this instant (R75)
  burstLeft : Nat              -- shots still to launch in the burst
  bandSeen : Bool              -- a band window of the selected range has closed since the last burst was judged (R85)
  bandHit : Bool               -- and its energy exceeded WakeThr
  launched : Nat               -- shot boundaries since reset, launched or not
deriving DecidableEq, Repr

/-- Background sums of one slice over a shot (R98). -/
structure BgSum where
  a : Int
  bb : Int
  cnt : Nat
deriving DecidableEq, Repr

/-- A capture engine (R115 – R120). -/
structure CapSt where
  ctrl : Word                  -- CAP_CTRL at the arm
  total : Nat                  -- CAP_LEN.Total at the arm
  seq : Nat                    -- captures armed since reset
  buf : List (Int × Bool × Bool)  -- samples of the record in progress: code, OVR, INVALID
  bufAt : Nat                  -- instant of its first sample, half ns of the crystal count
  next : Nat                   -- instant of the next grid sample of the record, half ns
  to_ : Nat                    -- samples before this instant have been captured, half ns
  flags : Nat                  -- common flags of the record in progress
  epoch : Nat                  -- epoch of its first sample (R38)
  rate : Nat                   -- rate code of its samples (R120)
  gap : Bool                   -- the sample clock was lost, and no boundary has followed (R113)
  index : Nat                  -- samples produced
  emitted : Nat                -- records emitted
deriving DecidableEq, Repr

/-- Trims of a slice (R96, R102). -/
structure Trim where
  off : Int
  gain : Nat
  hMinus : Int
  hZero : Int
  hPlus : Int
  skew : Int
deriving DecidableEq, Repr

/-- The front end of a port (R87 – R120). -/
structure FeSt where
  refFrom : Option Nat         -- start of the reference buffer (R110)
  sliceFrom : Vector (Option Nat) 6  -- power-up of each slice (R110)
  refWas : Option (Nat × Nat)  -- start and end of the buffer's last time in power
  sliceWas : Vector (Option (Nat × Nat)) 6  -- and of each slice's
  downAt : Option Nat          -- pending power-down (R111)
  lastWin : Option Nat         -- close of the window that opened last (R111)
  fore : Vector (Int × Nat) 6  -- foreground offset and gain (R99)
  trims : List (Nat × List Trim) -- newest first: instant, half ns, from which the trims of the six slices hold
  sums : Vector BgSum 4        -- background sums of the shot they belong to (R98)
  sumShot : Nat
  sumTo : Nat                  -- samples before this half-ns instant are already in the sums
  ovrTo : Vector Nat 4         -- samples of an input before this half-ns instant are already counted (R109)
  bgNext : Option (Nat × List (Nat × Int × Nat))  -- instant from which, at a boundary, slices take a new offset and gain
  bounds : List Nat            -- shot boundaries from the last one before the samples still to be converted on, ns, earliest first (R91)
  limited : List (Nat × Nat)   -- slices that raised FE_BG_LIMIT, with the epoch (R99)
  calNext : List (Nat × Trim)  -- calibration results that apply at the next boundary (R101)
  calAt : Option Nat           -- instant of the last calibration step of the coherent slices (R101)
  calRam : Option Nat          -- and of the Raman slices
  spans : List (Nat × Nat × Nat)  -- slice, start and end of calibration interruptions, ns (R101, R521)
  cfgs : List (Nat × Nat × RegFile) -- until when, earliest first, an earlier epoch and configuration held (R38, R96)
  cap : CapSt
deriving DecidableEq, Repr

/-- The samples of a window as the chain holds them: per polarisation code, OVR, REF_COLD and INVALID (R105). -/
structure Merged where
  code : Int
  ovr : Bool
  cold : Bool
  invalid : Bool
deriving DecidableEq, Repr

/-- A slot sample under way: one tone's window of one shot (R133, R140). -/
structure SlotWin where
  shot : Shot
  tone : Nat
  slot : Nat
  x : List Merged
  y : List Merged
  nextZ : Nat                  -- next gauge position to be fused
  start : Nat                  -- window opening, ns
  at_ : Nat                    -- the tone's launch
  instant : Nat                -- device time of the tone's launch (R144)
  seed : Nat                   -- free-value counter of its Grinder slack (R127)
  last : Bool                  -- last slot sample of its shot
deriving DecidableEq, Repr

/-- An item of R144. -/
structure Item where
  shotId : Nat                 -- id of its shot
  shotN : Nat
  epoch : Nat
  plan : Nat                   -- plan slot of its shot (R80)
  tone : Nat
  slot : Nat
  first : Bool                 -- its slot sample is the first of the shot
  opens : Bool                 -- it belongs to the first slot sample of a series of the port (R139)
  init : Bool                  -- which follows an initialisation
  at_ : Nat                    -- the tone's launch, and its device time
  instant : Nat
  z : Nat
  phi : Nat
  pre : Int
  pim : Int
  level : Nat
  marks : Nat                  -- bits: 0 FADED, 1 SINGLE_POL, 2 CLIP, 3 COLD, 4 SETTLING, 5 RESTART, 6 CLOCK_GAP, 7 POISONED, 8 CAL_STEP
  cfg : RegFile                -- configuration of its shot
deriving DecidableEq, Repr

/-- The phase chain of a port (R121 – R146). -/
structure ChainSt where
  print : List Nat             -- fusion fingerprint of the state (R139)
  builtN : Nat                 -- N under which the state was last built (R139)
  sinceInit : Nat              -- shots fused since initialisation (R142)
  sinceRestart : Nat
  initShot : Bool              -- the running series began with an initialisation of the port
  queue : List SlotWin         -- slot samples in launch order
  held : Sparse (Option Item)  -- pending samples by gauge position, their marks apart (R133, R137)
  ending : Option Nat          -- the series ends once every shot before this id is fused (R139)
  items : List Item            -- items on their way to the product unit
  fadedNow : Nat               -- faded positions of the slot sample under way
  posReset : List Nat          -- positions whose next sample carries RESTART and POISONED (R139)
  peek : Option Nat            -- a PEEK_POS copy in progress (R147)
  peekBad : Bool               -- the copied state held an uncorrectable word (R147)
deriving DecidableEq, Repr

/-- Filter state of one output position, as its words in the product-state area hold it (R154, R157, R174). -/
structure FltPos where
  box : Int
  boxMarks : Nat                         -- marks of the box under way
  hist : List Int                        -- hist[0] first
  histMarks : List Nat                   -- marks of the boxes behind hist
  bands : List (Int × Int × Int × Int)   -- x1, x2, y1, y2 of each band
  sums : List Nat                        -- sum of each band over the window (R157)
  sumMarks : Nat                         -- marks of the values in the sums
deriving DecidableEq, Repr

/-- A band window that has not closed (R158, R159). -/
structure BandWinSt where
  at_ : Nat                    -- device time of its start
  len : Nat                    -- ns
  k : Nat
  epoch : Nat
  part : Bool                  -- it did not run whole
  from_ : Nat                  -- instant of the earliest contributing sample
  to_ : Nat                    -- and of the last value
deriving DecidableEq, Repr

/-- A position range (R148 – R163). -/
structure RangeSt where
  key : List Nat               -- Enable, Start, Count, Dsp, SpMean, Product, DecLog in force (R176)
  cfg : RegFile                -- configuration of the port that is in force for the range (R176)
  winLen : Nat                 -- BandWin in force
  base : Nat                   -- first byte of its state in the port's product-state area (R174)
  acc : Int                    -- sum over the constituents of the output position under way
  one : List Int               -- its first constituent
  posMarks : Nat               -- its marks
  out : List (List Int)        -- output positions of the set under way, newest first
  marks : List Nat             -- their marks, newest first
  count : Nat                  -- slot samples since range start (R161)
  c : Nat                      -- c of R154
  firVals : Nat                -- values the FIR has received since the restart (R156)
  boxFrom : Nat                -- instant of the first sample of the box under way
  boxAt : List Nat             -- and of the boxes behind hist, newest first
  wins : List BandWinSt        -- oldest first
  fromDev : Nat                -- device time of the start, last restart or last change of BandWin (R159)
  stopDev : Option Nat         -- device time of a stop of the port that no restart has followed (R159)
  issued : Nat                 -- device time of the last window boundary that has fallen (R447)
deriving DecidableEq, Repr

/-- A phase-rate set held by the capture history (R170). -/
structure CapSet where
  time : Nat
  at_ : Nat                    -- first byte in the port's history buffer, counted on round its end
  lens : List Nat              -- bytes of each record
  inst : Nat                   -- instant of its samples
deriving DecidableEq, Repr

/-- The event capture of a port (R170 – R173). -/
structure EvCapSt where
  base : Nat                   -- the history buffer in the capture region, in MiB (R170, R354)
  size : Nat
  head : Nat                   -- bytes written to it
  history : List CapSet        -- oldest first
  from_ : Nat                  -- sets before this device time are not selected
  trig : Nat                   -- t_trig of the first trigger
  cause : Nat
  endAt : Nat                  -- end of the selection, device time
  retrig : Nat
  lost : Nat                   -- selected sets overwritten before readout
  firstT : Option Nat          -- Time of the first selected set
  lastT : Nat
  firstX : Nat                 -- instants of the first and the last selected set
  lastX : Nat
  ending : Nat                 -- End of R173
  waiting : List (Nat × Nat)   -- triggers that came while the sets were read out: t_trig, cause
  done : Option Nat            -- Time of the last set a capture has emitted
  seq : Nat                    -- captures since reset
deriving DecidableEq, Repr

/-- The backscatter trace of one second (R169). -/
structure TraceSec where
  sec : Nat
  dec : Nat
  sums : Sparse (Nat × Nat)    -- per bin: ΣL and count
  n : Nat                      -- gauge positions
  slots : Nat
  first : Nat                  -- Instant of the first and the last fused shot
  last : Nat
  firstX : Nat                 -- their instants
  lastX : Nat
  marks : Nat                  -- marks of the items of the second (R51)
  gap : Bool                   -- a shot between them was not fused
  lastId : Nat                 -- id of the last fused shot
  epoch : Nat
deriving DecidableEq, Repr

/-- The DAS product and fibre-health unit of a port (R148 – R176). -/
structure DasSt where
  prev : Sparse (Option Nat)   -- value with which the last fused sample of a position left the chain (R152)
  ranges : Vector RangeSt 16
  switches : List (Nat × RegFile)  -- switching boundaries whose items are not all in: device time and new configuration (R176)
  levels : List Nat            -- levels of the first slot sample of the running shot, newest first (R165)
  levelMarks : Nat             -- marks of those samples (R51)
  near : Nat
  far : Nat
  nearFrom : Nat               -- Instant of the first counted shot
  farFrom : Nat
  countX : Nat                 -- instant of the first counted shot
  countMarks : Nat             -- marks of the counted shots
  sinceSet : Nat               -- shots since E was set (R166)
  initial : Bool               -- the next tracked shot sets E
  traces : List TraceSec       -- oldest first
  traceLast : Option Nat       -- last second traced
  fused : Option Nat           -- id of the last shot whose items came (R169)
  cap : EvCapSt
deriving DecidableEq, Repr

/-- An entry of a DTS set (R193). -/
structure DtsEntry where
  temp : Int
  flags : Nat
  ln : Int
  stokes : Nat
  alpha : Nat
deriving DecidableEq, Repr

/-- What the visit of a completion pass leaves (R181): an entry of each bin, its temperature before, and whether each had an OVR sample, from the
port and from its secondary. -/
structure PassSums where
  entries : List DtsEntry
  old : List Int
  ovr : List Bool
  ovr2 : List Bool
deriving DecidableEq, Repr

/-- A completion pass (R181): what it took when it started, and what its visit of the bins has given. -/
structure PassSt where
  darkA : Int
  darkS : Int
  dark2A : Int
  dark2S : Int
  seen : Option PassSums         -- none until the bins have been visited
  bins : Nat
  bins2 : Nat
  shots : Nat
  shots2 : Nat
  dual : Bool
  tref : Option Int              -- T_ref, m°C times `trefN`; none when there is none
  trefN : Nat                    -- the divisor that makes it °C
  flags : Nat                    -- flags of the set
  epoch : Nat
  firstT : Nat                   -- Time and LastTime (R193)
  lastT : Nat
  startD : Nat                   -- device time at which the pass started
  prevD : Option Nat             -- start of the port's previous pass (R196)
  cut : Bool                     -- a partial set: LastT of every bin becomes −32,768 (R188)
  watch : Bool                   -- the accumulation ran under a watch plan (R196)
  cfg : RegFile
deriving DecidableEq, Repr

/-- The Raman unit of a port (R177 – R196). -/
structure RamSt where
  stopped : Bool                 -- Raman chain aborted until START (R190)
  shots : Nat                    -- shots included
  darkA : Int
  darkS : Int
  first : Nat                    -- first and last included RTRIG, device time
  last : Nat
  firstX : Nat                   -- their instants
  lastX : Nat
  flags : Nat                    -- flags gathered over the accumulation
  lastTrig : Option Nat          -- crystal instant of the last RTRIG (R185)
  hand : Bool                    -- of a primary: the secondary accumulates (R185)
  passes : List PassSt           -- completion passes not yet done, oldest first
  prevD : Option Nat             -- start of the previous pass (R196)
  refAt : Option Nat             -- instant at which REF_TEMP was last written (R184)
  temps : List Int               -- Temp of each bin of the latest set (R205)
  setAt : Option Nat             -- instant at which the latest set left
deriving DecidableEq, Repr

/-- A fibre port. -/
structure PortSt where
  probe : ProbeSt
  shots : List Shot              -- shots whose windows have not all closed, newest first
  wins : List ToneWin
  rwin : Option RamanWin
  rcut : Option RamanWin         -- the Raman window of an old plan that was cut while it was open (R73, R109)
  fe : FeSt
  chain : ChainSt
  das : DasSt
  ram : RamSt
deriving DecidableEq, Repr


/-! A port after reset -/

/-- The shot timer of a port that does not run. -/
def ProbeSt.rest : ProbeSt :=
  { running := false, hostStopped := false, slot := 0, bounds := [], index := 0, t0 := 0, fresh := true, reopen := true, lostShots := false, launches := [],
    codes := [], gates := [], pgate := false, rtrig := false, rtrigEnd := 0, muted := false, lastEvent := none, waitFrom := none, burstLeft := 0, bandSeen := false, bandHit := false,
    launched := 0 }
/-- The capture engine, idle. -/
def CapSt.rest : CapSt :=
  { ctrl := 0, total := 0, seq := 0, buf := [], bufAt := 0, next := 0, to_ := 0, flags := 0, epoch := 0, rate := 0, gap := false, index := 0, emitted := 0 }
/-- The front end, without power, at the reset trims. -/
def FeSt.rest : FeSt :=
  { refFrom := none, sliceFrom := Vector.replicate 6 none, refWas := none, sliceWas := Vector.replicate 6 none, downAt := none, lastWin := none, fore := Vector.replicate 6 (0, 0x4000),
    trims := [], sums := Vector.replicate 4 ⟨0, 0, 0⟩, sumShot := 0, sumTo := 0, ovrTo := Vector.replicate 4 0, bgNext := none, bounds := [], limited := [],
    calNext := [], calAt := none, calRam := none, spans := [], cfgs := [], cap := CapSt.rest }
/-- The phase chain, without a series. -/
def ChainSt.rest : ChainSt :=
  { print := [], builtN := 0, sinceInit := 0, sinceRestart := 0, initShot := false, queue := [], held := [], ending := none, items := [], fadedNow := 0,
    posReset := [], peek := none, peekBad := false }
/-- A position range that has not started. -/
def RangeSt.rest : RangeSt :=
  { key := [], cfg := [], winLen := 0, base := 0, acc := 0, one := [], posMarks := 0, out := [], marks := [], count := 0, c := 0, firVals := 0, boxFrom := 0,
    boxAt := [], wins := [], fromDev := 0, stopDev := none, issued := 0 }
/-- The event capture, idle. -/
def EvCapSt.rest : EvCapSt :=
  { base := 0, size := 0, head := 0, history := [], from_ := 0, trig := 0, cause := 0, endAt := 0, retrig := 0, lost := 0, firstT := none, lastT := 0, firstX := 0, lastX := 0, ending := 0, waiting := [],
    done := none, seq := 0 }
/-- The product unit. -/
def DasSt.rest : DasSt :=
  { prev := [], ranges := Vector.replicate 16 RangeSt.rest, switches := [], levels := [], levelMarks := 0, near := 0, far := 0, nearFrom := 0, farFrom := 0, countX := 0, countMarks := 0, sinceSet := 0, initial := true,
    traces := [], traceLast := none, fused := none, cap := EvCapSt.rest }
/-- The Raman unit, with nothing accumulated. -/
def RamSt.rest : RamSt :=
  { stopped := false, shots := 0, darkA := 0, darkS := 0, first := 0, last := 0, firstX := 0, lastX := 0, flags := 0, lastTrig := none, hand := false, passes := [], prevD := none,
    refAt := none, temps := [], setAt := none }
/-- A fibre port. -/
def PortSt.rest : PortSt :=
  { probe := ProbeSt.rest, shots := [], wins := [], rwin := none, rcut := none, fe := FeSt.rest, chain := ChainSt.rest, das := DasSt.rest, ram := RamSt.rest }

end Sys2Proof.Machine
end

