-- ==== Sys2Proof/Machine/StateLidar.lean ====
section
/-! DEFINITION. The state of the free-space road that no register shows: timing lanes, regression channels, scan ports,
emitter ports, line-scan controller, points and their histograms, and the calibration of lanes and ports (R208 – R295,
R516 – R526). Instants named xu are on the crystal count in units of 1/128 ns; other instants are in ns on it. -/
namespace Sys2Proof.Machine

/-- A calibration item of a unit (R517). -/
structure CalSt where
  due : Bool                   -- fallen due and not yet applied
  since : Nat                  -- when it fell due
  running : Bool               -- its pass runs
  at_ : Option Nat             -- the last applied calibration
  temp : Int                   -- die temperature then, LSB 1/64 °C
  retry : Option Nat           -- when it falls due again after a failure (R519)
  cmd : Bool                   -- due by the host's command
deriving DecidableEq, Repr

/-- A calibration pass of a port's coherent or Raman slices (R516, R521, R522). -/
structure PassCal where
  item : CalSt
  slices : Nat                 -- slices whose steps have begun
  from_ : Nat                  -- when the pass began
  stepEnd : Nat                -- end of the latest step
  stepShot : Option Nat        -- launch count of the shot whose gap the latest step took
  forced : Bool                -- it runs by interruption from the next shot boundary
  waited : Bool                -- it has found no gap under the plan in force: it waits for a switching boundary
deriving DecidableEq, Repr

/-- The calibration of a fibre port. -/
structure PortCal where
  coh : PassCal
  ram : PassCal
deriving DecidableEq, Repr

/-- A timing lane (R208 – R222). -/
structure LaneSt where
  level : Int                  -- input above its reference, µV
  hold : Option Nat            -- xu from which the hold-off runs (R211, R222)
  edges : List Nat             -- accepted edges of the last 2,048 ns, xu, newest first (R220)
  blind : Option (Nat × Nat)   -- the latest blind interval, xu (R222)
  inject : List Nat            -- injected test pulses to come, xu (R527)
  stepAt : Option Nat          -- xu of the last step of its bin-width table
  table : List Nat             -- bin-width table: tap widths, LSB 1/256 of an LSB; empty before the first (R213)
  ready : Option (List Nat)    -- a new table that waits to load (R525)
  readyAt : Nat                -- since when
  loadAt : Option Nat          -- xu of the frame boundary at which it takes effect (R516, R525)
  trim : Option (Nat × Nat × Int) -- a threshold trim that runs: start and end, xu, and the trim found (R526)
  count : Nat                  -- edges collected (R524)
  countFrom : Nat              -- since when
  pulse : Option Nat           -- internal test pulses run in this blanking, since this xu (R524)
  inner : Bool                 -- automatic source has switched to internal pulses (R524)
  stepped : Nat                -- blanking in which it last took a Roaster step (R525)
  tdc : CalSt
  thr : CalSt
deriving DecidableEq, Repr

/-- A regression channel (R224 – R227). -/
structure RegChan where
  gate : List (Nat × Nat)      -- indexed edges, newest first: index, instant in 1/128 ns of the channel's timescale
  dups : Nat                   -- duplicates since the last full gate
  fits : List (List (Nat × Nat) × Nat)  -- full gates that wait for their fit, oldest first, with their duplicates
  fitted : Bool                -- a valid fit has been made: REG_PERIOD holds P̂
  since : Nat                  -- instant of the last edge, or of the start
deriving DecidableEq, Repr

/-- A scan line: its half-period or period, and what its instants are computed from (R228 – R231). -/
structure ScanLine where
  no : Nat                     -- lines since LOCKED
  start : Nat                  -- xu
  q : Int                      -- resonant: half-period from that of ψ = 0; linear: period from T_k
  tk : Int                     -- T_k, LSB 2^-24 ns of the lane timescale
  p24 : Nat                    -- P̂, LSB 2^-24 ns
  linear : Bool
  amp : Nat
  phase : Nat
  drv : Nat                    -- DrvPhase
  steps : Nat
  ua : Nat
  ub : Nat
deriving DecidableEq, Repr

/-- A scan port (R228 – R233). -/
structure ScanSt where
  good : Nat                   -- consecutive results within the lock limits
  bad : Nat                    -- consecutive valid results with jitter above JitLimit
  tk : Int                     -- T_k of the latest valid fit, LSB 2^-24 ns of the lane timescale
  p24 : Nat                    -- its P̂; 0 before the first
  lastSync : Option Nat        -- xu of the last accepted sync edge
  lines : Nat                  -- lines begun since LOCKED
  next : Option ScanLine       -- the line whose instants are computed and that has not begun
  cur : Option ScanLine        -- the line in progress
  sdrv : Bool                  -- level of SDRV
  drvAt : Option Int           -- its next edge, LSB 2^-24 ns of the lane timescale
  drvRise : Int                -- its last rising edge
  drvP : Nat                   -- its present period, LSB 2^-24 ns
  drvSpan : Nat                -- its period in progress, with what of a phase change falls into it
  lockP : Nat                  -- last P̂ of LOCKED, LSB 2^-24 ns; 0 before the first lock (R233)
deriving DecidableEq, Repr

/-- A line that an emitter port fires, or a diagnostic firing (R252, R265, R266). -/
structure ELine where
  tL : Nat                     -- xu
  pre : Nat                    -- step 1, xu
  fall : Nat                   -- step 2, xu
  fires : List Nat             -- planned fire instants still to come, xu
  off : Option Nat             -- step 4 of the shot in progress, xu
  width : Nat                  -- FireWidth, 1/128 ns
  byp : Nat                    -- BYP pattern
  shot : Nat                   -- index s of the next shot
  point : Option Nat           -- PointSeq of its point; none for a diagnostic firing
  diag : Option (Bool × Nat)   -- isolation or low-duty, and its segment
  begun : Bool                 -- step 1 has passed
deriving DecidableEq, Repr

/-- A shot whose start search or acceptance windows run (R216 – R220). -/
structure EShot where
  n : Nat                      -- n_e
  tp : Nat                     -- planned fire instant, xu
  s : Nat                      -- index in its line
  point : Option Nat
  diag : Option (Bool × Nat)
  st : Option Nat              -- measured start, 1/128 ns
  searched : Bool              -- its start search is over
  stops : List (Nat × Nat)     -- lane and stamp of stops that wait for the start, oldest first
deriving DecidableEq, Repr

/-- A lane's part of a point: its bank (R272 – R277). -/
structure LanePt where
  lane : Nat
  bank : Nat
  coarse : Sparse Nat          -- counts by 2,048 × copy + bin
  zoom : Sparse Nat            -- counts by 64 × (2 × window + copy) + bin
  wins : List Int              -- z_s of the zoom windows
  queue : List (Nat × Int)     -- holding queue: copy and interval of phase-2 stops, oldest first
  pre : List (Nat × Nat)       -- shot s and its pre-fire count
  searched : Bool              -- the candidate search has run
  blind : Bool
  loss : Bool
  step : Bool                  -- its bin-width table stepped while a shot was in flight
  poison : Bool
deriving DecidableEq, Repr

/-- A point (R255, R271). -/
structure PointSt where
  seq : Nat
  line : Nat
  pass : Nat
  angle : Nat
  mask : Nat                   -- in-circuit mask after forced bypasses
  n : Nat                      -- shots
  tL : Nat                     -- xu
  dev : Nat                    -- t_L in device time
  frame : Nat
  shot0 : Nat                  -- n_e of shot 0
  shots : List (Nat × Nat)     -- shot s fired and its t_p, xu, oldest first
  exposure : Bool
  supply : Bool
  noBank : List Nat            -- lanes that belong but found no bank
  lanes : List LanePt
  epoch : Nat
  cfg : RegFile
deriving DecidableEq, Repr

/-- An emitter port (R238 – R268). -/
structure EPort where
  stopped : Bool               -- STOPPED by the host (R267)
  tested : Bool                -- the walking-pattern test has run since start-up, and since START
  byp : Nat                    -- BYP[15:0]
  pchg : Bool
  fire : Bool
  statWas : Bool               -- STAT active at its last sample
  busy : Nat                   -- step 5 of its latest line, xu
  lastFire : Option Nat        -- its latest planned fire instant, xu
  line : Option ELine
  diags : List ELine           -- diagnostic firings still to come, oldest first
  shots : List EShot           -- oldest first
  points : List PointSt        -- oldest first
  expo : Sparse Nat            -- exposure: firings by 16 × millisecond of device time + segment (R257)
  lastIn : Vector Nat 16       -- instant of each segment's last in-circuit firing
  isoRuns : Nat                -- isolation sequences that gave more than one start
  isoGot : List Nat            -- firings of the running sequence that produced a start
  isoCut : Bool                -- the running sequence was cut short and gives no result (R261)
  back : Bool                  -- it resumes at the next frame sync after a segment was declared open (R265, R266)
  isoIn : Nat                  -- blanking in which the last sequence began (R265)
  low : Vector Nat 16          -- consecutive misses of each segment's low-duty firings
  lowIn : Vector Nat 16        -- blanking of each segment's last low-duty firing
  lateEpoch : Option Nat       -- epoch in which LINE_LATE was raised
  expEpoch : List (Nat × Nat)  -- segment and epoch in which EXPOSURE_LIMIT was raised
deriving DecidableEq, Repr

/-- The line-scan controller and what the lidar blocks share. -/
structure EmtSt where
  stopped : Bool               -- lidar engine STOPPED by the host (R292)
  pc : Nat                     -- next line
  loops : Sparse Nat           -- pass counters by LoopEnd line
  tL : Nat                     -- line instant of the previous executed line, xu
  first : Bool                 -- no line of the frame has been executed
  advanced : Bool              -- the next line's NextLine has been taken
  syncAt : Nat                 -- latest frame sync, xu
  resolved : Nat               -- xu from which t_L of the next line is known
  scan : List ScanLine         -- current scan line and those begun after it (R250)
  blankFrom : Nat              -- start of the blanking, xu
  blankNo : Nat                -- frames ended since reset
  syncs : List Nat             -- frame syncs to come from a scan port or SYNC_IN, xu
  syncLast : Option Nat        -- count of the last frame sync of FrameSrc 2 (R447)
  supplyHold : Bool            -- firing waits for a frame sync after a supply warning (R261)
  overEpoch : Option Nat       -- epoch in which FRAME_OVERRUN was raised
  walkAt : Nat                 -- last walking-pattern test
  walkNo : Nat                 -- blanking in which it ran (R262)
  walkStale : Bool             -- SHORT_TEST_STALE raised since
  validFrom : Option Nat       -- validation of the idle bank runs since
  credit : Nat                 -- of R285
  creditAt : Nat               -- its last refill, units of 10 ns
  clockHold : Bool             -- firing waits for a frame sync after a loss of PLL-D (R268)
  del : List (Nat × Nat)       -- HIST cycles with deliveries, and their number, newest first (R221)
  dumps : Nat                  -- points to which the dumped lane contributed (R289)
deriving DecidableEq, Repr

/-- The free-space road. -/
structure LidarSt where
  lanes : Sparse LaneSt
  chans : Vector RegChan 16
  scans : Vector ScanSt 2
  ports : Vector EPort 8
  ctl : EmtSt
deriving DecidableEq, Repr

/-- A calibration item that has never been applied. -/
def CalSt.fresh : CalSt := ⟨false, 0, false, Option.none, 0, Option.none, false⟩
/-- A fibre port's calibration after reset. -/
def PortCal.rest : PortCal := ⟨⟨CalSt.fresh, 0, 0, 0, none, false, false⟩, ⟨CalSt.fresh, 0, 0, 0, none, false, false⟩⟩
/-- A timing lane after reset. -/
def LaneSt.rest : LaneSt :=
  ⟨0, none, [], none, [], none, [], none, 0, none, none, 0, 0, none, false, 0, CalSt.fresh, CalSt.fresh⟩
/-- A regression channel after reset. -/
def RegChan.rest : RegChan := ⟨[], 0, [], false, 0⟩
/-- A scan port after reset. -/
def ScanSt.rest : ScanSt := ⟨0, 0, 0, 0, none, 0, none, none, false, none, 0, 0, 0, 0⟩
/-- An emitter port after reset: pins idle (R241). -/
def EPort.rest : EPort :=
  ⟨false, false, 0xFFFF, false, false, false, 0, none, none, [], [], [], [], Vector.replicate 16 0, 0, [], false, false, 0,
    Vector.replicate 16 0, Vector.replicate 16 0, none, []⟩
/-- The line-scan controller after reset. -/
def EmtSt.rest : EmtSt :=
  ⟨false, 0, [], 0, true, false, 0, 0, [], 0, 1, [], none, false, none, 0, 0, false, none, 1000, 0, false, [], 0⟩
/-- The free-space road after reset. -/
def LidarSt.rest : LidarSt :=
  ⟨[], Vector.replicate 16 RegChan.rest, Vector.replicate 2 ScanSt.rest, Vector.replicate 8 EPort.rest, EmtSt.rest⟩

end Sys2Proof.Machine
end

