-- ==== Sys2Proof/Machine/StateMem.lean ====
section
/-! DEFINITION. The state of the memories that no register shows (R338 – R375). Instants are on the crystal count, ns. -/
namespace Sys2Proof.Machine

/-- A row copy in progress (R358): the remap entry, the bursts already copied, and the command that waits for it. -/
structure RowCopy where
  entry : Nat
  bursts : Nat
  path : Nat
  tag : Byte
  addr : Word
deriving DecidableEq, Repr

/-- A DRAM channel (R363 – R375). -/
structure ChanSt where
  refreshAt : Nat        -- instant of the last refresh that fell due
  mr4At : Nat            -- instant of the last MR4 poll
  rate : Nat             -- refresh rate in force: 0 normal, 1 doubled, 2 quadrupled
  lastRate : Nat         -- rate reported by the previous poll
  oscAt : Nat            -- instant of the last oscillator read
  ceSec : Nat            -- second to which the two counts below belong
  ceCount : Nat          -- CORRECTED reads in it (R368)
  wcrcCount : Nat        -- write-CRC errors in it (R368)
  retrainAt : Nat        -- instant at which the running retrain attempt began
  stepAt : Nat           -- instant of its last step
  copy : Option RowCopy
  patrol : Nat           -- words the running patrol pass has read
  exitAt : Option Nat    -- instant at which the exit from self-refresh began
deriving DecidableEq, Repr

/-- An error response of a read whose requester has not yet used the data: requester code, location, data as read (R360). -/
structure Answer where
  req : Nat
  loc : Nat
  data : Nat
deriving DecidableEq, Repr

/-- The memories. -/
structure MemSt where
  words : Sparse (BitVec 80)         -- stored words by location (R339)
  answers : List Answer              -- error responses not yet used, oldest first (R360)
  lost : Nat                         -- 0, or n + 1 after loss n of the DRAM's contents, whose words are then open (R370)
  chans : Vector ChanSt 2
  firsts : Vector (Vector Nat 32) 3  -- instant of the first correction of each repeat-table entry: channels 0, 1, SRAM
  patrolSram : Nat                   -- words the running SRAM patrol pass has read
deriving DecidableEq, Repr


/-- A DRAM channel that is not trained. -/
def ChanSt.rest : ChanSt :=
  { refreshAt := 0, mr4At := 0, rate := 0, lastRate := 0, oscAt := 0, ceSec := 0, ceCount := 0, wcrcCount := 0, retrainAt := 0, stepAt := 0, copy := none,
    patrol := 0, exitAt := none }
/-- The memories after the fills of start-up (R345, R366). -/
def MemSt.rest : MemSt :=
  { words := [], answers := [], lost := 0, chans := Vector.replicate 2 ChanSt.rest, firsts := Vector.replicate 3 (Vector.replicate 32 0), patrolSram := 0 }

end Sys2Proof.Machine
end

