-- ==== Sys2Proof/Machine/StateSys.lean ====
section
/-! DEFINITION. The state of the system blocks that no register shows: time base, loops, power, epochs, host paths,
rings, links, alarms, Crema, configuration image. Registers stand in the register file (RegFile.lean). Instants on the
crystal count (R440) are in ns: 25 ns for each of its ticks; device times are in ns of device time (R438). -/
namespace Sys2Proof.Machine

/-- A step decided under R446 that waits for its whole second W. -/
structure PendingStep where
  w : Nat
  eps48 : Int
  cause : Nat
deriving DecidableEq, Repr

/-- The time base (R438 – R450). Binary64 values are held as their bits. -/
structure TimeSt where
  ticks : Nat                     -- crystal ticks since power-on reset
  lam48 : Nat                     -- Λ, LSB 2^-48 ns (R439)
  sig48 : Int                     -- σ, LSB 2^-48 ns (R439)
  slewRate : Int                  -- change of σ at each tick (R445)
  slewLeft : Int                  -- change of σ still to come (R445)
  corr : Nat                      -- c, binary64 (R443)
  ppsLast : Option Nat            -- Λ of the last accepted PPS edge, LSB 2^-48 ns (R442)
  ppsRun : Nat                    -- edges of the qualification run (R442)
  ppsQual : Bool                  -- PPS_IN qualified (R442)
  refSince : Option Nat           -- crystal instant since which channel 2 has given valid results (R442)
  refQual : Bool                  -- REF10M qualified (R442)
  armed : Option (Nat × Nat)      -- label S and the instant its arm completed (R444)
  second : Option (Nat × Nat)     -- S of the last accepted edge once a label rules it, and Λ of that edge, LSB 2^-48 ns (R444)
  pendStep : Option PendingStep   -- a step that waits for its W (R446)
  steps : List Nat                -- crystal instants of the steps, newest first (R51, R446)
  lowFrom : Option Nat            -- crystal instant since which records carry TIME_HOLDOVER (R441)
  lowSpans : List (Nat × Nat)     -- stretches of the crystal count in which they did, newest first (R51, R441)
  sigLog : List (Nat × Int × Int) -- newest first: tick from which, σ then, and its change at each tick (R214, R439)
  holdCorr : Nat                  -- c_hold, binary64 (R448)
  holdLam : Nat                   -- Λ at t_h, LSB 2^-48 ns (R448)
  refFrom : Option Nat            -- crystal instant of the last entry to DISCIPLINED or SYNTONISED (R448)
  corrLog : List (Nat × Nat)      -- newest first: instant from which a value of c has held, and the value (R448, R449)
  dayFrom : Option (Nat × Nat)    -- device time and crystal instant at which the running daily mean began (R449)
  means : List (Nat × Nat)        -- daily means, newest first, at most 30: device time of the start, mean of c (R449)
  ppsOut : Bool                   -- level of PPS_OUT (R452)
  ppsOutSec : Option Nat          -- last second whose PPS_OUT boundary was issued (R447)
  syncEnd : Nat                   -- crystal instant at which the SYNC_OUT pulse ends
  syncLast : Option Nat           -- count of the last SYNC_OUT period boundary issued (R447, R453)
  recLast : Option Nat            -- last TimeRecSec multiple whose 0x0903 was emitted (R455)
  rejected : List (Nat × Nat)     -- seconds of device time with rejected PPS edges, and their number, oldest first (R442)
  disciplinedOnce : Bool          -- a DISCIPLINED state has been reached since power-on (cause of R455)
deriving DecidableEq, Repr

/-- A loop: PLL-A to PLL-E and CLKIN (R429, R437). -/
structure LoopSt where
  running : Bool       -- started and not stopped
  acqFrom : Nat        -- crystal instant at which the running acquisition began (R432)
  fails : Nat          -- consecutive failed acquisitions (R432)
  acqs : Nat           -- acquisitions since the loop was started or lost (R456, Arg1 of LOOP_RELOCKED)
  ran : Bool           -- locked at least once since reset, so that its blocks have run (R554)
  lostAt : Option Nat        -- crystal instant of a loss that no relock has ended, for CLOCK_GAP (R433)
  gaps : List (Nat × Nat)    -- crystal instants of the losses and of the relocks that ended them, newest first (R433)
  lost : Bool                -- declared lost and not locked since
  phase : Int                -- CLKIN: phase against the FED grid at lock, ps (R437)
deriving DecidableEq, Repr

/-- The oscillators (R426 – R428). -/
structure XtalSt where
  running : Bool       -- the crystal counts as running (R428)
  s1From : Nat         -- AON instant, ns, at which S1 began
  aonPeriod : Nat      -- measured AON period, ps (R427)
  aonAt : Option Nat   -- crystal instant of the last measurement (R427)
  aonNow : Nat         -- ns counted on AON since power-on
deriving DecidableEq, Repr

/-- The JTAG port (R535). -/
structure JtagSt where
  instr : JtagInstr              -- the current instruction
  latch : Sparse Bool            -- levels that a scan has put into the boundary register, by cell; an unlisted cell has its level at power-on
  tdo : List Bool                -- bits that the latest scan gave on TDO, first to last
deriving DecidableEq, Repr

/-- A rail that has fallen below its warning level and for which no SUPPLY_OK has been raised since (R486, R487). -/
structure RailSt where
  rail : Nat
  from_ : Nat                    -- crystal instant of the fall
  lowest : Nat                   -- lowest level, 0.1 % of nominal below nominal
  above : Option Nat             -- crystal instant since which it is above the warning level again, by the hysteresis
deriving DecidableEq, Repr

/-- Power, resets and supply (R458 – R489). -/
structure PowerSt where
  rstPin : Bool                  -- RESET_N held low
  jtagHold : Bool                -- an EXTEST instruction holds the device in reset (R535)
  jtag : JtagSt
  railHold : Bool                -- held in reset until the rails are back (R487)
  tempHold : Bool                -- held in reset until the junction has cooled (R485)
  off : Bool                     -- OFF: VDD_AON is below its reset level (R474, R541)
  stages : Nat                   -- bit k = stage S(k) completed (R458)
  begun : Nat                    -- bit k = stage S(k) begun
  s6From : Nat                   -- instant at which S6 began (R458)
  s9From : Nat                   -- instant at which the start-up pass began (R518, R519)
  released : Bool                -- every consumer has been released (R459)
  lastReset : Nat                -- cause code of the reset whose start-up is running (R481)
  trans : Option (Nat × Nat)     -- a transition in progress: from and to, PWR_STATE codes (R475)
  transFrom : Nat                -- its start
  settled : Bool                 -- step 2 of R476 is done
  marked : List Nat              -- functions marked for restart (R476)
  sentinelAt : Nat               -- t_e of R81
  leftAt : Nat                   -- t_x of R477
  suspFrom : Nat                 -- AON instant of entry to SUSPEND
  quietFrom : Nat                -- instant of entry to QUIESCENT or SUSPEND (R476)
  saved : Option Nat             -- the stores were saved to DRAM at entry to SUSPEND: the number of DRAM losses then (R336, R478)
  wakeLatch : Bool               -- a wake arrived while SUSPEND was being entered (R478)
  softKey : Bool                 -- RESET_CTRL.Key was written; the reset is timed from the write's response (R481)
  softResetAt : Option Nat       -- instant at which a host soft reset begins (R481)
  wdogFrom : Nat                 -- last restart of the system watchdog (R484)
  wdogWarned : Bool              -- WDOG_WARN raised since then
  rails : List RailSt            -- rails below warning, or not yet back for 1 ms (R487)
  warnSpans : List (Nat × Nat)   -- crystal instants between which a rail was below warning, newest first (R51, R487)
  hot : Bool                     -- DIE_TEMP above TjWarn (R485)
  burst : Nat                    -- number of the next sentinel burst (R81)
  bandRun : Nat                  -- consecutive bursts above WakeThr (R85)
  phase : Nat                    -- of a sentinel burst: 0 none, 1 lead, 2 running, 3 skipped (R82, R83)
  wakeAt : Option Nat            -- t_w of a sentinel wake in progress (R86)
  setBy : List (Nat × Byte)      -- the SET_STATE that began the transition: path and tag
deriving DecidableEq, Repr

/-- An accepted commit that waits for its T_c (R35). -/
structure Sched where
  tc : Nat
  num : Nat
  changes : Sparse Word
deriving DecidableEq, Repr

/-- An epoch whose T_c has come and that some function has not yet taken (R37, R558). -/
structure EpochRec where
  num : Nat
  tc : Nat
  cause : Nat             -- Cause of the 0x0901 record (R455)
  changes : Sparse Word
  waiting : List Nat      -- functions that have not yet switched
  lastSwitch : Nat
  at_ : Nat               -- crystal instant of T_c
deriving DecidableEq, Repr

/-- The epoch banks (R35 – R44). -/
structure EpochSt where
  pend : Sparse Word          -- pending bank: staged class C words
  sched : Option Sched        -- scheduled bank
  queue : List EpochRec       -- epochs not yet taken by every running function, oldest first
  stores : List Nat           -- cores whose instruction memory was written since the last commit (R338)
deriving DecidableEq, Repr

/-- The source of a command datagram: MAC, IP address and UDP port (R392). -/
structure Peer where
  mac : List Byte
  ip : List Byte
  port : Nat
deriving DecidableEq, Repr

/-- A host response (R495). -/
structure Resp where
  status : Nat
  tag : Byte
  code : Nat
  addr : Word
  data : Word
  detail : Nat
  xflags : Nat
  peer : Option Peer     -- destination of a response on a link's path (R392)
  time : Nat             -- device time and crystal instant of completion (R500)
  at_ : Nat
deriving DecidableEq, Repr

/-- A transaction received on a path and not yet taken by the command engine (R503). -/
structure Req where
  path : Nat
  code : Nat
  tag : Byte
  addr : Word
  data : Word
  peer : Option Peer     -- source of the command on a link's path
deriving DecidableEq, Repr

/-- A command accepted and not yet answered (R504). -/
structure Outst where
  tag : Byte
  code : Nat
  addr : Word
  data : Word
  since : Nat         -- crystal instant of acceptance
  peer : Option Peer
  no : Nat            -- its place in the order of acceptance (R503)
deriving DecidableEq, Repr

/-- A path (R491). -/
structure PathSt where
  out : List Outst                        -- outstanding commands (R504)
  last : Option Resp                      -- last delivered response (R496)
  buf : Sparse Word                       -- host buffer, by word index (R506)
  rdShadow : Option (Nat × Word)          -- read shadow: address of the high half and its value (R510)
  fracShadow : Option Word                -- TIME_FRAC latched by a read of TIME_NOW_LO (R457)
  wrShadow : Option (Nat × Word)          -- write shadow: address of the low half and its value (R511)
  regLatch : List (Nat × List Word)       -- regression results latched per channel (R237)
  peer : Option Peer                      -- source of the command taken last on the link (R392)
deriving DecidableEq, Repr

/-- A snapshot: t_s and every register word at t_s (R46). -/
structure Snap where
  time : Nat
  words : RegFile
  hist : List (Nat × Word)
deriving DecidableEq, Repr

/-- A flash, fuse or image command that runs (R503, R508, R509). -/
structure Running where
  path : Nat
  tag : Byte
  code : Nat
  addr : Nat
  len : Nat
  since : Nat
  data : List Byte       -- bytes to program or burn, as they stood at acceptance
deriving DecidableEq, Repr

/-- The host interface (R491 – R515). -/
structure HostSt where
  paths : Vector PathSt 9
  respQ : List Resp                   -- responses waiting on MGMT, oldest first, at most 16 (R497)
  miso : List Byte                    -- the response frame of the last transaction on MGMT (R495)
  inQ : List Req                      -- transactions received and not yet executed, oldest first
  mgmtLast : Bool                     -- the transaction taken last came from MGMT (R503)
  accepted : Nat                      -- commands accepted (R503)
  snap : Option Snap                  -- the most recent completed snapshot (R46)
  fuses : RegFile                     -- FUSE_STATUS and FUSE_KEYHASH as the last reset read them (R15)
  snapRun : Option Snap               -- a snapshot whose copy runs
  snapBy : List (Nat × Byte)          -- SNAPSHOT commands answered when the copy completes: path, tag
  rshWait : List Req                  -- RSH reads that wait for the copy (R46)
  gateWait : List (Req × Nat)         -- accesses that wait, oldest first, with their acceptance (R298, R345, R503)
  flashRun : Option Running
  fuseRun : Option Running
  respPeers : List (Nat × Option Peer) -- destinations of the records of ring 11 by record sequence (R392)
  respWait : List (Nat × Resp × Bool) -- responses that wait for room on their path; whether an outstanding command ends (R31, R504)
deriving DecidableEq, Repr

/-- A record that has left its ring's body or head: sequence, bytes, and the instant of its offer to the head (R383). -/
structure Rec where
  seq : Nat
  bytes : List Byte
  at_ : Nat
deriving DecidableEq, Repr

/-- A record in a ring's head or body (R376): its sequence, where its bytes lie, and the instant of its offer to the head (R383). -/
structure Slot where
  seq : Nat              -- counted on past 2^32, so that a gap of any size is seen (R47)
  off : Nat              -- first byte, within the head's SRAM or the body
  len : Nat              -- bytes
  at_ : Nat
deriving DecidableEq, Repr

/-- A numbered datagram (R47, R387, R422). -/
structure Dgram where
  ring : Nat
  seq : Nat
  pre : List Byte        -- header offsets 12 to 17: FirstRecordSeq and RecordCount, or SegOffset and FirstHeader (R422)
  lost : Nat             -- header offset 20 (R47, R422)
  flags : Nat
  body : List Byte       -- payload after the header
  recs : List Nat        -- sequences of the records it carries
  first : Nat            -- offer of its first record (R383)
  peer : Option Peer     -- destination of a host response (R392)
  block : Nat            -- number of the last Crema block with a byte in it (R417)
deriving DecidableEq, Repr

/-- A Crema block in an engine's output (R403, R421). -/
structure Block where
  recs : List Rec        -- its records
  stream : Nat           -- StreamId (R404)
  seq : Nat              -- BlockSeq (R404)
  pf : Nat               -- PfMode
  fresh : Bool           -- HISTORY_CONTINUES = 0 (R417)
  fallback : Bool        -- VERIFY_FALLBACK (R419)
  opens : Bool           -- its first byte is the first of its generation (R422)
  hist : List Byte       -- the history it starts with, newest first, and the last distance (R411)
  last : Option Nat
  lastOut : Option Nat   -- the last distance it leaves
  bytes : List Byte      -- header, payload and trailer (R403)
  wrote : Nat            -- bytes of it that the output buffer holds or has held (R420)
  sent : Nat             -- bytes already packed into datagrams
  checked : Bool         -- its self-verification has completed, or it needs none (R418)
  engine : Nat
  lost : Nat             -- records lost before the engine that its records follow (R385, R422)
  number : Nat           -- count of the ring's blocks before it, for discards (R417)
deriving DecidableEq, Repr

/-- The Crema stream of a ring (R403 – R424). -/
structure StreamSt where
  open_ : List Rec              -- records of the block in progress
  openAt : Nat                  -- instant the first of them entered the engine
  blocks : List Block           -- closed blocks, oldest first
  started : Bool                -- a generation has begun since reset (R406)
  history : List Byte           -- filtered content kept, newest first (R411)
  lastDist : Option Nat         -- last distance (R411)
  offset : Nat                  -- stream offset of the next byte to be packed (R422)
  opens : Bool                  -- the next block is the first of its generation (R406)
  lostIn : Nat                  -- records lost before the engine that no closed block follows yet (R385, R422)
  reset : Bool                  -- the next block has HISTORY_CONTINUES = 0 (R417)
  pfMode : Nat                  -- PfMode of the last block
  counted : List Nat            -- records of blocks already counted lost by a discarded datagram (R423)
  blockNo : Nat                 -- blocks closed since reset
deriving DecidableEq, Repr

/-- A ring (R376 – R389). -/
structure RingSt where
  head : List Slot
  body : List Slot
  headAt : Nat                 -- where the next record's bytes go in the head
  bodyAt : Nat                 -- and in the body
  wraps : Nat                  -- times the record sequence has wrapped
  asm : List Slot               -- datagram under assembly
  asmAt : Nat                  -- instant its first record was packed
  next : Nat                   -- record sequence that follows the last record numbered in a datagram (R47) or taken by the engine (R422)
  start : Bool                 -- the next datagram carries RING_START
  raised : Bool                -- RING_HIGH raised in this epoch (R398)
  moved : List (Nat × Dgram)   -- moved datagrams that wait for room: target link, datagram (R394)
  stream : StreamSt
deriving DecidableEq, Repr

/-- A link (R388 – R394, R489, R559). -/
structure LinkSt where
  queue : List Dgram
  tx : Option (Dgram × List Byte)   -- the frame in transmission
  lock : Bool                       -- PCS and RS-FEC lock
  rxLock : Bool                     -- receive path without local fault (R392)
  stopped : Bool                    -- after ABORT until START (R489)
  stalled : Bool
  pauseEnd : Option Nat             -- end of the pause (R393)
  pauseNew : Option Nat             -- quanta of a pause that starts when the frame in progress ends
  heldFrom : Option Nat             -- instant from which the link has been held (R393)
  ableFrom : Option Nat             -- instant from which a stalled link has been able to begin frames
  deficit : Vector Nat 16           -- deficit round robin (R389)
  drrNext : Nat
  partnerCut : Nat                  -- frames cut by DOWN
  prbsSync : Bool                   -- the PRBS31 checker is synchronised (R529)
deriving DecidableEq, Repr

/-- A code tracked in an alarm window (R399). -/
structure Track where
  code : Nat
  count : Nat
  coalesced : Nat
  first : Nat
  last : Nat
  a0 : Nat
  a1 : Nat
  sev : Nat
deriving DecidableEq, Repr

/-- An alarm occurrence (R401). -/
structure Occ where
  code : Nat
  sev : Nat
  a0 : Nat
  a1 : Nat
  time : Nat
  flags : Nat
deriving DecidableEq, Repr

/-- The alarm unit (R397 – R401, R560). -/
structure AlarmSt where
  window : Nat                          -- device second of the running window
  windowAt : Nat                        -- crystal instant at which it opened
  tracks : List Track
  indiv : Nat                           -- individual records produced in the window
  untracked : List (Nat × Nat)          -- occurrences of codes beyond the 512 tracked: code, time
  sums : List (Nat × List Byte)         -- summaries that wait: window, record
  held : List Occ                       -- occurrences held until release (R560)
  log : List Occ                        -- retention log, newest first, at most 64 (R401)
  logHead : Nat                         -- index of its newest entry
  logCount : Nat
deriving DecidableEq, Repr

/-- A Crema engine (R414 – R424). -/
structure EngSt where
  ring : Nat           -- ring of the current or latest block
  stopped : Bool       -- aborted until START (R424)
  stalled : Bool       -- output buffer full (R420)
deriving DecidableEq, Repr

/-- The configuration image and the flash (R462 – R473, R507). -/
structure ImageSt where
  flash : Sparse Byte        -- serial flash; an unlisted byte is erased
  flashSize : Nat            -- its size in bytes (SFDP)
  staged : List Byte         -- staging store of LOAD_IMAGE (R507)
  stageLen : Nat             -- ImageLen read from it, 0 before that
  validating : Bool          -- a staged image is being validated
  fromHost : Bool            -- the running or found image was loaded by the host
  prevFlash : Bool           -- the latest load was from flash (R483)
  retireHost : List (Nat × Word)  -- remap entries of RETIRE_ROW kept through a reset (R482)
  keyHash : List Byte        -- the key-hash fuse, empty while blank (R468, R469)
deriving DecidableEq, Repr


/-! After power-on reset -/

/-- The time base: device time 0, no correction (R438, R448). -/
def TimeSt.rest : TimeSt :=
  { ticks := 0, lam48 := 0, sig48 := 0, slewRate := 0, slewLeft := 0, corr := 0, ppsLast := none, ppsRun := 0, ppsQual := false, refSince := none,
    refQual := false, armed := none, second := none, pendStep := none, steps := [], lowFrom := some 0, lowSpans := [], sigLog := [],
    holdCorr := 0, holdLam := 0, refFrom := none, corrLog := [],
    dayFrom := none, means := [], ppsOut := false, ppsOutSec := none, syncEnd := 0, syncLast := none, recLast := none, rejected := [],
    disciplinedOnce := false }
/-- A loop that is stopped. -/
def LoopSt.rest : LoopSt :=
  { running := false, acqFrom := 0, fails := 0, acqs := 0, ran := false, lostAt := none, gaps := [], lost := false, phase := 0 }
/-- The oscillators: the crystal does not count as running; the AON period is nominal (R427). -/
def XtalSt.rest : XtalSt := { running := false, s1From := 0, aonPeriod := 30517578, aonAt := none, aonNow := 0 }
/-- The JTAG port in Test-Logic-Reset: IDCODE is current. PRESUMED, unsafe: log 144. -/
def JtagSt.rest : JtagSt := { instr := .idcode, latch := [], tdo := [] }
/-- Power: held by RESET_N and until every rail has been above its reset level for 1 ms (R487). -/
def PowerSt.rest : PowerSt :=
  { rstPin := true, jtagHold := false, jtag := JtagSt.rest, railHold := true, tempHold := false, off := false, stages := 0, begun := 0, s6From := 0, s9From := 0, released := false, lastReset := 1,
    trans := none, transFrom := 0, settled := false, marked := [], sentinelAt := 0, leftAt := 0, suspFrom := 0, quietFrom := 0, saved := none, wakeLatch := false, softKey := false, softResetAt := none, wdogFrom := 0, wdogWarned := false,
    rails := [], warnSpans := [], hot := false, burst := 0, bandRun := 0, phase := 0, wakeAt := none, setBy := [] }
/-- The epoch banks are empty (R43). -/
def EpochSt.rest : EpochSt := { pend := [], sched := none, queue := [], stores := [] }
/-- A path without commands. -/
def PathSt.rest : PathSt :=
  { out := [], last := none, buf := [], rdShadow := none, fracShadow := none, wrShadow := none, regLatch := [], peer := none }
/-- The host interface. -/
def HostSt.rest : HostSt :=
  { paths := Vector.replicate 9 PathSt.rest, respQ := [], miso := [], inQ := [], mgmtLast := false, accepted := 0, snap := none, fuses := [], snapRun := none, snapBy := [], rshWait := [], gateWait := [],
    flashRun := none, fuseRun := none, respPeers := [], respWait := [] }
/-- A Crema stream. -/
def StreamSt.rest : StreamSt :=
  { open_ := [], openAt := 0, blocks := [], started := false, history := [], lastDist := none, offset := 0, opens := false, lostIn := 0, reset := false,
    pfMode := 0, counted := [], blockNo := 0 }
/-- An empty ring. -/
def RingSt.rest : RingSt :=
  { head := [], body := [], headAt := 0, bodyAt := 0, wraps := 0, asm := [], asmAt := 0, next := 0, start := true, raised := false, moved := [], stream := StreamSt.rest }
/-- A link that is down. -/
def LinkSt.rest : LinkSt :=
  { queue := [], tx := none, lock := false, rxLock := false, stopped := false, stalled := false, pauseEnd := none, pauseNew := none, heldFrom := none,
    ableFrom := none, deficit := Vector.replicate 16 0, drrNext := 0, partnerCut := 0, prbsSync := false }
/-- The alarm unit. -/
def AlarmSt.rest : AlarmSt :=
  { window := 0, windowAt := 0, tracks := [], indiv := 0, untracked := [], sums := [], held := [], log := [], logHead := 0, logCount := 0 }
/-- A Crema engine. -/
def EngSt.rest : EngSt := { ring := 0, stopped := false, stalled := false }
/-- The serial flash is erased and holds 128 MiB; nothing is staged. PRESUMED, unsafe: log 9. -/
def ImageSt.rest : ImageSt :=
  { flash := [], flashSize := 134217728, staged := [], stageLen := 0, validating := false, fromHost := false, prevFlash := false,
    retireHost := [], keyHash := [] }

end Sys2Proof.Machine
end

