-- ==== Sys2Proof/Machine/State.lean ====
section
/-! DEFINITION. The state of the block, its faults and refusals, and the state right after reset. -/
namespace Sys2Proof.Machine

/-- The state of the block: plain data. -/
structure State where
  pending : List Instr             -- commands that wait, first in, first out
  regs : RegFile                   -- every register of the register tables
  time : TimeSt
  loops : Vector LoopSt 6          -- PLL-A to PLL-E, CLKIN
  xtal : XtalSt
  power : PowerSt
  epoch : EpochSt
  host : HostSt
  rings : Vector RingSt 16
  links : Vector LinkSt 8
  alarm : AlarmSt
  engs : Vector EngSt 8
  image : ImageSt
  mem : MemSt
  ports : Vector PortSt 4
  aux : AuxSt
  zone : ZonesSt
  lidar : LidarSt
  cores : Vector CoreSt 16         -- Brew cores
  cal : Vector PortCal 4
  freeCtr : Nat                    -- the model's own: counts the open values drawn so far
deriving DecidableEq, Repr

/-- The machine right after a power-on reset: every register at its reset value and RESET_CAUSE at POR (R18, R481); RESET_N still low
and the rails not yet known good, so that start-up has not begun (R458, R487). DESIGN CHOICE, unsafe: log 6. -/
def State.reset : State :=
  { pending := [], regs := rfWr [] .RESET_CAUSE_Last 1, time := TimeSt.rest, loops := Vector.replicate 6 LoopSt.rest,
    xtal := XtalSt.rest, power := PowerSt.rest, epoch := EpochSt.rest, host := HostSt.rest, rings := Vector.replicate 16 RingSt.rest,
    links := Vector.replicate 8 LinkSt.rest, alarm := AlarmSt.rest, engs := Vector.replicate 8 EngSt.rest, image := ImageSt.rest, mem := MemSt.rest,
    ports := Vector.replicate 4 PortSt.rest, aux := AuxSt.rest, zone := ZonesSt.rest, lidar := LidarSt.rest,
    cores := Vector.replicate 16 CoreSt.rest, cal := Vector.replicate 4 PortCal.rest, freeCtr := 0 }

/-- No meaning raises a fault: the block has no address or operand at which it stops. DESIGN CHOICE, safe: log 119. -/
inductive Fault
  /-- Raised by no meaning; safe, since it describes no behaviour. -/
  | unused
deriving DecidableEq, Repr

/-- Why a command has no meaning. -/
inductive Refusal
  /-- The command of this mnemonic is not modelled; raised by its arm in Dispatch.lean. Safe. -/
  | notModelled (mnemonic : String)
deriving DecidableEq, Repr

end Sys2Proof.Machine
end

