-- ==== Sys2Proof/Machine/RegOps.lean ====
section
/-! DEFINITION. Register access on the state: the operations that every meaning reads and writes registers through. -/
namespace Sys2Proof.Machine

/-- What a meaning answers. -/
abbrev Out := Host.Outcome State Fault Refusal

/-! Registers -/

/-- The value of a register field. -/
def State.rd (s : State) (f : Fld) : Nat := rfRd s.regs f
/-- The value of a register field, two's complement. -/
def State.rdS (s : State) (f : Fld) : Int := rfRdS s.regs f
/-- A one-bit field as a truth value. -/
def State.on (s : State) (f : Fld) : Bool := rfRd s.regs f == 1
/-- Set a register field. -/
def State.wr (s : State) (f : Fld) (v : Nat) : State := { s with regs := rfWr s.regs f v }
/-- Set a one-bit register field. -/
def State.wrB (s : State) (f : Fld) (b : Bool) : State := s.wr f (bnat b)
/-- Set a register field from an integer, two's complement. -/
def State.wrS (s : State) (f : Fld) (v : Int) : State := s.wr f (ofS (f.hi + 1 - f.lo) v)
/-- Add to a register field, saturating. -/
def State.inc (s : State) (f : Fld) (k : Nat) : State := { s with regs := rfInc s.regs f k }
/-- Read a 64-bit quantity at its low half's address (R17). -/
def State.rd64 (s : State) (f : Fld) : Nat := rfRd64 s.regs f.addr
/-- Set a 64-bit quantity. -/
def State.wr64 (s : State) (f : Fld) (v : Nat) : State := { s with regs := rfWr64 s.regs f.addr v }
/-- Add to a 64-bit quantity. -/
def State.inc64 (s : State) (f : Fld) (k : Nat) : State := s.wr64 f (s.rd64 f + k)

/-- A loop is locked: 0 – 4 PLL-A to PLL-E (R430). -/
def State.locked (s : State) (k : Nat) : Bool := bit (s.rd .CLK_STATUS_Locked) k

/-- Memory mode: 0 both channels, 1 or 2 a single one, 3 DRAM-less (R370). -/
def State.memMode (s : State) : Nat := s.rd .MEM_MODE_Mode

/-- The memory mode that the channels' states give (R349, R370, R371). -/
def State.modeOf (s : State) : Nat :=
  let ok := fun (ch : Nat) => s.on (.MC_CFG_Enable ch) && s.rd (.MC_STATUS_State ch) != 3
  if ok 0 then (if ok 1 then 0 else 1) else if ok 1 then 2 else 3

/-- The DRAM serves accesses: its loop is locked, no failed channel waits for the switch of the memory mode, and no channel is in self-refresh
(R370, R374, R433). -/
def State.dramOpen (s : State) : Bool :=
  s.locked 2 && s.memMode == s.modeOf && s.rd (.MC_STATUS_State 0) != 4 && s.rd (.MC_STATUS_State 1) != 4

end Sys2Proof.Machine
end

