-- ==== Sys2Proof/Machine/Words.lean ====
section
/-! DEFINITION. The stored words of every memory, the address map of the DRAM, and access by words and bytes (R338 – R360). Blocks: 0 and 1 are
the channels MC0 and MC1, 2 stands for all SRAMs. -/
namespace Sys2Proof.Machine

/-- Location of a DRAM word has L[39] = 0 (R339). -/
def isDram (l : Nat) : Bool := decide (l < 2 ^ 39)

/-- What an unlisted location holds: the fill word of R345 and R366; after a loss of the DRAM's contents (R370), a word
whose data are open. DEDUCED, unsafe: log 7. -/
def memDflt (lost l : Nat) : BitVec 80 :=
  if lost != 0 && isDram l then encodeWord l (Config.lostWord lost l).toNat else fillWord l

/-- The stored word of a location. -/
def State.cell (s : State) (l : Nat) : BitVec 80 := spGet (memDflt s.mem.lost) s.mem.words l

/-- Store a word at a location: an answer that some requester has not yet used no longer stands for that word (R356). -/
def State.setCell (s : State) (l : Nat) (w : BitVec 80) : State :=
  { s with mem := { s.mem with words := spSet (memDflt s.mem.lost) s.mem.words l w,
                               answers := s.mem.answers.filter fun (a : Answer) => a.loc != l } }

/-- What a location reads as, with no error on the way (R342). -/
def State.word (s : State) (l : Nat) : ReadRes := decodeWord l (s.cell l)

/-- Store data at a location, normal or poisoned (R341). -/
def State.setWord (s : State) (l d : Nat) (poison : Bool) : State :=
  s.setCell l (if poison then poisonWord l d else encodeWord l d)

/-- Words of an SRAM (R344, R534). -/
def sramWords (id : Nat) : Nat :=
  if id < 4 then 1048576 else if id < 8 then 131072 else if id = 8 then 1048576 else if id < 25 then 65536
  else if id = 25 then 655360 else if id = 26 then 32768 else if id = 27 then 8192 else if id < 32 then 4096
  else if id = 42 then 4096 else if id < 44 then 2048 else if id < 52 then 65536 else if id < 60 then 8192
  else if id = 60 then 4096 else if id = 61 then 6144 else if id = 62 then 8192 else 32768

/-! The DRAM's address map (R350 – R353) -/

/-- Rows of a bank (R348). -/
def State.rowsOf (s : State) (ch : Nat) : Nat :=
  match s.rd (.MC_CFG_Density ch) with
  | 0 => 65536
  | 1 => 98304
  | _ => 131072

/-- Ranks of a channel. -/
def State.ranksOf (s : State) (ch : Nat) : Nat := s.rd (.MC_CFG_Ranks ch) + 1

/-- Usable bytes of a channel: its capacity less four spare rows of 8 KiB in each bank (R350). -/
def State.usableOf (s : State) (ch : Nat) : Nat := s.ranksOf ch * 16 * (s.rowsOf ch - 4) * 8192

/-- Usable system capacity in bytes in the present memory mode. -/
def State.usableDram (s : State) : Nat :=
  match s.memMode with
  | 0 => s.usableOf 0 + s.usableOf 1
  | 1 => s.usableOf 0
  | 2 => s.usableOf 1
  | _ => 0

/-- Parity of a value under a mask. -/
def maskParity (v m : Nat) : Nat := popCount (Nat.land v m) 64 % 2

/-- Channel and channel address of a system address (R351). -/
def State.chanOf (s : State) (sa : Nat) : Nat × Nat :=
  match s.memMode with
  | 0 => ((sa / 2 ^ 12 % 2 + maskParity (sa / 2 ^ 13 % 2 ^ 23) (s.rd .MEM_CHMASK_ChMask)) % 2,
          sa / 2 ^ 13 % 2 ^ 23 * 2 ^ 12 + sa % 2 ^ 12)
  | 2 => (1, sa)
  | _ => (0, sa)

/-- A place in a channel. -/
structure DramPlace where
  rank : Nat
  bg : Nat
  ba : Nat
  row : Nat
  col : Nat
  beat : Nat
deriving DecidableEq, Repr

/-- The fields of a channel address (R352). -/
def State.placeOf (s : State) (ch ca : Nat) : DramPlace :=
  let two := s.ranksOf ch = 2
  let x := fun (f base : Nat) => (base + maskParity (ca / 2 ^ 17) (s.rd (.XOR_MASK_Mask ch f))) % 2
  { bg := x 0 (ca / 2 ^ 10 % 2) + 2 * x 1 (ca / 2 ^ 11 % 2), ba := x 2 (ca / 2 ^ 12 % 2) + 2 * x 3 (ca / 2 ^ 13 % 2),
    rank := if two then x 4 (ca / 2 ^ 17 % 2) else 0, row := if two then ca / 2 ^ 18 else ca / 2 ^ 17,
    col := ca / 2 ^ 7 % 8 + 8 * (ca / 2 ^ 14 % 8), beat := ca / 8 % 16 }

/-- The location of a place (R339). -/
def locOf (ch : Nat) (p : DramPlace) : Nat :=
  p.beat + p.col * 2 ^ 4 + p.row % 2 ^ 17 * 2 ^ 10 + p.ba * 2 ^ 27 + p.bg * 2 ^ 29 + p.rank * 2 ^ 31 + ch * 2 ^ 32

/-- The place of a location. -/
def placeAt (l : Nat) : DramPlace :=
  { beat := l % 16, col := l / 2 ^ 4 % 64, row := l / 2 ^ 10 % 2 ^ 17, ba := l / 2 ^ 27 % 4, bg := l / 2 ^ 29 % 4,
    rank := l / 2 ^ 31 % 2 }

/-- A remap entry that names a row (R358). -/
def State.entryMatches (s : State) (ch i : Nat) (p : DramPlace) : Bool :=
  s.on (.RETIRE_Valid ch i) && s.rd (.RETIRE_Rank ch i) == p.rank && s.rd (.RETIRE_BG ch i) == p.bg &&
    s.rd (.RETIRE_BA ch i) == p.ba && s.rd (.RETIRE_Row ch i) == p.row

/-- The place that holds a row's data: its spare row, while the copy runs for the bursts already copied alone (R358). -/
def State.remapped (s : State) (ch : Nat) (p : DramPlace) : DramPlace :=
  match (List.range 64).find? fun i => s.entryMatches ch i p with
  | none => p
  | some i =>
    let copying := match (s.mem.chans.get (fin 1 ch)).copy with
      | some c => c.entry == i && decide (c.bursts ≤ p.col)
      | none => false
    if copying then p else { p with row := s.rowsOf ch - 4 + s.rd (.RETIRE_Spare ch i) }

/-- The location of the word of a system address. -/
def State.dramLoc (s : State) (sa : Nat) : Nat :=
  let (ch, ca) := s.chanOf sa
  locOf ch (s.remapped ch (s.placeOf ch ca))

/-- The system address of a location, by the inverse of the map of R351 and R352: rows pass unchanged, so each base bit is
recovered by the same XOR (R353). -/
def State.saOf (s : State) (ch l : Nat) : Nat :=
  let p := placeAt l
  let two := s.ranksOf ch = 2
  let x := fun (f b m : Nat) => (b + maskParity m (s.rd (.XOR_MASK_Mask ch f))) % 2
  let hi0 := if two then p.row * 2 else p.row
  let hi := if two then hi0 + x 4 (p.rank % 2) hi0 else hi0
  let ca := p.beat * 8 + p.col % 8 * 2 ^ 7 + (x 0 (p.bg % 2) hi) * 2 ^ 10 + (x 1 (p.bg / 2) hi) * 2 ^ 11 +
    (x 2 (p.ba % 2) hi) * 2 ^ 12 + (x 3 (p.ba / 2) hi) * 2 ^ 13 + p.col / 8 * 2 ^ 14 + hi * 2 ^ 17
  if s.memMode = 0 then
    let up := ca / 2 ^ 12
    up * 2 ^ 13 + (ch + maskParity up (s.rd .MEM_CHMASK_ChMask)) % 2 * 2 ^ 12 + ca % 2 ^ 12
  else ca

/-- First byte of a region of the DRAM (R354): 0 product state, 1 Carafe, 2 capture, 3 Brew. -/
def State.regionSize (s : State) (r : Nat) : Nat :=
  if r = 0 then 67108864
  else s.rd (.REGION_SIZE_Size (r - 1)) * 1048576 / (if s.memMode = 0 then 1 else 2)

/-- System address of the first byte of a region (R354). -/
def State.regionBase (s : State) (r : Nat) : Nat := (List.range r).foldl (fun a k => a + s.regionSize k) 0

/-! Access by words and bytes -/

/-- The block whose counters and tables cover a location: a channel, or 2 for the SRAMs. -/
def blockOf (l : Nat) : Fin 3 := if isDram l then fin 2 (l / 2 ^ 32 % 2) else 2

/-- Count reads that decode POISONED (R360). -/
def State.countPoison (s : State) (b : Fin 3) (n : Nat) : State := if n = 0 then s else s.inc (.UE_COUNT_PoisonReads b) n

/-- The answer of a bad read that a requester has not yet used (R360). -/
def State.answerOf (s : State) (req l : Nat) : Option Answer :=
  s.mem.answers.find? fun (a : Answer) => a.req == req && a.loc == l

/-- What a requester reads at a location: the data as delivered, and whether they are marked POISONED (R342, R360). -/
def State.fetchWord (s : State) (req l : Nat) : Nat × Bool :=
  match s.answerOf req l with
  | some a => (a.data, true)
  | none => let r := s.word l; (r.data, r.kind.bad)

/-- What such a read leaves: an answer is used up; a word that reads POISONED counts one PoisonReads more (R360). -/
def State.fetched (s : State) (req l : Nat) : State :=
  match s.answerOf req l with
  | some _ => { s with mem := { s.mem with answers := s.mem.answers.filter fun (a : Answer) => !(a.req == req && a.loc == l) } }
  | none => s.countPoison (blockOf l) (bnat (s.word l).kind.bad)

/-- Words `w` … of a store whose word w lies at `loc w`, as bytes, and whether a bad one was among them. -/
def readWords (s : State) (req : Nat) (loc : Nat → Nat) : Nat → Nat → List Byte × Bool
  | 0, _ => ([], false)
  | n + 1, w =>
    let (d, b) := s.fetchWord req (loc w)
    let (bs, p) := readWords s req loc n (w + 1)
    (le 8 d ++ bs, b || p)

/-- Words that `n` bytes from byte address `a` touch. -/
def wordSpan (a n : Nat) : Nat := (a + n + 7) / 8 - a / 8

/-- Bytes `a` … `a + n - 1` of a store, and whether a bad word was among those read. -/
def readBytes (s : State) (req : Nat) (loc : Nat → Nat) (a n : Nat) : List Byte × Bool :=
  let (bs, p) := readWords s req loc (wordSpan a n) (a / 8)
  (slice bs (a % 8) n, p)

/-- What the reads of `n` words from word `w` on leave. -/
def fetchedWords (req : Nat) (loc : Nat → Nat) : Nat → Nat → State → State
  | 0, _, s => s
  | n + 1, w, s => fetchedWords req loc n (w + 1) (s.fetched req (loc w))

/-- Merge bytes into a word from byte `k` on. -/
def mergeBytes (d k : Nat) : List Byte → Nat
  | [] => d
  | b :: bs => mergeBytes (d - d / 2 ^ (8 * k) % 256 * 2 ^ (8 * k) + b.toNat * 2 ^ (8 * k)) (k + 1) bs

/-- A requester writes bytes from byte address `a` (R346, R355): a narrow write reads and merges, and what it read bad it writes poisoned; a
full word becomes a normal one. The first argument bounds the words written. DESIGN CHOICE, unsafe: log 97. -/
def writeBytes (req : Nat) (loc : Nat → Nat) : Nat → Nat → List Byte → State → State
  | 0, _, _, s => s
  | k + 1, a, bs, s =>
    match bs with
    | [] => s
    | _ =>
      let l := loc (a / 8)
      let n := 8 - a % 8
      let part := bs.take n
      let s := if part.length = 8 then s.setWord l (leNat part) false
        else
          let (d, bad) := s.fetchWord req l
          (s.fetched req l).setWord l (mergeBytes d (a % 8) part) bad
      writeBytes req loc k (a + part.length) (bs.drop n) s

/-- Read bytes of an SRAM. -/
def State.sramRead (s : State) (req id a n : Nat) : List Byte × Bool := readBytes s req (sramLoc id) a n
/-- Write bytes of an SRAM. -/
def State.sramWrite (s : State) (req id a : Nat) (bs : List Byte) : State := writeBytes req (sramLoc id) (bs.length + 1) a bs s
/-- Location of word `w` of the DRAM, by system address. -/
def State.dramWord (s : State) (w : Nat) : Nat := s.dramLoc (8 * w)
/-- Read bytes of the DRAM by system address. -/
def State.dramRead (s : State) (req sa n : Nat) : List Byte × Bool := readBytes s req s.dramWord sa n
/-- Write bytes of the DRAM by system address. -/
def State.dramWrite (s : State) (req sa : Nat) (bs : List Byte) : State := writeBytes req s.dramWord (bs.length + 1) sa bs s

/-! Areas: stretches of a memory that a block writes round and round -/

/-- A stretch of an SRAM, by its id, or of the DRAM: first byte and size, both multiples of 8. -/
structure Area where
  sram : Option Nat
  base : Nat
  size : Nat
deriving DecidableEq, Repr

/-- Location of the word at byte `off` of an area, counted round its end. -/
def State.areaLoc (s : State) (a : Area) (w : Nat) : Nat :=
  let k := a.base / 8 + w % (a.size / 8)
  match a.sram with
  | some id => sramLoc id k
  | none => s.dramWord k

/-- Read bytes of an area from byte `off` on. -/
def State.areaRead (s : State) (req : Nat) (a : Area) (off n : Nat) : List Byte × Bool := readBytes s req (s.areaLoc a) off n
/-- What that read leaves. -/
def State.areaFetched (s : State) (req : Nat) (a : Area) (off n : Nat) : State := fetchedWords req (s.areaLoc a) (wordSpan off n) (off / 8) s
/-- Write bytes of an area from byte `off` on. -/
def State.areaWrite (s : State) (req : Nat) (a : Area) (off : Nat) (bs : List Byte) : State :=
  writeBytes req (s.areaLoc a) (bs.length + 1) off bs s

end Sys2Proof.Machine
end

