-- ==== Sys2Proof/Machine/Ops.lean ====
section
/-! DEFINITION. The shared operations on the state: device time, common flags, records, loss, alarms. -/
namespace Sys2Proof.Machine

/-- The device is on its way to QUIESCENT or SUSPEND: links send only the datagrams already numbered (R476). -/
def State.quieting (s : State) : Bool :=
  match s.power.trans with
  | some (f, t) => f != 4 && decide (4 ≤ t)
  | none => false

/-! Time -/

/-- Crystal instant, ns: 25 ns for each crystal tick (R440). -/
def State.xt (s : State) : Nat := s.time.ticks * 25

/-- inc of R439 for a correction c, LSB 2^-48 ns. -/
def incOf (c : Nat) : Int := dround (dmul (dint (25 * 2 ^ 48)) (dadd (dint 1) c))

/-- σ at a crystal tick, as the log of its changes gives it: the newest entry not after the tick (R214, R439). -/
def sigOf : List (Nat × Int × Int) → Nat → Int → Int
  | [], _, d => d
  | (n, v, rate) :: log, k, _ => if n ≤ k then v + rate * ((k - n : Nat) : Int) else sigOf log k v

/-- σ at a crystal tick: as it stood at a past one, and as it stands now for a coming one (R214, R439). -/
def State.sigAt (s : State) (tick : Nat) : Int :=
  if s.time.ticks ≤ tick then s.time.sig48 else sigOf s.time.sigLog tick s.time.sig48

/-- Device time in LSB 2^-48 ns at a crystal instant, on the present correction (R439). -/
def State.dev48 (s : State) (t : Nat) : Int :=
  s.time.lam48 + s.sigAt (t / 25) + tdiv (incOf s.time.corr * ((t : Int) - s.xt)) 25

/-- Device time, ns, at a crystal instant (R438). -/
def State.devAt (s : State) (t : Nat) : Nat := (asr (s.dev48 t) 48).toNat % 2 ^ 64

/-- Device time now, LSB 2^-48 ns. -/
def State.now48 (s : State) : Int := s.time.lam48 + s.time.sig48

/-- Device time now, ns: the upper 64 bits of D (R438, R439). -/
def State.now (s : State) : Nat := (asr s.now48 48).toNat % 2 ^ 64

/-- The fraction of device time now, LSB 2^-32 ns (R438). -/
def State.nowFrac (s : State) : Nat := (asr s.now48 16).toNat % 2 ^ 32

/-- An instant of the crystal count is due when it lies at or before the end of the running tick. DESIGN CHOICE, unsafe: log 4. -/
def State.due (s : State) (t : Nat) : Bool := decide (t < s.xt + 25)

/-- The crystal instant at which device time reads `d` ns, on the present correction; now for a time already passed. -/
def State.xtOf (s : State) (d : Nat) : Nat :=
  let gap := (d : Int) * 2 ^ 48 - s.now48
  if gap ≤ 0 then s.xt else s.xt + ceilDiv (gap.toNat * 25) (incOf s.time.corr).toNat

/-- The crystal instant at which device time read `d` ns, on the present correction, without the steps since; for a time to come as `xtOf`. -/
def State.xtBack (s : State) (d : Nat) : Nat := if s.now ≤ d then s.xtOf d else s.xt - (s.now - d)

/-! Open values -/

/-- Draw a value the spec leaves open: an opaque function of a counter that advances at each draw. -/
def State.draw (s : State) : BitVec 64 × State := (Config.freeWord s.freeCtr, { s with freeCtr := s.freeCtr + 1 })

/-! Common flags (R51) -/

/-- A condition holds for some part of an interval of crystal instants x0 to x1: it has held in stretches of the crystal count, and holds since
`now`. -/
def heldIn (now : Option Nat) (spans : List (Nat × Nat)) (x0 x1 : Nat) : Bool :=
  (match now with | some a => decide (a ≤ x1) | none => false) || spans.any fun (y : Nat × Nat) => decide (y.1 ≤ x1 ∧ x0 < max y.2 (y.1 + 1))

/-- Records carry TIME_HOLDOVER at the present instant (R441). -/
def State.timeLow (s : State) : Bool := s.rd .TIME_STATE_State != 3 || s.time.pendStep.isSome || !s.on .TIME_STATE_Labelled

/-- TIME_HOLDOVER and TIME_STEP of data of the crystal instants x0 to x1 (R51, R441, R446). -/
def State.timeFlags (s : State) (x0 x1 : Nat) : Nat :=
  let step := s.time.steps.any fun (w : Nat) => decide (x0 ≤ w ∧ w ≤ x1)
  let (now, spans) := match s.timeLow, s.time.lowFrom with
    | true, some a => (some a, s.time.lowSpans)
    | true, none => (some s.xt, s.time.lowSpans)
    | false, some a => (none, (a, s.xt) :: s.time.lowSpans)
    | false, none => (none, s.time.lowSpans)
  bnat (heldIn now spans x0 x1 || step) * 2 ^ 9 + bnat step * 2 ^ 10

/-- A rail is below its warning level (R486, R487). -/
def State.railLow (s : State) : Bool := s.power.rails.any fun (r : RailSt) => r.above.isNone

/-- Every rail has been above its warning level plus hysteresis for 1 ms (R261, R487). -/
def State.supplyBack (s : State) : Bool :=
  s.power.rails.all fun (r : RailSt) => match r.above with | some a => decide (a + 1000000 ≤ s.xt) | none => false

/-- SUPPLY_WARN of data of the crystal instants x0 to x1 (R51, R487). -/
def State.supplyFlag (s : State) (x0 x1 : Nat) : Nat :=
  bnat (s.power.rails.any (fun (r : RailSt) => r.above.isNone && decide (r.from_ ≤ x1)) || heldIn none s.power.warnSpans x0 x1) * 2 ^ 2

/-- CLOCK_GAP of data of the crystal instants x0 to x1 that one of the loops clocks (R433). -/
def State.gapFlag (s : State) (ks : List (Fin 6)) (x0 x1 : Nat) : Nat :=
  bnat (ks.any fun k => heldIn (s.loops.get k).lostAt (s.loops.get k).gaps x0 x1) * 2 ^ 3

/-! Records (R49) -/

/-- Pad to a multiple of 8 bytes with zeros (R49). -/
def pad8 (bs : List Byte) : List Byte := bs ++ zeros ((8 - bs.length % 8) % 8)

/-- A record: the 16-byte header of R49 and its contents, padded. -/
def mkRecord (type epoch flags time : Nat) (content : List Byte) : List Byte :=
  let c := pad8 content
  le 2 type ++ le 2 ((16 + c.length) / 8) ++ le 2 epoch ++ le 2 flags ++ le 8 time ++ c

/-- The newest epoch number (R558). -/
def State.curEpoch (s : State) : Nat := s.rd .EPOCH_STATUS_Epoch

/-- The epoch a function runs in: the one before the first it has not yet taken (R558). -/
def State.fnEpoch (s : State) (fn : Nat) : Nat :=
  match s.epoch.queue.find? (fun e => e.waiting.contains fn) with
  | some e => (e.num + 65535) % 65536
  | none => s.curEpoch

/-- Function numbers of R37: fibre port n, the lidar engine, ring r, link x. -/
def fnPort (n : Nat) : Nat := n
/-- The lidar engine. -/
def fnLidar : Nat := 4
/-- The auxiliary converter. -/
def fnAux : Nat := 5
/-- Ring r. -/
def fnRing (r : Nat) : Nat := 16 + r
/-- Link x. -/
def fnLink (x : Nat) : Nat := 32 + x

/-! Rings: entry of records (R376, R382, R384) -/

/-- Bytes held in a list of records. -/
def recBytes (rs : List Rec) : Nat := rs.foldl (fun n r => n + r.bytes.length) 0

/-- Size of a ring's head (R376). -/
def headSize (r : Nat) : Nat := if r ≤ 3 ∨ r = 14 then 32768 else 16384

/-- Size of a ring's body in bytes (R376 – R378). -/
def State.bodySize (s : State) (r : Nat) : Nat :=
  let size := s.rd (.RING_BODY_Size r)
  if r = 12 then 0
  else if r = 8 then 1048576
  else if r = 11 then (if s.memMode = 3 then 262144 else 1048576)
  else if s.memMode = 3 then (if size = 0 then 0 else 196608)
  else if s.memMode = 0 then size * 65536
  else size / 2 * 65536

/-- Count records of a ring as lost (R384). -/
def State.lose (s : State) (r n : Nat) : State := s.inc64 (.RING_LOST_LO_Lost r) n

/-- Update a ring. -/
def State.updRing (s : State) (r : Fin 16) (f : RingSt → RingSt) : State := { s with rings := vupd s.rings r f }

/-- Bytes held in a head or body. -/
def slotBytes (xs : List Slot) : Nat := xs.foldl (fun n x => n + x.len) 0

/-- The requester code of the ring manager (R362). -/
def reqRing : Nat := 0x20

/-- The SRAM of a ring's head (R376, R534). -/
def headArea (r : Nat) : Area := ⟨some (28 + r), 0, headSize r⟩

/-- Bytes of a ring's datagram under assembly: more than the largest payload of R386. -/
def asmSize : Nat := 16384

/-- Place of a configured ring among those with a body of their own in the fallback: rings other than 8, 11 and 12, in order. -/
def fallbackPlace (r : Nat) : Nat := if r < 8 then r else if r < 11 then r - 1 else r - 3

/-- Where a ring's body lies (R376 – R378): in the Carafe, or in the ring fallback of the fabric SRAM. DESIGN CHOICE, unsafe: log 107. -/
def State.bodyArea (s : State) (r : Nat) : Area :=
  if s.memMode = 3 then
    ⟨some 8, if r = 8 then 0 else if r = 11 then 1048576 else 1310720 + 196608 * fallbackPlace r, s.bodySize r⟩
  else
    let base := s.rd (.RING_BODY_Base r)
    ⟨none, s.regionBase 1 + (if r = 8 then 0 else if r = 11 then 1048576
      else 2097152 + (if s.memMode = 0 then base else base / 2) * 65536), s.bodySize r⟩

/-- Where a ring's datagram under assembly lies: in the assembly store, or behind the bodies in the ring fallback (R378, R534).
DESIGN CHOICE, unsafe: log 107. -/
def State.asmArea (s : State) (r : Nat) : Area :=
  if s.memMode = 3 then ⟨some 8, 3866624 + asmSize * r, asmSize⟩ else ⟨some 63, asmSize * r, asmSize⟩

/-- Mark a record POISONED (R30, R51); family 0x05 uses no such flag (R400). -/
def poisonRec (bs : List Byte) : List Byte :=
  if leAt bs 1 1 = 5 then bs else modAt bs 7 fun (b : Byte) => b ||| 1

/-- The record of a slot of a head or body, marked POISONED where it holds a bad word (R30). -/
def State.slotRec (s : State) (a : Area) (x : Slot) : Rec :=
  let (bs, bad) := s.areaRead reqRing a x.off x.len
  ⟨x.seq, if bad then poisonRec bs else bs, x.at_⟩

/-- The read of a slot has been made. -/
def State.slotFetched (s : State) (a : Area) (x : Slot) : State := s.areaFetched reqRing a x.off x.len

/-- Write a record behind those of a ring's head. -/
def State.putHead (s : State) (r : Fin 16) (x : Rec) : State :=
  let a := headArea r
  let off := (s.rings.get r).headAt
  (s.areaWrite reqRing a off x.bytes).updRing r fun (g : RingSt) =>
    { g with head := g.head ++ [⟨x.seq, off, x.bytes.length, x.at_⟩], headAt := (off + x.bytes.length) % a.size }

/-- Write a record behind those of a ring's body. -/
def State.putBody (s : State) (r : Fin 16) (x : Rec) : State :=
  let a := s.bodyArea r
  let off := (s.rings.get r).bodyAt
  (s.areaWrite reqRing a off x.bytes).updRing r fun (g : RingSt) =>
    { g with body := g.body ++ [⟨x.seq, off, x.bytes.length, x.at_⟩], bodyAt := (off + x.bytes.length) % a.size }

/-- Pack a record behind those of a ring's datagram under assembly (R387). -/
def State.putAsm (s : State) (r : Fin 16) (x : Rec) : State :=
  let a := s.asmArea r
  let off := match (s.rings.get r).asm.getLast? with | some y => (y.off + y.len) % a.size | none => 0
  (s.areaWrite reqRing a off x.bytes).updRing r fun (g : RingSt) => { g with asm := g.asm ++ [⟨x.seq, off, x.bytes.length, x.at_⟩] }

/-- The records of a ring's datagram under assembly, as they read (R30). -/
def State.asmRecs (s : State) (r : Fin 16) : List Rec := (s.rings.get r).asm.map (s.slotRec (s.asmArea r))

/-- The reads of a datagram under assembly have been made. -/
def State.asmFetched (s : State) (r : Fin 16) : State :=
  (s.rings.get r).asm.foldl (fun (s : State) (x : Slot) => s.slotFetched (s.asmArea r) x) s

/-- The memory mode changes: what is under assembly moves to its place in the new one (R378). -/
def State.setMemMode (s : State) (mode : Nat) : State :=
  (List.finRange 16).foldl (fun (u : State) (r : Fin 16) =>
    (s.asmRecs r).foldl (fun (u : State) (x : Rec) => u.putAsm r x) (u.updRing r fun (g : RingSt) => { g with asm := [] }))
    (((List.finRange 16).foldl (fun (u : State) (r : Fin 16) => u.asmFetched r) s).wr .MEM_MODE_Mode mode)

/-- Take the oldest record of a ring's head. -/
def State.takeHead (s : State) (r : Fin 16) (x : Slot) : State :=
  (s.slotFetched (headArea r) x).updRing r fun (g : RingSt) => { g with head := g.head.drop 1 }

/-- Drop the oldest records until `need` bytes fit in `size`; answer the rest and how many were dropped (R382). -/
def dropOldest (size need : Nat) : List Slot → Nat → List Slot × Nat
  | [], n => ([], n)
  | x :: xs, n => if slotBytes (x :: xs) + need ≤ size then (x :: xs, n) else dropOldest size need xs (n + 1)

/-- The ring bodies take records: the fabric runs, and the DRAM serves accesses or the bodies lie in fabric SRAM (R370, R378, R433). -/
def State.bodyOpen (s : State) : Bool := s.locked 1 && ((s.memMode == 3 && s.modeOf == 3) || s.dramOpen)

/-- Pass records from a ring's head to its body in production order, under the ring's drop policy (R376, R382). -/
def fillGo (r : Fin 16) : Nat → State → State
  | 0, s => s
  | k + 1, s =>
    let g := s.rings.get r
    match g.head with
    | [] => s
    | x :: _ =>
      let size := s.bodySize r
      let pass := fun (s : State) => fillGo r k ((s.takeHead r x).putBody r (s.slotRec (headArea r) x))
      if slotBytes g.body + x.len ≤ size then pass s
      else if s.on (.RING_CFG_Policy r) && decide (x.len ≤ size) then
        let (b, n) := dropOldest size x.len g.body 0
        pass ((s.updRing r fun (g : RingSt) => { g with body := b }).lose r n)
      else s

/-- Pass a ring's head to its body. -/
def State.fillBody (s : State) (r : Fin 16) : State :=
  if s.bodySize r = 0 || !s.bodyOpen then s else fillGo r (s.rings.get r).head.length s

/-- Bytes of a ring's head that cores hold credit for (R329): rings 7 and 9. -/
def State.credited (s : State) (r : Nat) : Nat :=
  if r = 7 ∨ r = 9 then
    (List.range 16).foldl (fun (a n : Nat) =>
      if s.on (.RING_STATUS_Held n) && s.rd (.RING_STATUS_Ring n) == r then a + 8 * s.rd (.RING_STATUS_Size n) else a) 0
  else 0

/-- Whether a ring's head takes a whole record of a length (R22, R376); a frozen head takes none (R431, R433). -/
def State.headRoom (s : State) (r : Fin 16) (len : Nat) : Bool :=
  s.locked 1 && decide (slotBytes (s.rings.get r).head + s.credited r + len ≤ headSize r)

/-- The ring's next record sequence, counted on past 2^32 (R34). -/
def State.seqOf (s : State) (r : Fin 16) : Nat := s.rd (.RING_SEQ_Next r) + 2 ^ 32 * (s.rings.get r).wraps

/-- Take the ring's next record sequence (R34). -/
def State.takeSeq (s : State) (r : Fin 16) : Nat × State :=
  let q := s.rd (.RING_SEQ_Next r)
  (s.seqOf r, (s.wr (.RING_SEQ_Next r) (q + 1)).updRing r fun (g : RingSt) => { g with wraps := g.wraps + bnat (q == 2 ^ 32 - 1) })

/-- A record is lost before it reaches its ring's head: it keeps its sequence (R34, R384, R385). -/
def State.loseNew (s : State) (r : Fin 16) : State := ((s.takeSeq r).2).lose r 1

/-- A stream port taps a ring and matches a record (R326). -/
def State.spMatch (s : State) (n q r : Nat) (b : List Byte) : Bool :=
  let typ := leAt b 0 2
  let b16 := leAt b 16 1
  let b17 := leAt b 17 1
  let eq := fun (x want mask : Nat) => Nat.land x mask == Nat.land want mask
  s.on (.STREAM_CFG_Enable n q) && s.rd (.STREAM_CFG_Ring n q) == r &&
    eq typ (s.rd (.STREAM_TYPE_Match n q)) (s.rd (.STREAM_TYPE_Mask n q)) &&
    eq b16 (s.rd (.STREAM_SEL_Sel0 n q)) (s.rd (.STREAM_SEL_Sel0Mask n q)) &&
    eq b17 (s.rd (.STREAM_SEL_Sel1 n q)) (s.rd (.STREAM_SEL_Sel1Mask n q))

/-- A produced record is offered to every stream port that matches it, before the ring head takes or drops it (R326); the ports of a
stopped or faulted core take nothing (R321, R337). -/
def State.tapStreams (s : State) (r : Nat) (b : List Byte) : State :=
  if r ≤ 5 ∨ r = 15 then
    (List.finRange 16).foldl (fun (s : State) (n : Fin 16) =>
      let st := s.rd (.CORE_STATUS_State n)
      if st = 1 ∨ st = 2 ∨ st = 3 then
        (List.finRange 4).foldl (fun (s : State) (q : Fin 4) =>
          if s.spMatch n q r b then
            { s with cores := vupd s.cores n fun (c : CoreSt) => { c with sp := vupd c.sp q fun (p : SpSt) => { p with offered := p.offered ++ [b] } } }
          else s) s
      else s) s
  else s

/-- Offer a record to a ring: it takes the next sequence; it enters the head whole, or is counted lost (R22, R34, R380). -/
def State.offerCore (s : State) (r : Fin 16) (bytes : List Byte) : State :=
  let s := s.tapStreams r bytes
  let (q, s) := s.takeSeq r
  if s.rd (.RING_STATE_State r) != 1 then s.lose r 1
  else
    let s := s.fillBody r
    if s.headRoom r bytes.length then
      (s.putHead r ⟨q, bytes, s.xt⟩).fillBody r
    else s.lose r 1

/-! Alarms (R397 – R401) -/

/-- Severity of a device alarm code (R397, R425, R456, R490, R534). -/
def severityOf (code : Nat) : Nat :=
  match code with
  | 0x0000 => 2 | 0x0101 => 2 | 0x0102 => 3 | 0x0103 => 1 | 0x0104 => 2 | 0x0105 => 2 | 0x0106 => 2 | 0x0107 => 1
  | 0x0201 => 3 | 0x0202 => 2 | 0x0203 => 2 | 0x0204 => 2 | 0x0205 => 3 | 0x0206 => 3 | 0x0207 => 2 | 0x0208 => 3
  | 0x0301 => 3 | 0x0302 => 2
  | 0x0401 => 2 | 0x0402 => 3 | 0x0403 => 3 | 0x0404 => 3 | 0x0405 => 1 | 0x0406 => 3
  | 0x0501 => 2 | 0x0502 => 2 | 0x0503 => 1 | 0x0504 => 3 | 0x0505 => 1 | 0x0510 => 3
  | 0x0601 => 3 | 0x0602 => 1 | 0x0603 => 2 | 0x0604 => 1 | 0x0605 => 2 | 0x0606 => 1
  | 0x0701 => 2 | 0x0702 => 1 | 0x0703 => 2 | 0x0704 => 1 | 0x0705 => 0 | 0x0706 => 2 | 0x0707 => 2 | 0x0708 => 2 | 0x0709 => 2
  | 0x0801 => 2 | 0x0802 => 1 | 0x0803 => 3
  | _ => 0

/-- A code matches an ALARM_MASK entry in use (R401). DESIGN CHOICE, unsafe: log 114. -/
def State.masked (s : State) (code : Nat) : Bool :=
  (List.range 8).any fun i =>
    let m := s.rd (.ALARM_MASK_Mask i)
    m != 0 && (Nat.land code m == Nat.land (s.rd (.ALARM_MASK_Code i)) m)

/-- The 0x0501 record of an occurrence (R400). -/
def State.alarmRecord (s : State) (o : Occ) : List Byte :=
  mkRecord 0x0501 s.curEpoch o.flags o.time (le 2 o.code ++ le 1 o.sev ++ zeros 1 ++ le 4 o.a0 ++ le 4 o.a1 ++ le 4 0)

/-- Pass an occurrence through the coalescing of its window (R399). -/
def State.coalesce (s : State) (o : Occ) : State :=
  let a := s.alarm
  let room := s.headRoom 8 32
  match a.tracks.find? (fun t => t.code == o.code) with
  | some t =>
    let single := decide (a.indiv < s.rd .ALARM_CTRL_Budget) && room
    let t' := { t with count := t.count + 1, last := o.time, sev := max t.sev o.sev,
                       coalesced := t.coalesced + bnat (!single) }
    let s := { s with alarm := { a with tracks := a.tracks.map (fun u => if u.code == o.code then t' else u),
                                        indiv := a.indiv + bnat single } }
    if single then s.offerCore 8 (s.alarmRecord o) else s
  | none =>
    if a.tracks.length < 512 then
      let t : Track := ⟨o.code, 1, bnat (!room), o.time, o.time, o.a0, o.a1, o.sev⟩
      let s := { s with alarm := { a with tracks := a.tracks ++ [t], indiv := a.indiv + bnat room } }
      let s := s.wr .ALARM_STATUS_Tracked s.alarm.tracks.length
      if room then s.offerCore 8 (s.alarmRecord o) else s
    else { s with alarm := { a with untracked := a.untracked ++ [(o.code, o.time)] } }

/-- Enter an occurrence in the retention log (R401). -/
def AlarmSt.push (a : AlarmSt) (o : Occ) : AlarmSt :=
  { a with log := (o :: a.log).take 64, logHead := if a.logCount = 0 then 0 else (a.logHead + 1) % 64,
           logCount := satN 16 (a.logCount + 1) }

/-- The 0x0601 device log record of an occurrence on ring 9, where its level is logged (R31, R401). DEDUCED, unsafe: log 38. -/
def State.logRecord (s : State) (o : Occ) : State :=
  if s.rd .ALARM_CTRL_LogLevel ≤ o.sev then
    s.offerCore 9 (mkRecord 0x0601 s.curEpoch o.flags o.time (le 2 o.code ++ le 1 o.sev ++ zeros 1 ++ le 4 o.a0 ++ le 4 o.a1 ++ le 4 0))
  else s

/-- Pass an occurrence to the alarm window and to the log (R399, R401). -/
def State.present (s : State) (o : Occ) : State := (s.coalesce o).logRecord o

/-- Post an alarm with a severity (R397 – R401, R560); its records reach the heads of rings 8 and 9. -/
def State.postAlarm (s : State) (code sev a0 a1 : Nat) : State :=
  let o : Occ := ⟨code, sev, a0 % 2 ^ 32, a1 % 2 ^ 32, s.now, s.timeFlags s.xt s.xt⟩
  let s := { s with alarm := s.alarm.push o }
  let s := if 2 ≤ sev ∧ !s.masked code then
      (s.wr .ALARM_STATUS_Latched 1).wr .ALARM_STATUS_Severity (max sev (s.rd .ALARM_STATUS_Severity))
    else s
  if s.power.released then
    let s := s.present o
    s.wrB .ALARM_STATUS_Coalescing (decide (s.rd .ALARM_CTRL_Budget ≤ s.alarm.indiv))
  else { s with alarm := { s.alarm with held := s.alarm.held ++ [o] } }

/-- Body fill, per mille of the body's size (R398). -/
def State.fill (s : State) (r : Fin 16) : Nat :=
  let size := s.bodySize r
  if size = 0 then 0 else slotBytes (s.rings.get r).body * 1000 / size

/-- The high-water alarm of a ring (R398). -/
def State.checkHigh (s : State) (r : Fin 16) : State :=
  let hw := s.rd (.RING_CFG_HighWater r)
  let size := s.bodySize r
  let b := slotBytes (s.rings.get r).body
  if size ≠ 0 ∧ hw ≠ 0 ∧ hw * size < b * 100 then
    let s := s.wr (.RING_STATE_High r) 1
    if (s.rings.get r).raised then s
    else (s.updRing r fun g => { g with raised := true }).postAlarm 0x0501 (severityOf 0x0501) r (s.fill r)
  else if b * 200 < hw * size ∨ hw = 0 ∨ size = 0 then s.wr (.RING_STATE_High r) 0
  else s

end Sys2Proof.Machine
end

