-- ==== Sys2Proof/Machine/CremaCode.lean ====
section
/-! DEFINITION. The Crema code: the prefilter, the decoder, how a block is written, and how the blocks of a stream are written again (R403 –
R412, R417 – R420). -/
namespace Sys2Proof.Machine

/-! Prefilter (R408) -/

/-- The little-endian u16 words of a byte list. -/
def words16 : List Byte → List Nat
  | a :: b :: bs => (a.toNat + 256 * b.toNat) :: words16 bs
  | _ => []

/-- Bytes of u16 words. -/
def bytes16 : List Nat → List Byte
  | [] => []
  | w :: ws => BitVec.ofNat 8 w :: BitVec.ofNat 8 (w / 256) :: bytes16 ws

/-- Delta: each word less the one before, modulo 2^16. -/
def deltaGo : Nat → List Nat → List Nat
  | _, [] => []
  | p, w :: ws => (w + 65536 - p) % 65536 :: deltaGo w ws

/-- The inverse of Delta: the running sum modulo 2^16. -/
def undeltaGo : Nat → List Nat → List Nat
  | _, [] => []
  | p, v :: vs => (p + v) % 65536 :: undeltaGo ((p + v) % 65536) vs

/-- Planes: low bytes, then high bytes. -/
def planes (ws : List Nat) : List Byte :=
  ws.map (fun w => BitVec.ofNat 8 w) ++ ws.map (fun w => BitVec.ofNat 8 (w / 256))

/-- The inverse of Planes. -/
def unplanes (bs : List Byte) : List Nat :=
  let n := bs.length / 2
  List.zipWith (fun (a b : Byte) => a.toNat + 256 * b.toNat) (bs.take n) (bs.drop n)

/-- The forward transform of PfMode (R408). -/
def prefilter (mode : Nat) (bs : List Byte) : List Byte :=
  match mode with
  | 1 => bytes16 (deltaGo 0 (words16 bs))
  | 2 => planes (words16 bs)
  | 3 => planes (deltaGo 0 (words16 bs))
  | _ => bs

/-- The inverse transform (R408). -/
def unfilter (mode : Nat) (bs : List Byte) : List Byte :=
  match mode with
  | 1 => bytes16 (undeltaGo 0 (words16 bs))
  | 2 => bytes16 (unplanes bs)
  | 3 => bytes16 (undeltaGo 0 (unplanes bs))
  | _ => bs

/-! Decoder (R409 – R412). An error is its code of R412. -/

/-- The extension of R409: bytes added until one less than 255. -/
def readExt : List Byte → Nat → Option (Nat × List Byte)
  | [], _ => none
  | b :: bs, n => if b.toNat < 255 then some (n + b.toNat, bs) else readExt bs (n + 255)

/-- The length of a token: the field, or the field's ceiling plus the extension. -/
def readLen (f base ceil : Nat) (bs : List Byte) : Option (Nat × List Byte) :=
  if f < 63 then some (f + base, bs) else (readExt bs 0).map fun (e, r) => (ceil + e, r)

/-- Copy `len` bytes from `dist` bytes back, one at a time (R410); `out` is newest first. -/
def copyMatch : Nat → Nat → List Byte → List Byte
  | 0, _, out => out
  | n + 1, dist, out => copyMatch n dist (out.getD (dist - 1) 0 :: out)

/-- The decoder core of R411: payload left, output newest first, bytes still to make, last distance. -/
def decodeGo : Nat → List Byte → List Byte → Nat → Option Nat → Except Nat (List Byte × Option Nat)
  | 0, _, _, _, _ => .error 3
  | fuel + 1, inp, out, left, last =>
    if left = 0 then (if inp.isEmpty then .ok (out, last) else .error 3)
    else match inp with
      | [] => .error 3
      | t :: bs =>
        let op := t.toNat / 64
        let f := t.toNat % 64
        let doMatch := fun (len dist : Nat) (rest : List Byte) =>
          if out.length < dist then .error 2
          else if left < len then .error 3
          else decodeGo fuel rest (copyMatch len dist out) (left - len) (some dist)
        if op = 0 then
          if f = 0 then .error 1
          else match readLen f 0 63 bs with
            | none => .error 3
            | some (len, rest) =>
              if left < len ∨ rest.length < len then .error 3
              else decodeGo fuel (rest.drop len) ((rest.take len).reverse ++ out) (left - len) last
        else if op = 1 then
          match bs with
          | [] => .error 3
          | b :: rest => doMatch (3 + f / 8) (1 + (f % 8 * 256 + b.toNat)) rest
        else if op = 2 then
          match readLen f 4 67 bs with
          | some (len, a :: b :: rest) =>
            let dist := a.toNat + 256 * b.toNat
            if dist = 0 then .error 1 else doMatch len dist rest
          | _ => .error 3
        else
          match last with
          | none => .error 1
          | some dist =>
            match readLen f 3 66 bs with
            | none => .error 3
            | some (len, rest) => doMatch len dist rest

/-- Decode a payload of tokens to `n` bytes of filtered content, oldest first, with the last distance left. -/
def decodeTokens (hist : List Byte) (last : Option Nat) (payload : List Byte) (n : Nat) :
    Except Nat (List Byte × Option Nat) :=
  match decodeGo (n + 1) payload hist n last with
  | .error e => .error e
  | .ok (out, l) => .ok ((out.take n).reverse, l)

/-- The block header (R404). -/
def blockHeader (flags stream seq unc comp : Nat) : List Byte :=
  le 2 0x4352 ++ le 1 1 ++ le 1 flags ++ le 2 stream ++ le 4 seq ++ le 3 unc ++ le 3 comp

/-- What a decoder keeps between blocks: history newest first, last distance. -/
structure DecState where
  hist : List Byte
  last : Option Nat
deriving DecidableEq, Repr

/-- Decode one block at the front of stored bytes (R403 – R412): its content, the rest, and what the next block starts
with; or the error code of R412. -/
def decodeBlock (st : DecState) (bs : List Byte) : Except Nat (List Byte × List Byte × DecState) :=
  let flags := leAt bs 3 1
  let pf := flags / 16 % 4
  let unc := leAt bs 10 3
  let comp := leAt bs 13 3
  let raw := bit flags 0
  let bad := bs.length < 16 ∨ leAt bs 0 2 ≠ 0x4352 ∨ leAt bs 2 1 ≠ 1 ∨ 64 ≤ flags ∨ bit flags 2 ≠ decide (pf ≠ 0) ∨
    (bit flags 3 = true ∧ raw = false) ∨ unc < 16 ∨ 262144 < unc ∨ (pf ≠ 0 ∧ unc % 2 = 1) ∨ (raw = true ∧ comp ≠ unc)
  if bad then .error 5
  else
    let st := if bit flags 1 then st else ⟨[], none⟩
    let payload := slice bs 16 comp
    let rest := bs.drop (16 + comp)
    if payload.length < comp ∨ rest.length < 4 then .error 3
    else
      let res : Except Nat (List Byte × Option Nat) :=
        if raw then .ok (payload, st.last) else decodeTokens st.hist st.last payload unc
      match res with
      | .error e => .error e
      | .ok (filt, last) =>
        let content := unfilter pf filt
        if crc32c content ≠ leAt rest 0 4 then .error 4
        else .ok (content, rest.drop 4, ⟨(filt.reverse ++ st.hist).take 65536, last⟩)

/-! Writing blocks -/

/-- A block as the engine writes it (R403, R405, R417, R419): its bytes, whether it is stored RAW for want of gain, and the last distance it
leaves. Which tokens it holds is the implementation's choice; their decoding is checked afterwards (R418). -/
def formBlock (stream seq pf : Nat) (fresh : Bool) (history : List Byte) (lastDist : Option Nat) (filt : List Byte) : List Byte × Bool × Option Nat :=
  let hist := if fresh then [] else history
  let last := if fresh then none else lastDist
  let toks := Config.tokens hist (last.getD 0) filt
  let base := bnat (!fresh) * 2 + bnat (pf != 0) * 4 + pf * 16
  let raw := decide (filt.length ≤ toks.length)
  let last' := if raw then last else match decodeTokens hist last toks filt.length with
    | .ok (_, l) => l
    | .error _ => last
  (blockHeader (base + bnat raw) stream seq filt.length (if raw then filt.length else toks.length) ++ (if raw then filt else toks) ++
    le 4 (crc32c (unfilter pf filt)), raw, last')

/-- The history a block leaves (R411). -/
def historyAfter (fresh : Bool) (history filt : List Byte) : List Byte := (filt.reverse ++ if fresh then [] else history).take 65536

/-- The uncompressed content of a block of records: the block prefix and the records (R405). -/
def blockContent (recs : List Rec) : List Byte :=
  le 4 ((recs.head?.map fun (x : Rec) => x.seq).getD 0) ++ le 2 recs.length ++ zeros 2 ++ recs.flatMap fun (x : Rec) => x.bytes

/-- The filtered content of a block (R408). -/
def Block.filtered (b : Block) : List Byte := prefilter b.pf (blockContent b.recs)

/-- The record sequences of a block. -/
def Block.seqs (b : Block) : List Nat := b.recs.map fun (x : Rec) => x.seq

/-- Offer of a block's first record (R383). -/
def Block.first (b : Block) : Nat := (b.recs.head?.map fun (x : Rec) => x.at_).getD 0

/-- Every byte of a block may leave the engine: it is written whole, and its check has completed (R418, R420). -/
def Block.ready (b : Block) : Bool := b.checked && b.wrote == b.bytes.length

/-- Write a block from the context it follows; answers it with the history and the last distance it leaves (R403, R411, R417, R419). -/
def Block.write (b : Block) (hist : List Byte) (last : Option Nat) : Block × List Byte × Option Nat :=
  let h := if b.fresh then [] else hist
  let l := if b.fresh then none else last
  let filt := b.filtered
  let (bytes, raw, out) :=
    if b.fallback then
      (blockHeader (9 + bnat (!b.fresh) * 2 + bnat (b.pf != 0) * 4 + b.pf * 16) b.stream b.seq filt.length filt.length ++ filt ++
        le 4 (crc32c (unfilter b.pf filt)), true, l)
    else formBlock b.stream b.seq b.pf b.fresh hist last filt
  ({ b with hist := h, last := l, lastOut := out, bytes := bytes, wrote := 0, checked := raw }, historyAfter b.fresh hist filt, out)

/-- What the blocks of a stream leave behind them, after some were changed. -/
structure Reformed where
  blocks : List Block
  fresh : Bool              -- the next block starts a fresh history
  opens : Bool              -- the next block is the first of its generation
  lost : Nat                -- records lost before discarded blocks, carried to the next (R385)
  hist : List Byte
  last : Option Nat
deriving DecidableEq, Repr

/-- Change the blocks of a stream that no datagram holds yet: `f` answers a block as it shall be, none discards it. Every block behind a change
is written again from the context it then follows; the first one behind a discarded block takes that block's fresh history, and the first one
behind a fallback starts one (R417 – R419, R424). `ch` tells that a change lies ahead. -/
def reform (f : Block → Option Block) : Bool → Reformed → List Block → Reformed
  | _, c, [] => { c with blocks := c.blocks.reverse }
  | ch, c, b :: bs =>
    let hist := if ch then c.hist else b.hist
    let last := if ch then c.last else b.last
    if 0 < b.sent then
      reform f false { c with blocks := b :: c.blocks, fresh := b.fallback, hist := historyAfter b.fresh b.hist b.filtered, last := b.lastOut } bs
    else match f b with
      | none => reform f true { c with fresh := c.fresh || b.fresh, opens := c.opens || b.opens, lost := c.lost + b.lost, hist := hist, last := last } bs
      | some b' =>
        let b' := { b' with fresh := b'.fresh || c.fresh, opens := b'.opens || c.opens, lost := b'.lost + c.lost }
        if !ch && b' == b then
          reform f false { c with blocks := b :: c.blocks, fresh := b.fallback, opens := false, lost := 0,
                                  hist := historyAfter b.fresh b.hist b.filtered, last := b.lastOut } bs
        else
          let (w, h, l) := b'.write hist last
          reform f true ⟨w :: c.blocks, b'.fallback, false, 0, h, l⟩ bs

/-- The blocks of a stream changed (R417 – R419, R424). -/
def StreamSt.reform (m : StreamSt) (f : Block → Option Block) : StreamSt :=
  match m.blocks with
  | [] => m
  | b :: _ =>
    let c := Machine.reform f false ⟨[], false, false, 0, b.hist, b.last⟩ m.blocks
    { m with blocks := c.blocks, reset := m.reset || c.fresh, opens := m.opens || c.opens, lostIn := m.lostIn + c.lost,
             history := c.hist, lastDist := c.last }

/-! Tokens are atomic (R420) -/

/-- Bytes of an extension from its first on (R409). -/
def extSize : List Byte → Nat
  | [] => 0
  | b :: bs => if b.toNat < 255 then 1 else 1 + extSize bs

/-- Size of the token at the front of a payload (R409). -/
def tokenSize (bs : List Byte) : Nat :=
  match bs with
  | [] => 0
  | t :: rest =>
    let op := t.toNat / 64
    let f := t.toNat % 64
    let e := if f = 63 then extSize rest else 0
    match op with
    | 0 => 1 + e + (match readLen f 0 63 rest with | some (n, _) => n | none => 0)
    | 1 => 2
    | 2 => 1 + e + 2
    | _ => 1 + e

/-- Size of what is written next of a block whole or not at all: the header, a token, the trailer; a RAW payload goes byte by byte (R420). -/
def Block.nextUnit (b : Block) : Nat :=
  if b.wrote = 0 then 16
  else if b.bytes.length < b.wrote + 5 then b.bytes.length - b.wrote
  else if bit (leAt b.bytes 3 1) 0 then 1
  else min (max 1 (tokenSize (b.bytes.drop b.wrote))) (b.bytes.length - 4 - b.wrote)

/-- Write what fits of a block into `room` bytes, unit by unit (R420). The first argument bounds the units. -/
def Block.put : Nat → Nat → Block → Block
  | 0, _, b => b
  | k + 1, room, b =>
    let left := b.bytes.length - b.wrote
    if left ≤ room then { b with wrote := b.bytes.length }
    else if b.nextUnit ≤ room then Block.put k (room - b.nextUnit) { b with wrote := b.wrote + b.nextUnit }
    else b

/-! Packing stream bytes into datagrams (R421, R422) -/

/-- What a datagram takes from the blocks of a stream. -/
structure Packed where
  body : List Byte
  rest : List Block         -- the blocks left
  recs : List Nat           -- records of the blocks with a byte in it
  lost : Nat                -- records lost before the engine that they follow
  block : Nat               -- number of the last block with a byte in it
  offset : Nat              -- stream offset behind it
  outs : List (Nat × Nat)   -- engines, and the bytes that leave them
deriving DecidableEq, Repr

/-- Bytes of ready blocks not yet packed, up to `n`, in order; `off` is the stream offset, which a generation's first block restarts (R421, R422). -/
def takeBlocks : Nat → Nat → List Block → Packed
  | _, off, [] => ⟨[], [], [], 0, 0, off, []⟩
  | n, off, b :: bs =>
    if n = 0 || !b.ready then ⟨[], b :: bs, [], 0, 0, off, []⟩
    else
      let off := if b.opens && b.sent == 0 then 0 else off
      let part := (b.bytes.drop b.sent).take n
      let lost := if b.sent = 0 then b.lost else 0
      if b.sent + part.length = b.bytes.length then
        let p := takeBlocks (n - part.length) (off + part.length) bs
        { p with
          body := part ++ p.body, recs := b.seqs ++ p.recs, lost := lost + p.lost, block := max b.number p.block,
          outs := (b.engine, part.length) :: p.outs }
      else ⟨part, { b with sent := b.sent + part.length } :: bs, b.seqs, lost, b.number, off + part.length, [(b.engine, part.length)]⟩

/-- The offset within a payload of the first block header that begins in it (R422). -/
def firstHeader : Nat → Nat → List Block → Nat
  | _, _, [] => 0xFFFF
  | n, pos, b :: bs =>
    if n ≤ pos || !b.ready then 0xFFFF
    else if b.sent = 0 then pos
    else firstHeader n (pos + b.bytes.length - b.sent) bs

end Sys2Proof.Machine
end

