-- ==== Sys2Proof/Machine/RingOps.lean ====
section
/-! DEFINITION. The drain of a ring: packing, closing, numbering and moving datagrams (R386 – R389, R394). -/
namespace Sys2Proof.Machine

/-- The links of a ring's mask (R388). Ring 11 has no mask: each response leaves on the link of its command. -/
def State.maskLinks (s : State) (r : Fin 16) : List (Fin 8) :=
  if r.val = 12 then []
  else (List.finRange 8).filter fun (x : Fin 8) => bit (s.rd (.RING_CFG_Links r)) x

/-- A loopback or PRBS mode is active on a link (R529). -/
def State.linkTest (s : State) (x : Fin 8) : Bool :=
  s.rd (.LINK_TEST_Loop x) != 0 || s.on (.LINK_TEST_PrbsGen x) || s.on (.LINK_TEST_PrbsCheck x)

/-- A link is UP for transmission: PLL-E runs, the PCS holds lock (R393) and no test mode is active (R529). -/
def State.linkUp (s : State) (x : Fin 8) : Bool :=
  s.on (.LINK_CFG_Enable x) && !s.linkTest x && (s.links.get x).lock && bit (s.rd .CLK_STATUS_Locked) 4

/-- A link of a mask is usable while it is enabled and neither STALLED nor STOPPED (R388). -/
def State.usable (s : State) (x : Fin 8) : Bool :=
  s.on (.LINK_CFG_Enable x) && !(s.links.get x).stalled && !(s.links.get x).stopped

/-- A link stands in the state UP, neither PAUSED nor DOWN (R388, R393). -/
def State.linkFree (s : State) (x : Fin 8) : Bool := s.linkUp x && (s.links.get x).pauseEnd.isNone

/-- The failover link of a ring, when it is usable (R388, R394). -/
def State.failoverUsable (s : State) (r : Fin 16) : Option (Fin 8) :=
  let x : Fin 8 := fin 7 (s.rd (.RING_CFG_Failover r))
  if s.on (.RING_CFG_FailEn r) && s.usable x then some x else none

/-- The failover link of a ring, when it is UP and can take the ring's datagrams (R394). DESIGN CHOICE, unsafe: log 99. -/
def State.failover (s : State) (r : Fin 16) : Option (Fin 8) := (s.failoverUsable r).filter s.linkFree

/-- Every enabled link of a ring's mask is STALLED or STOPPED, and there is one (R394, R489). -/
def State.allStalled (s : State) (r : Fin 16) : Bool :=
  let on := (s.maskLinks r).filter fun (x : Fin 8) => s.on (.LINK_CFG_Enable x)
  !on.isEmpty && on.all fun x => !s.usable x

/-- The links that may take a new datagram of a ring: the usable links of its mask, or its failover (R388, R394). -/
def State.targets (s : State) (r : Fin 16) : List (Fin 8) :=
  let us := (s.maskLinks r).filter s.usable
  if !us.isEmpty then us
  else if s.allStalled r then (s.failover r).toList
  else []

/-- Datagrams of a ring queued on a link. -/
def State.queuedOf (s : State) (r : Fin 16) (x : Fin 8) : Nat :=
  ((s.links.get x).queue.filter fun d => d.ring == r.val).length

/-- A link has room for a datagram of a ring: fewer than two queued (R388). -/
def State.linkRoom (s : State) (r : Fin 16) (x : Fin 8) : Bool := decide (s.queuedOf r x < 2)

/-- Bytes queued on a link. -/
def State.queuedBytes (s : State) (x : Fin 8) : Nat :=
  (s.links.get x).queue.foldl (fun n d => n + 32 + d.body.length) 0

/-- The link with the fewest bytes queued, ties to the lower number (R388). -/
def State.leastQueued (s : State) : List (Fin 8) → Option (Fin 8)
  | [] => none
  | x :: xs =>
    match s.leastQueued xs with
    | none => some x
    | some y => if s.queuedBytes y < s.queuedBytes x then some y else some x

/-- The link a new datagram of a ring goes to (R388). -/
def State.chooseLink (s : State) (r : Fin 16) : Option (Fin 8) :=
  let room := (s.targets r).filter (s.linkRoom r)
  match s.leastQueued (room.filter s.linkFree) with
  | some x => some x
  | none => s.leastQueued room

/-- H of R386. DESIGN CHOICE, unsafe: log 42. -/
def State.ipHeader (s : State) (x : Fin 8) : Nat := if s.on (.LINK_CFG_Ipv6 x) then 40 else 20

/-- P of a link (R386). -/
def State.maxPayload (s : State) (x : Fin 8) : Nat :=
  s.rd (.LINK_FRAME_FrameMax x) - 18 - 4 * s.rd (.LINK_CFG_Tag x) - s.ipHeader x - 8

/-- F of a link (R386). -/
def State.overhead (s : State) (x : Fin 8) : Nat := 46 + 4 * s.rd (.LINK_CFG_Tag x) + s.ipHeader x

/-- The smallest of a list of sizes. -/
def minList : List Nat → Nat
  | [] => 0
  | [x] => x
  | x :: y :: xs => min x (minList (y :: xs))

/-- The link a response record of ring 11 leaves on (R392, R500). -/
def respLink (r : Rec) : Fin 8 := fin 7 ((r.bytes.getD 19 0).toNat)

/-- The next record of a ring to reach its drain: from its body, or straight from the head of a ring without a body (R376). -/
def State.nextRec (s : State) (r : Fin 16) : Option Rec :=
  let g := s.rings.get r
  if s.bodySize r = 0 then g.head.head?.map (s.slotRec (headArea r))
  else if s.bodyOpen then g.body.head?.map (s.slotRec (s.bodyArea r))
  else none

/-- Remove the next record of a ring. -/
def State.dropNext (s : State) (r : Fin 16) : State :=
  if s.bodySize r = 0 then s.updRing r fun g => { g with head := g.head.drop 1 }
  else (s.updRing r fun g => { g with body := g.body.drop 1 }).fillBody r

/-- The ring manager has read the next record of a ring, and removes it. -/
def State.takeNext (s : State) (r : Fin 16) : State :=
  let g := s.rings.get r
  let (a, xs) := if s.bodySize r = 0 then (headArea r, g.head) else (s.bodyArea r, g.body)
  (match xs with | x :: _ => s.slotFetched a x | [] => s).dropNext r

/-- P_r of a ring (R386). -/
def State.ringPayload (s : State) (r : Fin 16) : Nat :=
  if r.val = 11 then
    match s.asmRecs r with
    | x :: _ => s.maxPayload (respLink x)
    | [] => match s.nextRec r with
      | some x => s.maxPayload (respLink x)
      | none => 0
  else
    let f : Fin 8 := fin 7 (s.rd (.RING_CFG_Failover r))
    minList (((s.maskLinks r) ++ (if s.on (.RING_CFG_FailEn r) then [f] else [])).map s.maxPayload)

/-- The destination of a record of ring 11 (R392). -/
def State.respPeer (s : State) (seq : Nat) : Option Peer :=
  match s.host.respPeers.find? (fun (x : Nat × Option Peer) => x.1 == seq) with
  | some x => x.2
  | none => none

/-- Whether a record joins the datagram under assembly (R387, R392): one that follows lost records opens a new datagram, whose Lost counts
them (R48, R385). -/
def State.fits (s : State) (r : Fin 16) (x : Rec) : Bool :=
  let g := s.rings.get r
  decide (32 + slotBytes g.asm + x.bytes.length ≤ s.ringPayload r) &&
    (match g.asm.getLast? with | some y => x.seq == y.seq + 1 | none => true) &&
    (r.val != 11 || (s.asmRecs r).all fun y => respLink y == respLink x && s.respPeer y.seq == s.respPeer x.seq)

/-- The link of the next response datagram: that of the datagram under assembly, or of the next record (R392). -/
def State.responseLink (s : State) : Option (Fin 8) :=
  match s.asmRecs 11 with
  | x :: _ => some (respLink x)
  | [] => (s.nextRec 11).map respLink

/-- The drain may form a datagram: a link can take it, and no moved datagram waits ahead of it (R388, R394). A response datagram needs room on
the link of its command, unless that link will have it discarded (R392). -/
def State.mayForm (s : State) (r : Fin 16) : Bool :=
  (s.rings.get r).moved.isEmpty &&
    (if r.val = 11 then
      match s.responseLink with
      | some k => s.linkRoom r k || !s.linkUp k || !s.usable k
      | none => true
    else !((s.targets r).filter (s.linkRoom r)).isEmpty)

/-- The rings bound to an engine. -/
def State.boundTo (s : State) (e : Fin 8) : List (Fin 16) :=
  (List.finRange 16).filter fun (q : Fin 16) => s.on (.RING_CFG_Crema q) && s.rd (.CREMA_CFG_Engine q) == e.val

/-- The ring whose block an engine works at, or the next in turn that has records waiting, in round-robin order from the ring served last
(R414). -/
def State.engineTurn (s : State) (e : Fin 8) : Option (Fin 16) :=
  let bound := s.boundTo e
  match bound.find? fun (q : Fin 16) => !(s.rings.get q).stream.open_.isEmpty with
  | some q => some q
  | none =>
    ((List.range 16).map fun (k : Nat) => (fin 15 ((s.engs.get e).ring + 1 + k) : Fin 16)).find? fun (q : Fin 16) =>
      bound.contains q && !s.on (.RING_STATE_DrainDrop q) && (s.nextRec q).isSome

/-- A Crema engine takes another record of a ring into its block in progress (R407, R414, R420). -/
def State.engineTakes (s : State) (r : Fin 16) (x : Rec) : Bool :=
  let e : Fin 8 := fin 7 (s.rd (.CREMA_CFG_Engine r))
  !(s.engs.get e).stopped && !(s.engs.get e).stalled && s.engineTurn e == some r &&
    decide (8 + recBytes (s.rings.get r).stream.open_ + x.bytes.length ≤ s.rd (.CREMA_CFG_BlockKiB r) * 16384)

/-- Move one record from a ring into its engine's block in progress (R405, R414). -/
def State.intoEngine (s : State) (r : Fin 16) (x : Rec) : State :=
  let e : Fin 8 := fin 7 (s.rd (.CREMA_CFG_Engine r))
  let s := s.takeNext r
  let s := s.updRing r fun g =>
    let m := g.stream
    { g with next := x.seq + 1,
             stream := { m with open_ := m.open_ ++ [x], openAt := if m.open_.isEmpty then s.xt else m.openAt,
                                lostIn := m.lostIn + (x.seq - g.next) } }
  let s := if (s.engs.get e).ring != r.val ∨ s.rd (.ENG_STATUS_State e) = 0 then
      if (s.engs.get e).ring != r.val then s.inc (.ENG_STATUS_Switches e) 1 else s
    else s
  let s := { s with engs := vupd s.engs e fun g => { g with ring := r.val } }
  let s := (s.wr (.ENG_STATUS_State e) 1).wr (.ENG_STATUS_Ring e) r
  s.inc64 (.ENG_IN_LO_Bytes e) x.bytes.length

/-- One step of a ring's drain: pack the next record, pass it to the engine, or drop it (R387, R394). -/
def State.pumpOne (s : State) (r : Fin 16) : State :=
  match s.nextRec r with
  | none => s
  | some x =>
    if r.val = 12 then s
    else if s.on (.RING_STATE_DrainDrop r) then (s.dropNext r).lose r 1
    else if s.on (.RING_CFG_Crema r) && r.val != 8 && r.val != 11 then
      if s.engineTakes r x then s.intoEngine r x else s
    else if s.mayForm r && s.fits r x then
      ((s.takeNext r).updRing r fun g => { g with asmAt := if g.asm.isEmpty then s.xt else g.asmAt }).putAsm r x
    else s

/-- Repeat a step of the drain. -/
def pumpGo (r : Fin 16) : Nat → State → State
  | 0, s => s
  | k + 1, s => pumpGo r k (s.pumpOne r)

/-- Run a ring's drain as far as it goes. -/
def State.drain (s : State) (r : Fin 16) : State :=
  let s := s.fillBody r
  let g := s.rings.get r
  (pumpGo r (g.head.length + g.body.length) s).checkHigh r

/-- Run the drains of rings 8 and 9 after an alarm was posted; a second time for the RING_HIGH of these rings themselves (R387, R398). -/
def State.settleAlarms (s : State) : State :=
  if s.locked 1 then (((s.drain 8).drain 9).drain 8).drain 9 else s

/-- Raise an alarm with a severity (R397 – R401, R560). -/
def State.raiseSev (s : State) (code sev a0 a1 : Nat) : State := (s.postAlarm code sev a0 a1).settleAlarms

/-- Raise a device alarm (R397). -/
def State.raise (s : State) (code a0 a1 : Nat) : State := s.raiseSev code (severityOf code) a0 a1

/-- Offer waiting summaries to ring 8 while its head takes them (R399). -/
def offerSums : Nat → State → State
  | 0, s => s
  | k + 1, s =>
    match s.alarm.sums with
    | (_, b) :: rest =>
      if s.headRoom 8 b.length then offerSums k ((State.offerCore { s with alarm := { s.alarm with sums := rest } } 8 b).drain 8) else s
    | [] => s

/-- Run a ring's drain as far as it goes; summaries that wait follow where ring 8 has room (R399). It stands while the fabric is frozen
(R431, R433). -/
def State.pump (s : State) (r : Fin 16) : State :=
  if !s.locked 1 then s
  else
    let was := (s.rings.get r).raised
    let s := s.drain r
    let s := if (s.rings.get r).raised = was then s else s.settleAlarms
    if r = 8 then offerSums s.alarm.sums.length s else s

/-- Offer a record to a ring and run its drain (R22, R376, R387). -/
def State.offer (s : State) (r : Fin 16) (bytes : List Byte) : State :=
  let s := s.offerCore r bytes
  ((s.pump r).pump 8)

/-- Datagram flags of R47, CREMA apart. -/
def State.dgFlags (s : State) (r : Fin 16) (x : Fin 8) : Nat :=
  let g := s.rings.get r
  let striped := decide (2 ≤ (s.maskLinks r).length) && r.val != 11
  let viaFail := r.val != 11 && !((s.maskLinks r).contains x)
  bnat striped * 2 + bnat viaFail * 4 + bnat g.start * 8

/-- Update a link. -/
def State.updLink (s : State) (x : Fin 8) (f : LinkSt → LinkSt) : State := { s with links := vupd s.links x f }

/-- Count records of blocks as lost, each once even where its block spans several discarded datagrams (R384, R423). -/
def State.loseBlocks (s : State) (r : Fin 16) (seqs : List Nat) : State :=
  let fresh := seqs.filter fun q => !((s.rings.get r).stream.counted.contains q)
  (s.updRing r fun g => { g with stream := { g.stream with counted := g.stream.counted ++ fresh } }).lose r fresh.length

/-- Change the blocks of a ring's stream that no datagram holds yet. -/
def State.reform (s : State) (r : Fin 16) (f : Block → Option Block) : State :=
  s.updRing r fun g => { g with stream := g.stream.reform f }

/-- The first block behind block `n` of a ring's stream starts a fresh history, unless it has begun to leave (R417). -/
def State.freshBehind (s : State) (r : Fin 16) (n : Nat) : State :=
  let m := (s.rings.get r).stream
  match m.blocks.find? fun (b : Block) => decide (n < b.number) with
  | some b => s.reform r fun (c : Block) => some (if c.number = b.number then { c with fresh := true } else c)
  | none => if m.blockNo ≤ n + 1 then s.updRing r fun g => { g with stream := { g.stream with reset := true } } else s

/-- Discard a numbered datagram on a link: its records count as lost and its sequence is not reused (R384, R385, R423). -/
def State.discardDg (s : State) (x : Fin 8) (d : Dgram) : State :=
  let r : Fin 16 := fin 15 d.ring
  let s := s.inc (.TX_DISCARD_Datagrams x) 1
  if bit d.flags 0 then (s.loseBlocks r d.recs).freshBehind r d.block else s.lose r d.recs.length

/-- Take the ring's next DatagramSeq (R387). -/
def State.takeDgSeq (s : State) (r : Fin 16) : Nat × State :=
  let q := s.rd (.RING_DGSEQ_Next r)
  (q, s.wr (.RING_DGSEQ_Next r) (q + 1))

/-- Close the datagram under assembly of an uncompressed ring: number it and give it to a link (R387, R388, R392). -/
def State.closePlain (s : State) (r : Fin 16) : State :=
  let g := s.rings.get r
  let xs := s.asmRecs r
  match xs with
  | [] => s
  | x :: _ =>
    let target : Option (Fin 8) := if r.val = 11 then some (respLink x) else s.chooseLink r
    match target with
    | none => s
    | some k =>
      let (q, s) := (s.asmFetched r).takeDgSeq r
      let lost := satN 32 (x.seq - g.next)
      let d : Dgram :=
        { ring := r.val, seq := q, pre := le 4 x.seq ++ le 2 xs.length, lost := lost, flags := s.dgFlags r k,
          body := xs.foldl (fun b y => b ++ y.bytes) [], recs := xs.map (fun y => y.seq),
          first := x.at_, peer := if r.val = 11 then s.respPeer x.seq else none, block := 0 }
      let s := s.updRing r fun g =>
        { g with asm := [], next := ((xs.getLast?.map fun y => y.seq).getD 0) + 1, start := false }
      let s := if r.val = 11 then
          { s with host := { s.host with respPeers := s.host.respPeers.filter fun (x : Nat × Option Peer) => !(d.recs.contains x.1) } }
        else s
      if r.val = 11 && (!s.linkUp k || !s.usable k) then s.discardDg k d
      else s.updLink k fun l => { l with queue := l.queue ++ [d] }

/-- Close a datagram of a compressed ring: stream bytes behind the header (R421, R422). -/
def State.closeCrema (s : State) (r : Fin 16) : State :=
  let g := s.rings.get r
  let n := s.ringPayload r - 32
  let p := takeBlocks n g.stream.offset g.stream.blocks
  match s.chooseLink r with
  | none => s
  | some k =>
    if p.body.isEmpty then s
    else
      let (q, s) := s.takeDgSeq r
      let seg := match g.stream.blocks with | b :: _ => if b.opens && b.sent == 0 then 0 else g.stream.offset | [] => 0
      let d : Dgram :=
        { ring := r.val, seq := q, pre := le 4 seg ++ le 2 (firstHeader n 0 g.stream.blocks),
          lost := satN 32 p.lost, flags := 1 + s.dgFlags r k, body := p.body, recs := p.recs,
          first := match g.stream.blocks with | b :: _ => b.first | [] => 0, peer := none, block := p.block }
      let s := s.updRing r fun g =>
        { g with start := false, stream := { g.stream with blocks := p.rest, offset := p.offset % 2 ^ 32 } }
      let s := p.outs.foldl (fun (s : State) (o : Nat × Nat) => s.inc64 (.ENG_OUT_LO_Bytes o.1) o.2) s
      s.updLink k fun l => { l with queue := l.queue ++ [d] }

/-- The target a datagram of a link that stalls moves to (R394). -/
def State.moveTarget (s : State) (r : Fin 16) (from_ : Fin 8) : Option (Fin 8 × Bool) :=
  let us := ((s.maskLinks r).filter s.usable).filter fun x => x != from_
  match s.leastQueued (us.filter s.linkFree) with
  | some x => some (x, false)
  | none => match s.leastQueued us with
    | some x => some (x, false)
    | none => (s.failover r).map fun x => (x, true)

/-- Datagram `d` of a ring precedes `e` by DatagramSeq, which wraps (R47). -/
def Dgram.before (d e : Dgram) : Bool := decide ((e.seq + 2 ^ 32 - d.seq) % 2 ^ 32 < 2 ^ 31)

/-- Put a datagram into a link's queue, ahead of the later ones of its ring (R388). -/
def queueDg (d : Dgram) : List Dgram → List Dgram
  | [] => [d]
  | e :: q => if e.ring = d.ring ∧ d.before e then d :: e :: q else e :: queueDg d q

/-- Put a moved datagram among those of its ring that wait for room, in DatagramSeq order (R394). -/
def waitDg (y : Nat) (d : Dgram) : List (Nat × Dgram) → List (Nat × Dgram)
  | [] => [(y, d)]
  | e :: q => if d.before e.2 then (y, d) :: e :: q else e :: waitDg y d q

/-- Move one queued datagram off a link: it is bound to its target, and waits there for room; FAILOVER tells whether that is the ring's failover
link (R394). -/
def State.moveOne (s : State) (x : Fin 8) (d : Dgram) : State :=
  let r : Fin 16 := fin 15 d.ring
  if d.ring = 11 then s.discardDg x d
  else match s.moveTarget r x with
    | none => s.discardDg x d
    | some (y, viaFail) =>
      let d := { d with flags := setBit d.flags 2 viaFail }
      s.updRing r fun g => { g with moved := waitDg y d g.moved }

/-- Give moved datagrams that wait for room to their targets, in order: none overtakes an earlier one of its link (R394). -/
def placeMoved (r : Fin 16) : List (Nat × Dgram) → List Nat → State → State
  | [], _, s => s
  | (y, d) :: rest, full, s =>
    let x : Fin 8 := fin 7 y
    if !full.contains y && s.linkRoom r x then placeMoved r rest full (s.updLink x fun l => { l with queue := queueDg d l.queue })
    else placeMoved r rest (y :: full) (s.updRing r fun g => { g with moved := g.moved ++ [(y, d)] })

/-- Give every moved datagram of a ring that has room on its target to it (R394). -/
def State.settleMoved (s : State) (r : Fin 16) : State :=
  placeMoved r (s.rings.get r).moved [] (s.updRing r fun g => { g with moved := [] })

/-- Move every datagram that has not begun off a link: those queued on it and those that wait for room on it (R394). -/
def State.moveQueue (s : State) (x : Fin 8) : State :=
  let ds := (s.links.get x).queue
  let s := ds.foldl (fun s d => s.moveOne x d) (s.updLink x fun l => { l with queue := [] })
  (List.finRange 16).foldl (fun (s : State) (r : Fin 16) =>
    let ws := (s.rings.get r).moved.filter fun (m : Nat × Dgram) => m.1 == x.val
    (ws.foldl (fun (s : State) (m : Nat × Dgram) => s.moveOne x m.2)
      (s.updRing r fun g => { g with moved := g.moved.filter fun (m : Nat × Dgram) => m.1 != x.val })).settleMoved r) s

/-- The drain-by-drop flag of a ring (R394). -/
def State.setDrainDrop (s : State) (r : Fin 16) : State :=
  s.wrB (.RING_STATE_DrainDrop r) (s.allStalled r && (s.failoverUsable r).isNone && r.val != 11 && r.val != 12)

/-- LINK_STATUS.State of a link (R393, R394, R489). -/
def State.linkState (s : State) (x : Fin 8) : Nat :=
  let l := s.links.get x
  if !s.on (.LINK_CFG_Enable x) then 0
  else if l.stopped && l.tx.isNone then 5
  else if l.stalled then 4
  else if !s.linkUp x then 1
  else if l.pauseEnd.isSome then 3
  else 2

/-- After any change of the links: states, held times, drain by drop, moved datagrams, drains (R388, R393, R394). -/
def State.settleLinks (s : State) : State :=
  let s := (List.finRange 8).foldl (fun s x =>
    let l := s.links.get x
    let stuck := l.tx.isNone && !l.queue.isEmpty && (!s.linkUp x || l.pauseEnd.isSome) && s.on (.LINK_CFG_Enable x)
    let able := s.linkUp x && l.pauseEnd.isNone
    (s.updLink x fun l =>
      { l with heldFrom := if stuck then (match l.heldFrom with | some t => some t | none => some s.xt) else none,
               ableFrom := if l.stalled && able then (match l.ableFrom with | some t => some t | none => some s.xt) else none }
      ).wr (.LINK_STATUS_State x) (s.linkState x)) s
  (List.finRange 16).foldl (fun s r => (((s.setDrainDrop r).settleMoved r).pump r)) s

end Sys2Proof.Machine
end

