-- ==== Sys2Proof/Machine/EpochOps.lean ====
section
/-! DEFINITION. Epochs: which function owns a class C register, and what a function's own boundary does to the
register file (R37, R40, R558). -/
namespace Sys2Proof.Machine

/-- A register that switches at T_c itself (R37): it belongs to no function with a boundary of its own. DESIGN CHOICE, unsafe: log 41. -/
def fnNone : Nat := 255

/-- The function whose boundary applies a class C register (R37). -/
def ownerOf (a : Nat) : Nat :=
  if 0x100000 ≤ a ∧ a < 0x140000 then fnPort ((a - 0x100000) / 0x10000)
  else if 0x300000 ≤ a ∧ a < 0x308000 then fnLidar
  else if 0x310000 ≤ a ∧ a < 0x350000 then fnLidar
  else if (0x200000 ≤ a ∧ a < 0x200100) ∨ (0x201000 ≤ a ∧ a < 0x202400) then fnAux
  else if 0x600000 ≤ a ∧ a < 0x600400 then fnRing ((a - 0x600000) / 0x40)
  else if 0x610000 ≤ a ∧ a < 0x610100 then fnRing ((a - 0x610000) / 0x10)
  else if 0x620000 ≤ a ∧ a < 0x620800 then fnLink ((a - 0x620000) / 0x100)
  else fnNone

/-- The changes of an epoch that a function applies. -/
def ownedBy (fn : Nat) (cs : Sparse Word) : Sparse Word := cs.filter fun c => ownerOf c.1 == fn

/-- Apply staged class C words to the register file. -/
def State.applyChanges (s : State) (cs : Sparse Word) : State := { s with regs := rfOverlay s.regs cs }

/-- The configuration of the newest epoch: the register file with the changes of every epoch that some function has not yet taken. -/
def State.newestRegs (s : State) : RegFile := s.epoch.queue.foldl (fun (r : RegFile) (e : EpochRec) => rfOverlay r e.changes) s.regs

/-- The first epoch a function has not yet taken (R558). -/
def State.nextEpochOf (s : State) (fn : Nat) : Option EpochRec :=
  s.epoch.queue.find? fun e => e.waiting.contains fn

/-- The 0x0901 record (R455). -/
def State.epochRecord (s : State) (e : EpochRec) : List Byte :=
  mkRecord 0x0901 e.num (s.timeFlags e.at_ e.at_) e.tc (le 2 e.num ++ le 1 e.cause ++ zeros 5 ++ le 8 e.lastSwitch)

/-- Emit the epoch records of the oldest epochs that every running function has reached, in epoch order; clear Applying
when the newest epoch is among them (R40, R558). -/
def emitEpochs : List EpochRec → State → State
  | [], s => { s with epoch := { s.epoch with queue := [] } }
  | e :: es, s =>
    if e.waiting.isEmpty then
      let s := s.offer 13 (s.epochRecord e)
      let s := if es.isEmpty then (s.wr .EPOCH_STATUS_Applying 0).wr .ALERT_EVENT_EpochApplied 1 else s
      emitEpochs es s
    else { s with epoch := { s.epoch with queue := e :: es } }

/-- Remove a function from the waiting list of an epoch. -/
def EpochRec.taken (fn at_ : Nat) (e : EpochRec) : EpochRec :=
  if e.waiting.contains fn then { e with waiting := e.waiting.filter (· != fn), lastSwitch := at_ } else e

/-- Take the first epoch that a function waits in: its own registers switch (R37, R558). -/
def State.takeEpoch (s : State) (fn at_ : Nat) : State :=
  match s.nextEpochOf fn with
  | none => s
  | some e =>
    let s := s.applyChanges (ownedBy fn e.changes)
    let q := s.epoch.queue.map fun x => if x.num == e.num then x.taken fn at_ else x
    emitEpochs q s

/-- Take every epoch a function waits in: what a function that stops does at that instant (R558). -/
def State.takeAllEpochs (s : State) (fn at_ : Nat) : State :=
  (List.range s.epoch.queue.length).foldl (fun s _ => s.takeEpoch fn at_) s

end Sys2Proof.Machine
end

