-- ==== Sys2Proof/Machine/Crema.lean ====
section
/-! DEFINITION. Crema: closing a block, its check, and the engines' commands (R403 – R424). -/
namespace Sys2Proof.Machine

/-- Whether the next block of a stream starts a fresh history (R417). -/
def State.freshHistory (s : State) (r : Fin 16) : Bool :=
  let m := (s.rings.get r).stream
  let seq := s.rd (.CREMA_BLKSEQ_Next r)
  let every := s.rd (.CREMA_CFG_ResetBlocks r)
  m.reset || seq == 0 || (every != 0 && seq % every == 0) || m.pfMode != s.rd (.CREMA_CFG_PfMode r)

/-- Bytes of an engine's output buffer in use (R420). -/
def State.engineHeld (s : State) (e : Fin 8) : Nat :=
  (List.finRange 16).foldl (fun (n : Nat) (q : Fin 16) =>
    n + (s.rings.get q).stream.blocks.foldl
      (fun (m : Nat) (b : Block) => if b.engine == e.val then m + (b.wrote - b.sent) else m) 0) 0

/-- A block of an engine that its output buffer does not yet hold whole, on some ring. -/
def State.engineWaits (s : State) (e : Fin 8) : Bool :=
  (List.finRange 16).any fun (q : Fin 16) =>
    (s.rings.get q).stream.blocks.any fun (b : Block) => b.engine == e.val && decide (b.wrote < b.bytes.length)

/-- Write an engine's blocks of a stream into its output buffer while they fit, in order (R420). Answers them with the room left; none is left
behind a block that does not fit. -/
def putBlocks (e : Nat) : Nat → List Block → List Block × Nat
  | room, [] => ([], room)
  | room, b :: bs =>
    if b.engine = e ∧ b.wrote < b.bytes.length then
      let b' := b.put b.bytes.length room
      let left := if b'.wrote = b.bytes.length then room - (b'.wrote - b.wrote) else 0
      let (rest, r) := putBlocks e left bs
      (b' :: rest, r)
    else
      let (rest, r) := putBlocks e room bs
      (b :: rest, r)

/-- Write what fits of an engine's blocks into its output buffer; the engine stalls while one does not fit (R420). -/
def State.fillOut (s : State) (e : Fin 8) : State :=
  let (s, _) := (List.finRange 16).foldl (fun (x : State × Nat) (q : Fin 16) =>
    let (bs, room) := putBlocks e x.2 (x.1.rings.get q).stream.blocks
    (x.1.updRing q fun g => { g with stream := { g.stream with blocks := bs } }, room)) (s, 524288 - s.engineHeld e)
  let wait := s.engineWaits e
  let s := { s with engs := vupd s.engs e fun g => { g with stalled := wait && !g.stopped } }
  if (s.engs.get e).stopped then s else if wait then s.wr (.ENG_STATUS_State e) 2 else s

/-- A block of the ring whose check has not completed. -/
def State.unchecked (s : State) (r : Fin 16) : Bool := (s.rings.get r).stream.blocks.any fun b => !b.checked

/-- Close the block in progress of a ring (R405, R407, R417, R420): it is written from the stream's context, under the settings of this instant.
Its tokens are produced as it closes. DESIGN CHOICE, unsafe: log 133. -/
def State.closeBlock (s : State) (r : Fin 16) : State :=
  let m := (s.rings.get r).stream
  let e : Fin 8 := fin 7 (s.rd (.CREMA_CFG_Engine r))
  if m.open_.isEmpty || (s.engs.get e).stopped then s
  else
    let pf := s.rd (.CREMA_CFG_PfMode r)
    let b : Block :=
      { recs := m.open_, stream := r.val + 16 * s.rd (.CREMA_STREAM_Generation r), seq := s.rd (.CREMA_BLKSEQ_Next r), pf := pf,
        fresh := s.freshHistory r, fallback := false, opens := m.opens, hist := [], last := none, lastOut := none, bytes := [], wrote := 0,
        sent := 0, checked := false, engine := e.val, lost := m.lostIn, number := m.blockNo }
    let (b, hist, last) := b.write m.history m.lastDist
    let s := s.updRing r fun g =>
      { g with stream := { m with open_ := [], blocks := m.blocks ++ [b], reset := false, opens := false, lostIn := 0, pfMode := pf,
                                  history := hist, lastDist := last, blockNo := m.blockNo + 1 } }
    let s := s.wr (.CREMA_BLKSEQ_Next r) (s.rd (.CREMA_BLKSEQ_Next r) + 1)
    let s := if b.checked then s.inc (.CREMA_RAW_RawBlocks r) 1 else s
    (s.wr (.ENG_STATUS_State e) 0).fillOut e

/-- Let an engine serve the rings bound to it in round-robin order, from the ring after the one it served (R414). -/
def State.serve (s : State) (e : Fin 8) : State :=
  (List.range 16).foldl (fun s k =>
    let r : Fin 16 := fin 15 ((s.engs.get e).ring + 1 + k)
    if (s.boundTo e).contains r then s.pump r else s) s

/-- Begin a generation of a ring's stream (R406). -/
def State.newGeneration (s : State) (r : Fin 16) : State :=
  let m := (s.rings.get r).stream
  let gen := if m.started then (s.rd (.CREMA_STREAM_Generation r) + 1) % 4096 else 0
  let s := (s.wr (.CREMA_STREAM_Generation r) gen).wr (.CREMA_BLKSEQ_Next r) 0
  s.updRing r fun g => { g with stream := { m with started := true, opens := true, reset := true, history := [], lastDist := none } }

/-- A ring's datagram boundary (R37, R416): the block in progress closes under the old Crema settings when they change,
the ring's registers switch, and a stream that Crema turns on begins a generation (R406). -/
def State.ringBoundary (s : State) (r : Fin 16) : State :=
  match s.nextEpochOf (fnRing r) with
  | none => s
  | some e =>
    let was := s.on (.RING_CFG_Crema r)
    let t := rfOverlay s.regs (ownedBy (fnRing r) e.changes)
    let a := (Fld.CREMA_CFG_Engine r).addr
    let touches := rfWord t a != rfWord s.regs a || rfRd t (.RING_CFG_Crema r) != rfRd s.regs (.RING_CFG_Crema r)
    let s := if was && touches then s.closeBlock r else s
    let s := s.takeEpoch (fnRing r) s.now
    let s := s.updRing r fun g => { g with raised := false }
    if !was && s.on (.RING_CFG_Crema r) then s.newGeneration r else s

/-- BLOCK_CLOSE: an engine closes the block of a ring, when the next record would take it beyond BlockKiB, or the ring
is DRAINING and the engine holds no further record of it (R407). -/
def execBlockClose (r : Fin 16) (s : State) : Out :=
  if !s.locked 1 then .next s else
  let m := (s.rings.get r).stream
  let e : Fin 8 := fin 7 (s.rd (.CREMA_CFG_Engine r))
  let big := match s.nextRec r with
    | some x => decide (s.rd (.CREMA_CFG_BlockKiB r) * 16384 < 8 + recBytes m.open_ + x.bytes.length)
    | none => s.rd (.RING_STATE_State r) == 2
  if m.open_.isEmpty || !big then .next s
  else .next ((s.closeBlock r).serve e)

/-- BLOCK_FLUSH_TIMEOUT: the block's first record has waited FlushUs in the engine (R407). -/
def execBlockFlushTimeout (r : Fin 16) (s : State) : Out :=
  if !s.locked 1 then .next s else
  let m := (s.rings.get r).stream
  let e : Fin 8 := fin 7 (s.rd (.CREMA_CFG_Engine r))
  if m.open_.isEmpty || !s.due (m.openAt + s.rd (.RING_AGE_FlushUs r) * 1000) then .next s
  else .next ((s.closeBlock r).serve e)

/-- The oldest block whose check has not completed. -/
def oldestUnchecked (bs : List Block) : Option Block := bs.find? fun (b : Block) => !b.checked

/-- The paired decompressor's check (R418): the tokens of a block, decoded from the history that the block used, against the engine's input.
`upset` is a byte of the payload that was disturbed on its way, and what it was changed by. -/
def Block.verifies (b : Block) (upset : Option (Nat × Byte)) : Bool :=
  let payload := slice b.bytes 16 (b.bytes.length - 20)
  let seen := match upset with
    | some (i, x) => modAt payload i fun (y : Byte) => y ^^^ x
    | none => payload
  match decodeTokens b.hist b.last seen b.filtered.length with
  | .ok (out, _) => out == b.filtered
  | .error _ => false

/-- BLOCK_VERIFY_DONE: the check of the oldest unchecked block of a ring ends, once the output buffer holds the block whole. On a mismatch the
block is stored RAW with VERIFY_FALLBACK, and the blocks behind it follow a fresh history (R417 – R419). -/
def execBlockVerifyDone (r : Fin 16) (upset : Option (Nat × Byte)) (s : State) : Out :=
  if !s.locked 1 then .next s else
  match oldestUnchecked (s.rings.get r).stream.blocks with
  | none => .next s
  | some b =>
    let e : Fin 8 := fin 7 b.engine
    if b.wrote < b.bytes.length then .next s
    else if b.verifies upset then
      let s := s.updRing r fun g =>
        { g with stream := { g.stream with blocks := g.stream.blocks.map fun (c : Block) => if c.number = b.number then { c with checked := true } else c } }
      .next ((s.pump r).serve e)
    else
      let was := ((s.rings.get r).stream.blocks.filter fun (c : Block) => c.checked).length
      let s := s.reform r fun (c : Block) => some (if c.number = b.number then { c with fallback := true } else c)
      let raws := ((s.rings.get r).stream.blocks.filter fun (c : Block) => c.checked).length - was
      let s := (s.inc (.CREMA_RAW_Fallbacks r) 1).inc (.CREMA_RAW_RawBlocks r) raws
      let s := (s.raise 0x0510 e r).fillOut e
      .next ((s.pump r).serve e)

/-- ENGINE_RESUME: room appears in a stalled engine's output buffer: what waits is written, and the engine resumes once it all is (R420). -/
def execEngineResume (e : Fin 8) (s : State) : Out :=
  if !s.locked 1 then .next s else
  if (s.engs.get e).stalled then
    let s := s.fillOut e
    if (s.engs.get e).stalled then .next s else .next ((s.wr (.ENG_STATUS_State e) 0).serve e)
  else .next s

/-- Blocks of an engine that no datagram holds yet are discarded, and their records counted lost (R424). -/
def State.dropBlocks (s : State) (e : Fin 8) (r : Fin 16) : State :=
  let gone := (s.rings.get r).stream.blocks.filter fun (b : Block) => b.engine == e.val && b.sent == 0
  (s.loseBlocks r (gone.flatMap Block.seqs)).reform r fun (b : Block) => if b.engine = e.val then none else some b

/-- ABORT of an engine: the block in progress and every block not yet in a numbered datagram are discarded and counted
lost; contexts are kept; the next block of each of its rings starts a fresh history (R417, R424). -/
def State.abortEngine (s : State) (e : Fin 8) : State :=
  let s := (List.finRange 16).foldl (fun (s : State) (r : Fin 16) =>
    let s := s.dropBlocks e r
    if s.rd (.CREMA_CFG_Engine r) == e.val then
      let n := (s.rings.get r).stream.open_.length
      (s.updRing r fun g => { g with stream := { g.stream with open_ := [], reset := true } }).lose r n
    else s) s
  ({ s with engs := vupd s.engs e fun g => { g with stopped := true, stalled := false } }).wr (.ENG_STATUS_State e) 3

end Sys2Proof.Machine
end

