-- ==== Sys2Proof/Machine/Links.lean ====
section
/-! DEFINITION. The commands of rings and links: datagrams, frames, flow control, stalls (R383 – R394, R489, R559). -/
namespace Sys2Proof.Machine

/-! Closing datagrams -/

/-- Close the next datagram of a ring and pass its datagram boundary (R37, R387, R421); blocks of the stream go before records packed since Crema
went off (R416). Nothing passes where no link takes a datagram. -/
def State.closeDatagram (s : State) (r : Fin 16) : State :=
  let g := s.rings.get r
  let t := if g.stream.blocks.isEmpty then s.closePlain r else s.closeCrema r
  if t.rd (.RING_DGSEQ_Next r) = s.rd (.RING_DGSEQ_Next r) then s else ((t.ringBoundary r).settleLinks).pump r

/-- A datagram of the ring is full, or the ring is DRAINING and holds nothing more (R387, R421). -/
def State.dgFull (s : State) (r : Fin 16) : Bool :=
  let g := s.rings.get r
  match g.stream.blocks with
  | b :: _ => b.ready
  | [] =>
    if g.asm.isEmpty then false
    else match s.nextRec r with
      | some x => !s.fits r x
      | none => s.rd (.RING_STATE_State r) == 2

/-- DATAGRAM_CLOSE: the drain closes a datagram, numbers it and gives it to a link (R387, R388). -/
def execDatagramClose (r : Fin 16) (s : State) : Out :=
  if !s.locked 1 then .next s else
  if s.dgFull r && s.mayForm r && !s.quieting then .next (s.closeDatagram r) else .next s

/-- FLUSH_TIMEOUT: the first packed record has waited FlushUs (R387). -/
def execFlushTimeout (r : Fin 16) (s : State) : Out :=
  if !s.locked 1 then .next s else
  let g := s.rings.get r
  if !g.asm.isEmpty && g.stream.blocks.isEmpty && s.due (g.asmAt + s.rd (.RING_AGE_FlushUs r) * 1000) && s.mayForm r && !s.quieting then .next (s.closeDatagram r)
  else .next s

/-- AGE_LIMIT_EXPIRY: every record of a ring not yet in a numbered datagram whose age has reached AgeLimit is discarded
(R383). A record that ages in a block leaves it, and the block and those behind it are written again from the history they then follow, with
HISTORY_CONTINUES as before (R417). Age does not count in QUIESCENT and SUSPEND (R476): records are stamped again when the device leaves them.
DESIGN CHOICE, unsafe: log 105. -/
def execAgeLimitExpiry (r : Fin 16) (s : State) : Out :=
  if !s.locked 1 then .next s else
  if r.val = 12 then .next s
  else
    let lim := s.rd (.RING_AGE_AgeLimit r) * 1000000
    let old := fun (x : Rec) => s.due (x.at_ + lim)
    let g := s.rings.get r
    let oldSlot := fun (x : Slot) => s.due (x.at_ + lim)
    let cnt := fun (xs : List Rec) => (xs.filter old).length
    let keep := fun (xs : List Rec) => xs.filter fun x => !old x
    let cntS := fun (xs : List Slot) => (xs.filter oldSlot).length
    let keepS := fun (xs : List Slot) => xs.filter fun x => !oldSlot x
    let unsent := fun (s : State) => ((s.rings.get r).stream.blocks.filter fun (b : Block) => b.sent == 0).foldl (fun (n : Nat) (b : Block) => n + b.recs.length) 0
    let s := s.updRing r fun g =>
      { g with head := keepS g.head, body := keepS g.body, asm := keepS g.asm, stream := { g.stream with open_ := keep g.stream.open_ } }
    let n := unsent s
    let s := s.reform r fun (b : Block) => if (keep b.recs).isEmpty then none else some { b with recs := keep b.recs }
    let s := s.lose r (cntS g.head + cntS g.body + cntS g.asm + cnt g.stream.open_ + (n - unsent s))
    let s := (List.finRange 8).foldl (fun (s : State) (e : Fin 8) => if s.engineWaits e then s.fillOut e else s) s
    .next ((s.fillBody r).pump r)

/-- DATAGRAM_AGE_EXPIRY: numbered datagrams of a link that have not begun 200 ms after their first record's offer are
discarded, and so are those that wait for room on it (R383, R394). -/
def execDatagramAgeExpiry (x : Fin 8) (s : State) : Out :=
  let old := fun (d : Dgram) => s.due (d.first + 200000000)
  let gone := (s.links.get x).queue.filter old
  let s := s.updLink x fun l => { l with queue := l.queue.filter fun d => !old d }
  let s := gone.foldl (fun s d => s.discardDg x d) s
  let s := (List.finRange 16).foldl (fun (s : State) (r : Fin 16) =>
    let out := (s.rings.get r).moved.filter fun m => m.1 == x.val && old m.2
    out.foldl (fun s m => s.discardDg x m.2)
      (s.updRing r fun g => { g with moved := g.moved.filter fun m => !(m.1 == x.val && old m.2) })) s
  .next s.settleLinks

/-! Frames (R389 – R391) -/

/-- A MAC address held in a pair of registers, first byte on the wire first. -/
def State.macAt (s : State) (lo hi : Fld) : List Byte := le 4 (s.rd lo) ++ le 2 (s.rd hi)

/-- The bytes of an IP address group: 4 for IPv4, 16 for IPv6. -/
def State.ipAt (s : State) (x : Fin 8) (f : Nat → Fld) : List Byte :=
  let n := if s.on (.LINK_CFG_Ipv6 x) then 4 else 1
  (List.range n).foldl (fun b k => b ++ le 4 (s.rd (f k))) []

/-- The datagram payload: the 32-byte header of R47 and R422, then its body. -/
def State.payload (s : State) (d : Dgram) : List Byte :=
  le 2 0x5A49 ++ le 1 1 ++ le 1 d.ring ++ le 2 (s.rd .DEVICE_ID_ArrayId) ++ le 2 (s.rd .DEVICE_ID_DeviceId) ++
    le 4 d.seq ++ d.pre ++ le 2 d.flags ++ le 4 d.lost ++ le 8 s.now ++ d.body

/-- The UDP packet: ports, length, checksum over the pseudo header where it is computed (R390). -/
def udpPacket (v6 csum : Bool) (src dst : List Byte) (sp dp : Nat) (body : List Byte) : List Byte :=
  let len := 8 + body.length
  let pseudo := src ++ dst ++ (if v6 then be 4 len ++ zeros 3 ++ be 1 17 else zeros 1 ++ be 1 17 ++ be 2 len)
  let c := inetSum (pseudo ++ be 2 sp ++ be 2 dp ++ be 2 len ++ zeros 2 ++ body)
  let c := if c = 0 then 65535 else c
  be 2 sp ++ be 2 dp ++ be 2 len ++ be 2 (if csum || v6 then c else 0) ++ body

/-- The frame of a datagram on a link (R390, R391, R392). `ident` fills the IPv4 identification and the IPv6 flow label,
which the spec leaves open. -/
def State.frameOf (s : State) (x : Fin 8) (d : Dgram) (ident : Nat) : List Byte :=
  let v6 := s.on (.LINK_CFG_Ipv6 x)
  let own := s.ipAt x (fun k => .SRC_IP_Addr x k)
  let (mac, ip, sp, dp) := match d.peer with
    | some p => (p.mac, p.ip, s.rd (.LINK_CMD_CmdPort x), p.port)
    | none => (s.macAt (.DST_MAC_LO_Mac x) (.DST_MAC_HI_Mac x), s.ipAt x (fun k => .DST_IP_Addr x k),
               s.rd (.LINK_PORTS_SrcPort x), s.rd (.LINK_PORTS_DstPort x))
  let udp := udpPacket v6 (s.on (.LINK_CFG_UdpCsum x)) own ip sp dp (s.payload d)
  let tos := s.rd (.LINK_FRAME_Dscp x) * 4
  let ipHead :=
    if v6 then be 4 (6 * 2 ^ 28 + tos * 2 ^ 20 + ident % 2 ^ 20) ++ be 2 udp.length ++ be 1 17 ++ be 1 64 ++ own ++ ip
    else
      let h0 := be 1 0x45 ++ be 1 tos ++ be 2 (20 + udp.length) ++ be 2 (ident % 65536) ++ be 2 0x4000 ++ be 1 64 ++ be 1 17
      h0 ++ be 2 (inetSum (h0 ++ zeros 2 ++ own ++ ip)) ++ own ++ ip
  let tag := if s.on (.LINK_CFG_Tag x) then be 2 0x8100 ++ be 2 (s.rd (.LINK_CFG_Pcp x) * 8192 + s.rd (.LINK_CFG_Vid x)) else []
  let f := mac ++ s.macAt (.LINK_MAC_LO_Mac x) (.LINK_MAC_HI_Mac x) ++ tag ++ be 2 (if v6 then 0x86DD else 0x0800) ++ ipHead ++ udp
  f ++ le 4 (crc32 f)

/-- The first queued datagram of a ring on a link. -/
def firstOf (q : List Dgram) (r : Nat) : Option Dgram := q.find? fun d => d.ring == r

/-- The rings of the deficit round robin (R389). -/
def drrRings : List Nat := [0, 1, 2, 3, 4, 5, 6, 7, 10, 13, 14, 15]

/-- Deficit round robin (R389): the datagram to send, with the deficits and the ring in turn after it. -/
def drrGo (q : List Dgram) (quantum : Nat → Nat) : Nat → Vector Nat 16 → Nat → Option (Dgram × Vector Nat 16 × Nat)
  | 0, _, _ => none
  | k + 1, def_, r =>
    let i : Fin 16 := fin 15 r
    let nextTurn := fun (d : Vector Nat 16) =>
      let n := (r + 1) % 16
      let j : Fin 16 := fin 15 n
      let d := if (firstOf q n).isSome && drrRings.contains n then vupd d j (fun v => v + quantum n) else vupd d j (fun _ => 0)
      drrGo q quantum k d n
    if !drrRings.contains r then nextTurn def_
    else match firstOf q r with
      | none => nextTurn (vupd def_ i fun _ => 0)
      | some d =>
        let size := 32 + d.body.length
        if size ≤ def_.get i then some (d, vupd def_ i (fun v => v - size), r) else nextTurn def_

/-- The next datagram a link begins, in the order of R389. -/
def State.pickFrame (s : State) (x : Fin 8) : Option (Dgram × Vector Nat 16 × Nat) :=
  let l := s.links.get x
  match firstOf l.queue 11 with
  | some d => some (d, l.deficit, l.drrNext)
  | none => match firstOf l.queue 8 with
    | some d => some (d, l.deficit, l.drrNext)
    | none => match drrGo l.queue (fun r => s.rd (.RING_CFG_Weight r) * 1024) 4096 l.deficit l.drrNext with
      | some p => some p
      | none => if l.queue.all fun d => d.ring == 9 then (firstOf l.queue 9).map fun d => (d, l.deficit, l.drrNext) else none

/-- Remove the first datagram of a ring from a queue. -/
def removeFirst (r : Nat) : List Dgram → List Dgram
  | [] => []
  | d :: q => if d.ring = r then q else d :: removeFirst r q

/-- FRAME_BEGIN: at a frame boundary a link begins its next frame (R387, R389). -/
def execFrameBegin (x : Fin 8) (s : State) : Out :=
  let l := s.links.get x
  if l.tx.isSome || !s.linkUp x || l.pauseEnd.isSome || !s.usable x then .next s
  else match s.pickFrame x with
    | none => .next s
    | some (d, def_, n) =>
      let (v, s) := s.draw
      let bytes := s.frameOf x d v.toNat
      let s := s.updLink x fun l =>
        { l with queue := removeFirst d.ring l.queue, tx := some (d, bytes), deficit := def_, drrNext := n }
      .next s.settleLinks

/-! Switching a link (R37, R559) -/

/-- A link's boundary: its registers switch, and LINK_CFG changes act (R559). -/
def State.linkBoundary (s : State) (x : Fin 8) : State :=
  let was := s.on (.LINK_CFG_Enable x)
  let rate := (s.rd (.LINK_CFG_Rate x), s.rd (.LINK_CFG_Fec x))
  let s := s.takeEpoch (fnLink x) s.now
  let now := s.on (.LINK_CFG_Enable x)
  if was && !now then (s.moveQueue x).updLink x fun l => { l with stalled := false, heldFrom := none, ableFrom := none }
  else if !was && now then s.updLink x fun l => { l with lock := false, rxLock := false }
  else if now && rate != (s.rd (.LINK_CFG_Rate x), s.rd (.LINK_CFG_Fec x)) then
    (s.updLink x fun l => { l with lock := false, rxLock := false }).raise 0x0502 x 0
  else s

/-- Duration of a pause of `q` quanta of 512 bit times, ns, rounded up (R393). -/
def State.pauseNs (s : State) (x : Fin 8) (q : Nat) : Nat :=
  if s.on (.LINK_CFG_Rate x) then ceilDiv (q * 512) 10 else ceilDiv (q * 512) 25

/-- Apply a pause of `q` quanta to a link: 0 resumes at once; the timer runs from the end of the frame in progress; a
newer pause replaces the running one (R393). -/
def State.pauseLink (s : State) (x : Fin 8) (q : Nat) : State :=
  let s := s.updLink x fun l =>
    if q = 0 then { l with pauseEnd := none, pauseNew := none }
    else if l.tx.isSome then { l with pauseNew := some q }
    else { l with pauseEnd := some (s.xt + s.pauseNs x q), pauseNew := none }
  s.settleLinks

/-- A link's frame in progress ends: a pause received during it runs from here, and the link's boundary falls here (R37, R393). -/
def State.frameEnd (s : State) (x : Fin 8) : State :=
  let s := match (s.links.get x).pauseNew with
    | some q => s.updLink x fun l => { l with pauseEnd := some (s.xt + s.pauseNs x q), pauseNew := none }
    | none => s
  s.linkBoundary x

/-- FRAME_COMPLETE: a frame's transmission completes; the link's boundary falls here (R37, R389, R393). -/
def execFrameComplete (x : Fin 8) (s : State) : Out :=
  match (s.links.get x).tx with
  | none => .next s
  | some _ =>
    let s := (s.updLink x fun l => { l with tx := none }).inc64 (.TX_FRAMES_LO_Frames x) 1
    .next (s.frameEnd x).settleLinks

/-- A link receives frames from its partner: enabled, receive lock held, not STOPPED, PLL-E running (R392, R489). Under a near-end loopback its
receiver takes its own transmission, and with the checker on it takes the pattern (R527). DEDUCED, unsafe: log 134. -/
def State.receives (s : State) (x : Fin 8) : Bool :=
  let l := s.links.get x
  let loop := s.rd (.LINK_TEST_Loop x)
  s.on (.LINK_CFG_Enable x) && l.rxLock && !(l.stopped && l.tx.isNone) && bit (s.rd .CLK_STATUS_Locked) 4 &&
    loop != 1 && loop != 2 && !s.on (.LINK_TEST_PrbsCheck x)

/-- PAUSE_FRAME: with Pfc = 0 a received PAUSE stops the link beginning frames for its quanta; with Pfc = 1 it is ignored
(R393). -/
def execPauseFrame (x : Fin 8) (quanta : Nat) (s : State) : Out :=
  if s.receives x && !s.on (.LINK_CFG_Pfc x) then .next (s.pauseLink x quanta) else .next s

/-- PFC_FRAME: with Pfc = 1 a received PFC frame acts for class Pcp only; with Pfc = 0 it is ignored (R393). `enabled` is
the class-enable vector and `quanta` the pause time of class Pcp. -/
def execPfcFrame (x : Fin 8) (enabled : Byte) (quanta : Nat) (s : State) : Out :=
  if s.receives x && s.on (.LINK_CFG_Pfc x) && bit enabled.toNat (s.rd (.LINK_CFG_Pcp x)) then .next (s.pauseLink x quanta)
  else .next s

/-- PAUSE_TIMER_EXPIRY: the pause time runs out (R393). -/
def execPauseTimerExpiry (x : Fin 8) (s : State) : Out :=
  match (s.links.get x).pauseEnd with
  | some t => if s.due t then .next ((s.updLink x fun l => { l with pauseEnd := none }).settleLinks) else .next s
  | none => .next s

/-- LINK_STALLED: a link held for StallMs becomes STALLED and its queued datagrams move (R394). -/
def execLinkStalled (x : Fin 8) (s : State) : Out :=
  let l := s.links.get x
  match l.heldFrom with
  | none => .next s
  | some t =>
    if l.stalled || l.stopped || !s.due (t + s.rd (.LINK_FRAME_StallMs x) * 1000000) then .next s
    else
      let down := !s.linkUp x
      let s := (s.updLink x fun l => { l with stalled := true, heldFrom := none }).inc (.LINK_STATUS_Stalls x) 1
      let s := s.raise 0x0504 x (bnat down)
      .next ((s.moveQueue x).settleLinks)

/-- LINK_RECOVERED: a STALLED link able to begin frames for 1 ms without interruption recovers (R394). -/
def execLinkRecovered (x : Fin 8) (s : State) : Out :=
  let l := s.links.get x
  match l.ableFrom with
  | none => .next s
  | some t =>
    if l.stalled && s.due (t + 1000000) then
      .next (((s.updLink x fun l => { l with stalled := false, ableFrom := none }).raise 0x0505 x 0).settleLinks)
    else .next s

/-- A link's receiver can hold lock: enabled, PLL-E running, not STOPPED, and kept while in SENTINEL (R86, R393, R489). -/
def State.linkAlive (s : State) (x : Fin 8) : Bool :=
  s.on (.LINK_CFG_Enable x) && bit (s.rd .CLK_STATUS_Locked) 4 && !(s.links.get x).stopped &&
    (s.rd .PWR_STATE_State != 3 || bit (s.rd .SENT_CFG_LinkKeep) x)

/-- LINK_UP: the link's PCS and RS-FEC gain lock (R393, R489, R559, R560). -/
def execLinkUp (x : Fin 8) (s : State) : Out :=
  let l := s.links.get x
  if s.linkAlive x && !l.lock then
    .next (((s.updLink x fun l => { l with lock := true, rxLock := true }).raise 0x0503 x 0).settleLinks)
  else .next s

/-- A link stops transmitting: the frame in progress is lost and its datagram discarded (R393). -/
def State.cutFrame (s : State) (x : Fin 8) : State :=
  match (s.links.get x).tx with
  | some (d, _) => ((s.updLink x fun l => { l with tx := none, partnerCut := l.partnerCut + 1 }).discardDg x d).frameEnd x
  | none => s

/-- LINK_DOWN: the PCS or RS-FEC has no lock, or the receive path reports a local fault; or (`remote`) both are well and a remote fault alone stands,
under which reception goes on, or begins (R392, R393). -/
def execLinkDown (x : Fin 8) (remote : Bool) (s : State) : Out :=
  let l := s.links.get x
  if !s.on (.LINK_CFG_Enable x) then .next s
  else
    let was := l.lock
    let s := s.updLink x fun l => { l with lock := false, rxLock := remote && (l.rxLock || s.linkAlive x) }
    if was then .next (((s.cutFrame x).raise 0x0502 x 0).settleLinks) else .next s

/-! Rings -/

/-- A ring holds nothing: head, body, assembly and stream are empty (R380). -/
def State.ringEmpty (s : State) (r : Fin 16) : Bool :=
  let g := s.rings.get r
  g.head.isEmpty && g.body.isEmpty && g.asm.isEmpty && g.stream.open_.isEmpty && g.stream.blocks.isEmpty

/-- A ring becomes STOPPED: it takes every epoch it has not yet taken (R380, R558). -/
def State.stopRing (s : State) (r : Fin 16) : State :=
  let crema := s.on (.RING_CFG_Crema r)
  let s := if (s.nextEpochOf (fnRing r)).isSome then s.updRing r fun g => { g with raised := false } else s
  let s := (s.wr (.RING_STATE_State r) 0).takeAllEpochs (fnRing r) s.now
  if !crema && s.on (.RING_CFG_Crema r) then s.newGeneration r else s

/-- RING_DRAINED: the head, body and assembly of a DRAINING ring are empty and it becomes STOPPED (R380). -/
def execRingDrained (r : Fin 16) (s : State) : Out :=
  if s.rd (.RING_STATE_State r) = 2 ∧ s.ringEmpty r = true then .next (s.stopRing r) else .next s

/-- ABORT of a ring: head, body and assembly are counted lost; numbered datagrams are still transmitted (R380). -/
def State.abortRing (s : State) (r : Fin 16) : State :=
  let g := s.rings.get r
  let n := g.head.length + g.body.length + g.asm.length + g.stream.open_.length
  let s := s.loseBlocks r (g.stream.blocks.flatMap Block.seqs)
  let s := s.updRing r fun g =>
    { g with head := [], body := [], asm := [], stream := { g.stream with open_ := [], blocks := [], reset := true } }
  (s.lose r n).stopRing r

/-- START of a ring: RUNNING; its next datagram carries RING_START; a compressed ring begins a generation (R380, R406). -/
def State.startRing (s : State) (r : Fin 16) : State :=
  let s := (s.wr (.RING_STATE_State r) 1).updRing r fun g => { g with start := true }
  if s.on (.RING_CFG_Crema r) then s.newGeneration r else s

/-! Alarm windows (R399) -/

/-- The 0x0502 summary of a tracked code (R400). -/
def State.summaryOf (s : State) (w : Nat) (t : Track) : List Byte :=
  mkRecord 0x0502 s.curEpoch (s.timeFlags s.alarm.windowAt s.xt) (w * 1000000000)
    (le 2 t.code ++ le 1 t.sev ++ zeros 1 ++ le 4 t.a0 ++ le 4 t.a1 ++ le 4 t.count ++ le 8 t.first ++ le 8 t.last)

/-- Codes of a list without repeats. -/
def distinct : List Nat → List Nat
  | [] => []
  | x :: xs => if xs.contains x then distinct xs else x :: distinct xs

/-- The summaries of a window (R399): one for each code with a coalesced occurrence, and ALARM_OVERFLOW. -/
def State.windowSummaries (s : State) : List (List Byte) :=
  let a := s.alarm
  let cs := (a.tracks.filter fun t => decide (0 < t.coalesced)).map (s.summaryOf a.window)
  match a.untracked with
  | [] => cs
  | (_, t0) :: _ =>
    let last := match a.untracked.getLast? with | some (_, t) => t | none => t0
    cs ++ [s.summaryOf a.window ⟨0, a.untracked.length, 0, t0, last, 0, (distinct (a.untracked.map fun u => u.1)).length, 2⟩]

/-- Close the running alarm window (R399): summaries of the window before the previous one that still wait are counted
lost; this window's summaries are offered. -/
def State.closeWindow (s : State) : State :=
  let w := s.alarm.window
  let old := s.alarm.sums.filter fun (x : Nat × List Byte) => decide (x.1 + 1 < w)
  let s := old.foldl (fun (s : State) (_ : Nat × List Byte) => s.loseNew 8) s
  let new := s.windowSummaries.map fun b => (w, b)
  let s := { s with alarm := { s.alarm with sums := (s.alarm.sums.filter fun (x : Nat × List Byte) => !decide (x.1 + 1 < w)) ++ new,
                                            tracks := [], indiv := 0, untracked := [], window := s.now / 1000000000, windowAt := s.xt } }
  let s := (s.wr .ALARM_STATUS_Tracked 0).wr .ALARM_STATUS_Coalescing 0
  s.pump 8

/-- ALARM_WINDOW_CLOSE: a whole second of device time closes the alarm window (R399, R447: none closes twice). -/
def execAlarmWindowClose (s : State) : Out :=
  if s.alarm.window < s.now / 1000000000 ∧ s.power.released = true then .next s.closeWindow else .next s

end Sys2Proof.Machine
end

