-- ==== Sys2Proof/Machine/HostOps.lean ====
section
/-! DEFINITION. The shared operations of the command engine: acceptance, outstanding commands, responses (R495 – R504). -/
namespace Sys2Proof.Machine

/-- Update a path. -/
def State.updPath (s : State) (p : Fin 9) (f : PathSt → PathSt) : State :=
  { s with host := { s.host with paths := vupd s.host.paths p f } }

/-- The 0x0801 record of a response on a link's path; Time is that of its completion (R500). PRESUMED, unsafe: log 27. -/
def State.respRecord (s : State) (p : Nat) (r : Resp) : List Byte :=
  mkRecord 0x0801 s.curEpoch (s.timeFlags r.at_ r.at_) r.time
    (le 1 r.code ++ [r.tag] ++ le 1 r.status ++ le 1 p ++ le 4 r.addr.toNat ++ le 4 r.data.toNat ++ le 1 r.detail ++
      le 1 r.xflags ++ zeros 2)

/-- A path can take a response at once: room in the MGMT queue (R497), or in ring 11's head (R31). -/
def State.respRoom (s : State) (p : Fin 9) : Bool :=
  if p.val = 8 then decide (s.host.respQ.length < 16) else s.headRoom 11 32

/-- Deliver a response to its queue (R497, R500). -/
def State.deliver (s : State) (p : Fin 9) (r : Resp) : State :=
  if p.val = 8 then { s with host := { s.host with respQ := s.host.respQ ++ [r] } }
  else
    let s := s.updPath p fun (q : PathSt) => { q with last := some r }
    let s := { s with host := { s.host with respPeers := s.host.respPeers ++ [(s.seqOf 11, r.peer)] } }
    s.offer 11 (s.respRecord p r)

/-- An outstanding command of a path ends (R504). -/
def State.endOut (s : State) (p : Fin 9) (tag : Byte) : State :=
  s.updPath p fun (q : PathSt) => { q with out := q.out.filter fun (o : Outst) => o.tag != tag }

/-- A host soft reset begins 1 ms after its write's response is queued or produced (R481). -/
def State.startKey (s : State) (key : Bool) : State :=
  if key then { s with power := { s.power with softKey := false, softResetAt := some (s.xt + 1000000) } } else s

/-- Where a response goes: the source of its command (R392). A response that ends no outstanding command answers the one taken last. -/
def State.peerFor (s : State) (p : Fin 9) (tag : Byte) (ends : Bool) : Option Peer :=
  let q := s.host.paths.get p
  match q.out.find? (fun (o : Outst) => o.tag == tag) with
  | some o => if ends then o.peer else q.peer
  | none => q.peer

/-- Queue a completed response, or let it wait for room behind earlier ones of its path. With `ends` the command stops being
outstanding once its response is queued on MGMT or produced into ring 11 (R504). -/
def State.answerAgain (s : State) (p : Fin 9) (r : Resp) (ends : Bool) : State :=
  let r := if r.peer.isNone then { r with peer := s.peerFor p r.tag ends } else r
  if s.respRoom p && !(s.host.respWait.any fun (w : Nat × Resp × Bool) => w.1 == p.val) then
    let key := s.power.softKey && ends && r.code == 2 && r.addr == 0x20014
    let s := (s.deliver p r).startKey key
    if ends then s.endOut p r.tag else s
  else { s with host := { s.host with respWait := s.host.respWait ++ [(p.val, r, ends)] } }

/-- A command completes: its response takes the time (R500), and is queued. -/
def State.answer (s : State) (p : Fin 9) (r : Resp) (ends : Bool) : State := s.answerAgain p { r with time := s.now, at_ := s.xt } ends

/-- Deliver responses that waited for room, oldest first on each path. -/
def flushGo : List (Nat × Resp × Bool) → State → State
  | [], s => s
  | (p, r, ends) :: ws, s => flushGo ws (s.answerAgain (fin 8 p) r ends)

/-- Deliver the responses that waited, where there is room now. -/
def State.flushResp (s : State) : State :=
  flushGo s.host.respWait { s with host := { s.host with respWait := [] } }

/-- Status codes of R502. -/
def stOk : Nat := 0
def stUnknown : Nat := 2
def stAddress : Nat := 3
def stRefused : Nat := 4
def stBusy : Nat := 5
def stState : Nat := 6
def stInvalid : Nat := 7
def stOverflow : Nat := 8
def stDupTag : Nat := 9
def stFailed : Nat := 10

/-- Power-state code (R475): 0 STARTING, 1 HOLD, 2 ACTIVE, 3 SENTINEL, 4 QUIESCENT, 5 SUSPEND. -/
def State.pwr (s : State) : Nat := s.rd .PWR_STATE_State

/-- The power states in which a command is served (R501). SET_STATE follows R475 instead. -/
def servedIn (code st : Nat) : Bool :=
  match code with
  | 0x00 => true | 0x01 => true | 0x03 => true | 0x0F => true
  | 0x02 => st != 0 | 0x0E => st != 0 | 0x08 => st != 0
  | 0x04 => st == 1 || st == 2 || st == 3 || st == 4
  | 0x05 => st == 2 || st == 3 || st == 4
  | 0x06 => st == 2 || st == 3 || st == 4
  | 0x07 => st == 2 || st == 3 || st == 4
  | 0x09 => st == 1
  | 0x0A => st == 1 || st == 4
  | 0x0B => st == 1 || st == 4
  | 0x0C => st == 1 || st == 4
  | 0x0D => st == 2 || st == 3
  | 0x10 => st == 1 || st == 4
  | _ => false

/-- Remove the first waiting transaction of a path with a command code and a tag. -/
def dropReq (path code : Nat) (tag : Byte) : List Req → List Req
  | [] => []
  | q :: qs => if q.path = path ∧ q.code = code ∧ q.tag = tag then qs else q :: dropReq path code tag qs

/-- Transactions of the records at ring 12: the Count byte of each one's payload (R499). DESIGN CHOICE, unsafe: log 23. -/
def State.cmdCounts (s : State) (xs : List Slot) : Nat :=
  xs.foldl (fun (n : Nat) (x : Slot) => n + leAt (s.slotRec (headArea 12) x).bytes 51 1) 0

/-- Drop the records of ring 12 whose transactions have all been taken; `left` transactions of links still wait. -/
def State.dropTaken (s : State) (left : Nat) : List Slot → List Slot
  | [] => []
  | x :: xs => if left ≤ s.cmdCounts xs then s.dropTaken left xs else x :: xs

/-- A transaction is the one that the command engine takes next: the oldest of MGMT or of ring 12, in turns while both have one; a command without a
transaction in wait is one that stands for its own (R503). DESIGN CHOICE, unsafe: log 21. -/
def State.turnOf (s : State) (p : Fin 9) (code : Nat) (tag : Byte) : Bool :=
  let isIt := fun (q : Req) => q.path == p.val && q.code == code && q.tag == tag
  let side := fun (b : Bool) => s.host.inQ.find? fun (q : Req) => (q.path == 8) == b
  !s.host.inQ.any isIt ||
    ((match side (p.val == 8) with | some q => isIt q | none => false) && ((side (p.val != 8)).isNone || s.host.mgmtLast != (p.val == 8)))

/-- The command engine takes a transaction: it leaves ring 12 or the MGMT port (R503). -/
def State.takeReq (s : State) (p : Fin 9) (code : Nat) (tag : Byte) : State :=
  match s.host.inQ.find? (fun (q : Req) => q.path == p.val && q.code == code && q.tag == tag) with
  | none => s
  | some q =>
    let s := (s.updPath p fun (x : PathSt) => { x with peer := q.peer })
    let s := { s with host := { s.host with inQ := dropReq p code tag s.host.inQ, mgmtLast := p.val == 8 } }
    if p.val = 8 then s
    else
      let left := (s.host.inQ.filter fun (q : Req) => q.path != 8).length
      s.updRing 12 fun (g : RingSt) => { g with head := s.dropTaken left g.head }

/-- A response to a command. -/
def mkResp (code : Nat) (tag : Byte) (addr : Word) (status data detail xflags : Nat) : Resp :=
  ⟨status, tag, code, addr, BitVec.ofNat 32 data, detail, xflags, none, 0, 0⟩

/-- Answer a command that is not executed. It never became outstanding (R504). -/
def State.turnAway (s : State) (p : Fin 9) (code : Nat) (tag : Byte) (addr : Word) (status : Nat) : State :=
  s.answer p (mkResp code tag addr status 0 0 0) false

/-- The command engine runs: from the end of S1, and not from SUSPEND until the wake is complete (R461, R474, R498). -/
def State.engineUp (s : State) : Bool :=
  bit s.power.stages 1 && s.pwr != 5 && !(match s.power.trans with | some (5, _) => true | _ => false)

/-- Acceptance (R503, R504): none when the command is turned away; else it is outstanding. DESIGN CHOICE, unsafe: log 21. -/
def State.accept (s : State) (p : Fin 9) (code : Nat) (tag : Byte) (addr data : Word) : State × Bool :=
  if !s.engineUp || !s.turnOf p code tag then (s, false)
  else
  let s := s.takeReq p code tag
  let out := (s.host.paths.get p).out
  if 8 ≤ out.length then (s.turnAway p code tag addr stOverflow, false)
  else if out.any fun (o : Outst) => o.tag == tag then (s.turnAway p code tag addr stDupTag, false)
  else if !servedIn code s.pwr then (s.turnAway p code tag addr (if s.pwr = 0 then stBusy else stState), false)
  else
    let s' := s.updPath p fun (q : PathSt) => { q with out := q.out ++ [⟨tag, code, addr, data, s.xt, q.peer, s.host.accepted⟩] }
    ({ s' with host := { s'.host with accepted := s.host.accepted + 1 } }, true)

/-- Complete a command: its response is queued in completion order (R503). -/
def State.done (s : State) (p : Fin 9) (code : Nat) (tag : Byte) (addr : Word) (status data detail : Nat) : State :=
  s.answer p (mkResp code tag addr status data detail 0) true

/-- The outstanding commands of a code, with their paths. -/
def State.outOf (s : State) (code : Nat) : List (Fin 9 × Outst) :=
  (List.finRange 9).flatMap fun (p : Fin 9) =>
    ((s.host.paths.get p).out.filter fun (o : Outst) => o.code == code).map fun (o : Outst) => (p, o)

/-- A command has completed, and its response waits for room (R504). -/
def State.answered (s : State) (p : Fin 9) (tag : Byte) : Bool :=
  s.host.respWait.any fun (w : Nat × Resp × Bool) => w.1 == p.val && w.2.2 && w.2.1.tag == tag

/-- One command placed in the order of acceptance (R503). -/
def placeAccepted (x : Fin 9 × Outst) : List (Fin 9 × Outst) → List (Fin 9 × Outst)
  | [] => [x]
  | y :: ys => if x.2.no ≤ y.2.no then x :: y :: ys else y :: placeAccepted x ys
/-- In the order of acceptance (R503). -/
def byAcceptance (xs : List (Fin 9 × Outst)) : List (Fin 9 × Outst) := xs.foldr placeAccepted []

/-- ALERT_N is asserted (R514). -/
def State.alertN (s : State) : Bool :=
  !s.host.respQ.isEmpty || Nat.land (rfWord s.regs 0x34).toNat (rfWord s.regs 0x38).toNat != 0

/-- The device is held in reset (R458, R485, R487, R535). -/
def PowerSt.held (w : PowerSt) : Bool := w.rstPin || w.jtagHold || w.railHold || w.tempHold || w.off

/-- ALARM_N is asserted (R515): a latched alarm, or HOLD; not in SUSPEND or OFF, nor while the device is held in reset. -/
def State.alarmN (s : State) : Bool := !s.power.held && s.pwr != 5 && (s.on .ALARM_STATUS_Latched || s.pwr == 1)

end Sys2Proof.Machine
end

