-- ==== Sys2Proof/Machine/Flags.lean ====
section
/-! DEFINITION. Saturation, and the flags a core keeps: CORE_FLAGS and INT_SAVE (R304, R321, R323, R332). -/
namespace Sys2Proof.Machine

/-- sat40, and whether it acted (R304). -/
def sat40 (v : Int) : Int × Bool :=
  if 2 ^ 39 - 1 < v then (2 ^ 39 - 1, true) else if v < -(2 ^ 39) then (-(2 ^ 39), true) else (v, false)

/-- Two's complement of 40 bits. -/
def wrap40 (v : Int) : Int := toS 40 (ofS 40 v)

/-- A sum of s32 operands: saturated, or wrapped (R307). -/
def sumWord (sat : Bool) (v : Int) : Word := BitVec.ofInt 32 (if sat then satS 32 v else v)

/-- A sum of s16 halves (R307). -/
def sumHalf (sat : Bool) (v : Int) : Nat := ofS 16 (if sat then satS 16 v else v)

/-- Two s16 halves as a word (R300). -/
def packHalves (lo hi : Nat) : Word := BitVec.ofNat 32 (lo % 65536 + hi % 65536 * 65536)

/-- A half of an accumulator rounded by b bits and saturated to s16 (R305). -/
def roundHalf (v : Int) (b : Nat) (plain : Bool) : Nat :=
  ofS 16 (satS 16 (if b = 0 || plain then asr v b else asr (v + 2 ^ (b - 1)) b))

/-- Leading zeros of a word, 0 – 32 (R307). -/
def leadingZeros (v : Nat) : Nat := if v = 0 then 32 else 31 - Nat.log2 v

/-- Set CORE_FLAGS.AccSat. -/
def State.accSat (s : State) (n : Nat) (acted : Bool) : State := if acted then s.wr (.CORE_FLAGS_AccSat n) 1 else s
/-- Set CORE_FLAGS.Poison (R323). -/
def State.corePoison (s : State) (n : Nat) (acted : Bool) : State := if acted then s.wr (.CORE_FLAGS_Poison n) 1 else s
/-- An NMI is being handled (R321). -/
def State.nmiActive (s : State) (n : Nat) : Bool := s.on (.CORE_FLAGS_NmiActive n)
/-- Interrupts are enabled (R318). -/
def State.intsOn (s : State) (n : Nat) : Bool := s.on (.INT_SAVE_IE n)
/-- Sources pending and enabled (R318). -/
def State.takeable (s : State) (n : Nat) : Nat := Nat.land (s.rd (.INT_PENDING_Sources n)) (s.rd (.INT_ENABLE_Sources n))

end Sys2Proof.Machine
end

