-- ==== Sys2Proof/Machine/MemOps.lean ====
section
/-! DEFINITION. The counting, logging and repair of memory errors, retirement, and the states of the channels (R345 – R374). -/
namespace Sys2Proof.Machine

/-- The start-up fill of an SRAM (R345). -/
def State.fillSram (s : State) (id : Nat) : State :=
  { s with mem := { s.mem with words := spDrop (fun l => !isDram l && l / 2 ^ 20 % 64 == id) s.mem.words } }

/-- The start-up fill of the DRAM (R366). -/
def State.fillDram (s : State) : State :=
  { s with mem := { s.mem with words := spDrop isDram s.mem.words, lost := 0 } }

/-! Errors (R356 – R362, R368) -/

/-- Update a channel. -/
def State.updChan (s : State) (ch : Fin 2) (f : ChanSt → ChanSt) : State :=
  { s with mem := { s.mem with chans := vupd s.mem.chans ch f } }

/-- Trigger a full retrain of a channel (R368). -/
def State.triggerRetrain (s : State) (ch : Fin 2) : State :=
  if s.rd (.MC_STATUS_State ch) = 2 ∧ !s.on (.MC_STATUS_Retraining ch) then
    (s.wr (.MC_STATUS_Retraining ch) 1).updChan ch fun (c : ChanSt) => { c with retrainAt := s.xt, stepAt := s.xt }
  else s

/-- Roll a channel's one-second counts to the present second. DESIGN CHOICE, unsafe: log 104. -/
def State.rollSecond (s : State) (ch : Fin 2) : State :=
  let sec := s.xt / 1000000000
  s.updChan ch fun (c : ChanSt) => if c.ceSec = sec then c else { c with ceSec := sec, ceCount := 0, wcrcCount := 0 }

/-- Count a CORRECTED read of a block towards the retrain trigger (R368). -/
def State.countCe (s : State) (b : Fin 3) : State :=
  let s := s.inc (.CE_COUNT_Corrected b) 1
  if b = 2 then s
  else
    let ch : Fin 2 := fin 1 b
    let s := (s.rollSecond ch).updChan ch fun (c : ChanSt) => { c with ceCount := c.ceCount + 1 }
    if s.rd (.MC_CFG_RetrainCE ch) < (s.mem.chans.get ch).ceCount then s.triggerRetrain ch else s

/-- The first repeat-table entry that satisfies a test. -/
def repeatFind (p : Nat → Bool) : Option Nat := (List.range 32).find? p

/-- Location held by a repeat-table entry. -/
def State.repeatLoc (s : State) (b : Fin 3) (i : Nat) : Nat :=
  s.rd (.REPEAT_LO_Loc b i) + 2 ^ 32 * s.rd (.REPEAT_HI_LocHi b i)

/-- The entry of a full repeat table with the oldest first correction. -/
def oldestOf (v : Vector Nat 32) : Nat :=
  (List.range 32).foldl (fun k i => if v.toList.getD i 0 < v.toList.getD k 0 then i else k) 0

/-- Alarm HARD_BIT of a location (R357, R397). -/
def State.hardBit (s : State) (l : Nat) : State :=
  if isDram l then
    let p := placeAt l
    s.raise 0x0401 (l / 2 ^ 32 % 2 + p.rank * 2 ^ 8 + p.bg * 2 ^ 16 + p.ba * 2 ^ 24) p.row
  else s.raise 0x0401 0xFF (l % 2 ^ 32)

/-- Enter a corrected location in its repeat table (R357). -/
def State.noteRepeat (s : State) (b : Fin 3) (l : Nat) : State :=
  match repeatFind fun i => s.on (.REPEAT_HI_Valid b i) && s.repeatLoc b i == l with
  | some i =>
    let n := s.rd (.REPEAT_HI_Count b i)
    let s := s.inc (.REPEAT_HI_Count b i) 1
    if n = 2 then s.hardBit l else s
  | none =>
    let i := match repeatFind fun i => !s.on (.REPEAT_HI_Valid b i) with
      | some i => i
      | none => oldestOf (s.mem.firsts.get b)
    let s := (((s.wr (.REPEAT_LO_Loc b i) l).wr (.REPEAT_HI_LocHi b i) (l / 2 ^ 32)).wr (.REPEAT_HI_Count b i) 1).wr (.REPEAT_HI_Valid b i) 1
    { s with mem := { s.mem with firsts := vupd s.mem.firsts b fun (v : Vector Nat 32) => vupd v (fin 31 i) fun _ => s.xt } }

/-- Add an error-log entry (R362); answers its index. -/
def State.logError (s : State) (b : Fin 3) (addr l syn z req kind : Nat) : Nat × State :=
  let i := if s.rd (.LOG_STATUS_Count b) = 0 then 0 else (s.rd (.LOG_STATUS_Head b) + 1) % 16
  let s := (((s.wr64 (.ERR_LOG_ADDR_LO_Addr b i) addr).wr (.ERR_LOG_LOC_LO_LocLo b i) l).wr (.ERR_LOG_LOC_HI_LocHi b i) (l / 2 ^ 32)).wr (.ERR_LOG_SYN_Syndrome b i) syn
  let s := (((s.wr (.ERR_LOG_SYN_Z b i) z).wr64 (.ERR_LOG_TIME_LO_Time b i) s.now).wr (.ERR_LOG_INFO_Requester b i) req).wr (.ERR_LOG_INFO_Kind b i) kind
  (i, ((s.wr (.LOG_STATUS_Head b) i).inc (.LOG_STATUS_Count b) 1).inc (.UE_COUNT_Uncorrectable b) 1)

/-- Channel argument of MEM_UE. -/
def ueArg (b : Fin 3) : Nat := if b = 2 then 0xFF else b.val

/-- A read of location `l` that reaches location `at_` with the bits `flips` in error (R342, R356, R357, R360). `newer`
says that a write to the same word is accepted before the write-back, which is then cancelled. -/
def State.readErr (s : State) (l at_ : Nat) (flips : BitVec 80) (newer : Bool) (req addr : Nat) : ReadRes × State :=
  let b := blockOf l
  let w := s.cell at_ ^^^ flips
  let r := decodeWord l w
  match r.kind with
  | .clean => (r, s)
  | .corrected =>
    let s := (s.countCe b).noteRepeat b l
    (r, if newer then s else s.setWord l r.data false)
  | .poisoned => (r, s.inc (.UE_COUNT_PoisonReads b) 1)
  | k =>
    let (i, s) := s.logError b addr l r.syndrome (bnat (bit w.toNat 79)) req (if k = .address then 2 else 1)
    let s := s.raise 0x0402 (ueArg b) i
    (r, if newer then s else s.setWord l r.data true)

/-- Words `w` … of a store are read in order by a requester: it uses the answers it holds; counting, logging and repair follow every other
read. `addr` gives a word's address as the error log shows it. -/
def touchWords (req : Nat) (loc : Nat → Nat) (addr : Nat → Nat) : Nat → Nat → State → State
  | 0, _, s => s
  | n + 1, w, s =>
    touchWords req loc addr n (w + 1)
      (if (s.answerOf req (loc w)).isSome then s.fetched req (loc w) else (s.readErr (loc w) (loc w) 0 false req (addr w)).2)

/-- A requester reads bytes of an SRAM: the bytes, whether they are marked POISONED, and what the reads leave (R342, R360).
DESIGN CHOICE, unsafe: log 97. -/
def State.sramLoad (s : State) (req id a n : Nat) : (List Byte × Bool) × State :=
  (s.sramRead req id a n, touchWords req (sramLoc id) (fun w => 8 * w) (wordSpan a n) (a / 8) s)

/-- A requester reads bytes of the DRAM by system address (R342, R360). -/
def State.dramLoad (s : State) (req sa n : Nat) : (List Byte × Bool) × State :=
  (s.dramRead req sa n, touchWords req s.dramWord (fun w => 8 * w) (wordSpan sa n) (sa / 8) s)

/-- A requester reads bytes of an area (R342, R360). -/
def State.areaLoad (s : State) (req : Nat) (a : Area) (off n : Nat) : (List Byte × Bool) × State :=
  (s.areaRead req a off n,
    touchWords req (s.areaLoc a) (fun w => a.base + 8 * (w % (a.size / 8))) (wordSpan off n) (off / 8) s)

/-! Retirement (R358, R359) -/

/-- The spare rows of a bank in use. -/
def State.sparesUsed (s : State) (ch rank bg ba : Nat) : List Nat :=
  ((List.range 64).filter fun i => s.on (.RETIRE_Valid ch i) && s.rd (.RETIRE_Rank ch i) == rank &&
    s.rd (.RETIRE_BG ch i) == bg && s.rd (.RETIRE_BA ch i) == ba).map fun i => s.rd (.RETIRE_Spare ch i)

/-- Enter a retirement in the remap table; none when no spare row or no entry is free (R358). DESIGN CHOICE, unsafe: log 96. -/
def State.addRetire (s : State) (ch rank bg ba row : Nat) (host : Bool) : Option (Nat × State) :=
  let used := s.sparesUsed ch rank bg ba
  match (List.range 4).find? fun k => !used.contains k, (List.range 64).find? fun i => !s.on (.RETIRE_Valid ch i) with
  | some k, some i =>
    let s := (((s.wr (.RETIRE_Valid ch i) 1).wr (.RETIRE_Rank ch i) rank).wr (.RETIRE_BG ch i) bg).wr (.RETIRE_BA ch i) ba
    some (i, ((s.wr (.RETIRE_Spare ch i) k).wr (.RETIRE_Row ch i) row).wrB (.RETIRE_Host ch i) host)
  | _, _ => none

/-- End a row copy with a result and answer its command (R358, R501, R502). -/
def State.endCopy (s : State) (ch : Fin 2) (result : Nat) : State :=
  match (s.mem.chans.get ch).copy with
  | none => s
  | some c =>
    let s := (s.updChan ch fun (c : ChanSt) => { c with copy := none }).wr (.MC_STATUS_Retiring ch) 0
    s.done (fin 8 c.path) 0x0D c.tag c.addr (if result = 0 then stOk else stFailed) result result

/-! Channel states (R366 – R374) -/

/-- A channel enters self-refresh: every owed refresh is issued (R374). -/
def State.enterSelfRefresh (s : State) (ch : Fin 2) : State :=
  if s.rd (.MC_STATUS_State ch) = 2 then
    ((s.wr (.MC_STATUS_State ch) 4).wr (.MC_STATUS_Owed ch) 0).updChan ch fun (c : ChanSt) => { c with exitAt := none }
  else s

/-- A channel FAILs (R358, R366, R369): `when_` is 0 at start-up, 1 in service. -/
def State.failChannel (s : State) (ch : Fin 2) (when_ : Nat) : State :=
  let s := ((s.wr (.MC_STATUS_State ch) 3).wr (.MC_STATUS_Retraining ch) 0).raise 0x0404 ch when_
  s.endCopy ch 3

/-- ABORT of a channel's retrain (R372). -/
def State.abortRetrain (s : State) (ch : Fin 2) : State :=
  (s.wr (.MC_STATUS_Retraining ch) 0).wr (.MC_STATUS_Attempts ch) 0

end Sys2Proof.Machine
end

