-- ==== Sys2Proof/Machine/Operands.lean ====
section
/-! DEFINITION. Operand forms of the Brew cores: fields of the instruction word, data register names, address registers,
addressing modes, and the checks of an access (R299 – R303, R306 – R310). -/
namespace Sys2Proof.Machine

/-! Instruction words (R306 – R309) -/

/-- Bits hi … lo of an instruction word. -/
def bits (w hi lo : Nat) : Nat := w / 2 ^ lo % 2 ^ (hi + 1 - lo)

/-- The control format (R306). -/
def isCtl (w : Nat) : Bool := bit w 63
/-- Fields of the compute slot (R307). -/
def cOp (w : Nat) : Nat := bits w 62 57
def cD (w : Nat) : Nat := bits w 56 51
def cA (w : Nat) : Nat := bits w 50 45
def cB (w : Nat) : Nat := bits w 44 39
def cM (w : Nat) : Bool := bit w 38
/-- The 19 bits of memory slot A or B (R306). -/
def mSlot (w : Nat) (b : Bool) : Nat := if b then bits w 18 0 else bits w 37 19
/-- Fields of a memory slot (R308). -/
def mOp (x : Nat) : Nat := bits x 18 16
def mR (x : Nat) : Nat := bits x 15 10
def mN (x : Nat) : Nat := bits x 9 6
def mMode (x : Nat) : Nat := bits x 5 3
/-- Opcode of the control format (R309). -/
def kOp (w : Nat) : Nat := bits w 62 57
/-- Immediate and branch target of the control format. -/
def kImm (w : Nat) : Nat := bits w 31 0
def kT (w : Nat) : Nat := bits w 12 0

/-- Bytes of an access: 0 for NOP (R308). -/
def mSize (op : Nat) : Nat :=
  match op with
  | 1 => 2 | 2 => 4 | 3 => 8 | 4 => 2 | 5 => 4 | 6 => 8 | _ => 0
/-- The access stores. -/
def mStore (op : Nat) : Bool := op == 4 || op == 5 || op == 6

/-! Data registers (R299, R300) -/

/-- The physical register of a name under a slide. -/
def physOf (wsl k : Nat) : Nat := if k < 32 then k else 32 + (k - 32 + wsl) % 32

/-- The value of a data register name. -/
def CoreSt.get (c : CoreSt) (k : Nat) : Word := c.w.get (fin 63 (physOf c.wsl k))
/-- Its value as s32. -/
def CoreSt.getS (c : CoreSt) (k : Nat) : Int := toS 32 (c.get k).toNat
/-- Its lower half, s16: the real part (R300). -/
def CoreSt.lo (c : CoreSt) (k : Nat) : Int := toS 16 ((c.get k).toNat % 65536)
/-- Its upper half, s16: the imaginary part. -/
def CoreSt.hi (c : CoreSt) (k : Nat) : Int := toS 16 ((c.get k).toNat / 65536)

/-! Address registers (R301, R307) -/

/-- An address register by selector. -/
def CoreSt.a (c : CoreSt) (f : Nat) : Word := c.addr.get (fin 63 f)

/-- fold of R301, with the K and B of pointer n. -/
def CoreSt.fold (c : CoreSt) (n : Nat) (q : Int) : Word :=
  let k := (c.a (32 + n)).toNat
  let b := (c.a (48 + n)).toNat
  if k = 0 then BitVec.ofInt 32 q else BitVec.ofInt 32 ((b : Int) + (q - b) % (k : Int))

/-- The address an access uses, and its pointer afterwards (R301), for a pointer that reads `p`. -/
def CoreSt.address (c : CoreSt) (n mode e : Nat) (p : Word) : Word × Word :=
  let nn := toS 32 (c.a (16 + n)).toNat
  match mode with
  | 1 => (p, c.fold n ((p.toNat : Int) + e))
  | 2 => (p, c.fold n ((p.toNat : Int) - e))
  | 3 => (p, c.fold n ((p.toNat : Int) + nn))
  | 4 => (c.fold n ((p.toNat : Int) + nn), p)
  | _ => (p, p)

/-- End of data memory and the local I/O area (R297). -/
def dataEnd : Nat := 0x70000
def ioEnd : Nat := 0x70500

/-- The error of an access: 0 none, 2 ALIGN, 3 RANGE (R297, R302). -/
def accessError (addr e : Nat) : Nat :=
  if e = 0 then 0 else if addr % e != 0 then 2
  else if addr < dataEnd then 0
  else if addr < ioEnd && e == 4 then 0
  else 3

/-! Legality (R310, R317) -/

/-- A memory slot is legal (R308, R310). -/
def memLegal (x : Nat) : Bool :=
  let op := mOp x
  if op = 0 then x % 65536 == 0
  else op != 7 && decide (mMode x ≤ 4) && x % 8 == 0 && (mSize op != 8 || mR x % 2 == 0)

/-- A compute slot is legal (R304, R305, R307, R310). -/
def compLegal (w : Nat) : Bool :=
  let d := cD w; let a := cA w; let b := cB w; let m := cM w
  match cOp w with
  | 0x00 | 0x03 | 0x04 | 0x05 | 0x0D | 0x10 | 0x11 | 0x12 => !m
  | 0x01 | 0x02 | 0x06 | 0x07 | 0x08 | 0x09 | 0x0A | 0x0B | 0x0C | 0x0E | 0x0F => true
  | 0x20 | 0x21 | 0x22 | 0x23 => decide (d < 8)
  | 0x24 => decide (d < 7) && d % 2 == 0
  | 0x25 => d % 2 == 0
  | 0x28 => decide (a < 8) && decide (b ≤ 32)
  | 0x29 => decide (a < 8) && decide (b ≤ 2)
  | 0x2A => decide (d < 8) && decide (b ≤ 2)
  | _ => false

/-- The bits that a control word's fields use (R309). -/
def ctlMask (op : Nat) : Option Nat :=
  let f := fun (hi lo : Nat) => (2 ^ (hi + 1 - lo) - 1) * 2 ^ lo
  match op with
  | 0x00 | 0x0A | 0x0B | 0x0C | 0x0F | 0x10 | 0x11 | 0x12 => some 0
  | 0x01 | 0x03 => some (f 56 51 + f 31 0)
  | 0x02 => some (f 56 45 + f 31 0)
  | 0x04 => some (f 56 54 + f 50 45 + f 12 0)
  | 0x05 => some (f 56 51 + f 12 0)
  | 0x06 => some (f 50 45)
  | 0x07 => some (f 50 45 + f 12 0)
  | 0x08 => some (f 56 52 + f 51 51 + f 50 45 + f 41 32 + f 31 29)
  | 0x09 => some (f 4 0)
  | 0x0D => some (f 56 45 + f 44 41)
  | 0x0E => some (f 56 51 + f 44 41)
  | _ => none

/-- A control word is legal by its fields (R309, R310). -/
def ctlLegal (w : Nat) : Bool :=
  match ctlMask (kOp w) with
  | none => false
  | some m =>
    Nat.land (w % 2 ^ 57) m == w % 2 ^ 57 &&
      (match kOp w with
       | 0x04 => bits w 56 54 != 7
       | 0x08 => decide (bits w 31 29 ≤ 4)
       | 0x0D => bits w 44 41 == 7 || bits w 44 41 == 9
       | _ => true)

/-- Operations allowed in an RPT body (R317). -/
def bodyOk (w : Nat) : Bool := !isCtl w || decide (kOp w ≤ 3)
/-- Operations refused in a delay slot (R317). -/
def slotBad (w : Nat) : Bool := isCtl w && [0x04, 0x05, 0x06, 0x07, 0x0C, 0x08, 0x0D, 0x0E, 0x10, 0x11].contains (kOp w)

/-- The word is legal where it stands (R310, R317, R321). -/
def CoreSt.legal (c : CoreSt) (w : Nat) (nmi : Bool) : Bool :=
  (if isCtl w then ctlLegal w else compLegal w && memLegal (mSlot w false) && memLegal (mSlot w true)) &&
    (c.rpt.isNone || bodyOk w) && (c.branch.isNone || !slotBad w) &&
    !(isCtl w && kOp w == 0x0C && nmi) &&
    !(isCtl w && kOp w == 0x08 && bit w 51 && (decide (1024 < c.getS (bits w 50 45)) || decide (c.getS (bits w 50 45) < 0)))

end Sys2Proof.Machine
end

