-- ==== Sys2Proof/Machine/Brew.lean ====
section
/-! DEFINITION. What a Brew core does: pipeline, compute operations, memory slots, local I/O, DMA, ring port, interrupts and errors
(R296 – R337). -/
namespace Sys2Proof.Machine

/-- Update a core. -/
def State.updCore (s : State) (n : Fin 16) (f : CoreSt → CoreSt) : State := { s with cores := vupd s.cores n f }
/-- A core. -/
def State.core (s : State) (n : Fin 16) : CoreSt := s.cores.get n
/-- CORE_STATUS.State: 0 STOPPED, 1 RUNNING, 2 WAITING, 3 HALTED, 4 FAULTED. -/
def State.coreState (s : State) (n : Nat) : Nat := s.rd (.CORE_STATUS_State n)
/-- SRAM of a core's local memory (R344). -/
def coreSram (n : Nat) : Nat := 9 + n
/-- Byte address of an instruction word in it. -/
def instAddr (i : Nat) : Nat := 458752 + 8 * (i % 8192)
/-- Address of a core-view register. -/
def coreReg (n a : Nat) : Nat := 0x100000000 + 0x100000 * n + a

/-- Set an interrupt source pending (R318). -/
def State.setSource (s : State) (n k : Nat) : State := s.wr (.INT_PENDING_Sources n) (Nat.lor (s.rd (.INT_PENDING_Sources n)) (2 ^ k))

/-- Bytes that a stream port's buffer holds (R327). -/
def State.spHeld (s : State) (n q : Nat) : Nat := (s.rd (.SP_WP_Count n q) + 2 ^ 32 - s.rd (.SP_RP_Count n q)) % 2 ^ 32

/-- The level sources 0 – 3 (R318). -/
def State.setLevels (s : State) (n : Nat) : State :=
  (List.range 4).foldl (fun (s : State) (q : Nat) =>
    if s.rd (.SP_WMARK_Value n q) != 0 && decide (s.rd (.SP_WMARK_Value n q) ≤ s.spHeld n q) then s.setSource n q else s) s

/-! Pipeline (R311 – R313) -/

/-- A result lands. -/
def CoreSt.land (c : CoreSt) : Dest → CoreSt
  | .w p v => { c with w := vupd c.w (fin 63 p) fun _ => v }
  | .acc d im v => { c with acc := vupd c.acc (fin 7 d) fun (x : Int × Int) => if im then (x.1, v) else (v, x.2) }
  | .part d k v => { c with acc := vupd c.acc (fin 7 d) fun (x : Int × Int) =>
      let re := ofS 40 x.1
      let im := ofS 40 x.2
      match k with
      | 0 => (toS 40 (re / 2 ^ 32 * 2 ^ 32 + v.toNat), x.2)
      | 1 => (x.1, toS 40 (im / 2 ^ 32 * 2 ^ 32 + v.toNat))
      | _ => (toS 40 (re % 2 ^ 32 + v.toNat % 256 * 2 ^ 32), toS 40 (im % 2 ^ 32 + v.toNat / 256 % 256 * 2 ^ 32)) }
  | .addr f v => { c with addr := vupd c.addr (fin 63 f) fun _ => v }

/-- An instruction begins to issue: the results it is the first to see land (R311). -/
def CoreSt.advance (c : CoreSt) : CoreSt :=
  let fs := c.flights.map fun (x : Flight) => { x with left := x.left - 1 }
  let c' := (fs.filter fun (x : Flight) => x.left == 0).foldl (fun (c : CoreSt) (x : Flight) => c.land x.to_) c
  { c' with flights := fs.filter fun (x : Flight) => x.left != 0 }

/-- Every result in flight lands, each as its cycle comes, and in order of issue within a cycle (R311 – R313, R319). -/
def CoreSt.landAll (c : CoreSt) : CoreSt := { c.advance.advance.advance with flights := [] }

/-- Put results in flight. -/
def CoreSt.fly (c : CoreSt) (xs : List Flight) : CoreSt := { c with flights := c.flights ++ xs }

/-- A half of an accumulator as an accumulating operation reads it: forwarded from one before it (R311). -/
def CoreSt.accIn (c : CoreSt) (d : Nat) (im : Bool) : Int :=
  let fwd := c.flights.foldl (fun (o : Option Int) (x : Flight) =>
    match x.to_ with
    | .acc e jm v => if e = d ∧ jm = im then (if x.chain then some v else none) else o
    | .part e _ _ => if e = d then none else o
    | _ => o) none
  match fwd with
  | some v => v
  | none => if im then (c.acc.get (fin 7 d)).2 else (c.acc.get (fin 7 d)).1

/-! Compute slot (R304, R305, R307) -/

/-- Results of an accumulating operation: products added to (or taken from) halves, with sat40. -/
def CoreSt.accumulate (c : CoreSt) (xs : List (Nat × Bool × Int)) : List Flight × Bool :=
  let ys := xs.map fun (x : Nat × Bool × Int) => (x, sat40 (c.accIn x.1 x.2.1 + x.2.2))
  (ys.map fun (y : (Nat × Bool × Int) × (Int × Bool)) => ⟨2, true, .acc y.1.1 y.1.2.1 y.2.1⟩,
    ys.any fun (y : (Nat × Bool × Int) × (Int × Bool)) => y.2.2)

/-- Results that replace halves. -/
def replaceAcc (xs : List (Nat × Bool × Int)) : List Flight := xs.map fun (x : Nat × Bool × Int) => ⟨2, false, .acc x.1 x.2.1 x.2.2⟩

/-- The complex product of R304, with b conjugated when m. -/
def CoreSt.cprod (c : CoreSt) (a b : Nat) (m : Bool) : Int × Int :=
  let bim := if m then -(c.hi b) else c.hi b
  (c.lo a * c.lo b - c.hi a * bim, c.lo a * bim + c.hi a * c.lo b)

/-- A word result of the compute slot, if its operation is one of the ALU (R307). -/
def CoreSt.alu (c : CoreSt) (op a b : Nat) (m : Bool) : Option Word :=
  let x := c.get a
  let y := c.get b
  let sh := if m then b else y.toNat % 32
  let wide := m && decide (32 ≤ b)
  let lt := if m then decide (x.toNat < y.toNat) else decide (c.getS a < c.getS b)
  match op with
  | 0x01 => some (sumWord m (c.getS a + c.getS b))
  | 0x02 => some (sumWord m (c.getS a - c.getS b))
  | 0x03 => some (x &&& y)
  | 0x04 => some (x ||| y)
  | 0x05 => some (x ^^^ y)
  | 0x06 => some (if wide then Config.wideShift op x b else x <<< sh)
  | 0x07 => some (if wide then Config.wideShift op x b else BitVec.ofInt 32 (asr (c.getS a) sh))
  | 0x08 => some (if wide then Config.wideShift op x b else x >>> sh)
  | 0x09 => some (if lt then x else y)
  | 0x0A => some (if lt then y else x)
  | 0x0B => some (BitVec.ofNat 32 (bnat lt))
  | 0x0C => some (BitVec.ofNat 32 (bnat (x == y)))
  | 0x0D => some (BitVec.ofInt 32 (satS 32 (c.getS a).natAbs))
  | 0x0E => some (packHalves (sumHalf m (c.lo a + c.lo b)) (sumHalf m (c.hi a + c.hi b)))
  | 0x0F => some (packHalves (sumHalf m (c.lo a - c.lo b)) (sumHalf m (c.hi a - c.hi b)))
  | 0x11 => some (c.a a)
  | 0x12 => some (BitVec.ofNat 32 (leadingZeros x.toNat))
  | 0x28 =>
    let v := c.acc.get (fin 7 a)
    some (packHalves (roundHalf v.1 b m) (roundHalf v.2 b m))
  | 0x29 =>
    let v := c.acc.get (fin 7 a)
    some (BitVec.ofNat 32 (match b with
      | 0 => ofS 40 v.1
      | 1 => ofS 40 v.2
      | _ => ofS 40 v.1 / 2 ^ 32 + ofS 40 v.2 / 2 ^ 32 * 256))
  | _ => none

/-- The compute slot: the results it puts in flight, and whether sat40 acted. DESIGN CHOICE, unsafe: log 73. -/
def CoreSt.compute (c : CoreSt) (w : Nat) : List Flight × Bool :=
  let d := cD w; let a := cA w; let b := cB w; let m := cM w
  let wr := fun (k : Nat) (v : Word) => (⟨1, false, .w (physOf c.wsl k) v⟩ : Flight)
  match cOp w with
  | 0x20 => c.accumulate [(d, false, (c.cprod a b m).1), (d, true, (c.cprod a b m).2)]
  | 0x21 => c.accumulate [(d, false, -(c.cprod a b m).1), (d, true, -(c.cprod a b m).2)]
  | 0x22 => (replaceAcc [(d, false, (c.cprod a b m).1), (d, true, (c.cprod a b m).2)], false)
  | 0x23 =>
    let k := if m then c.hi b else c.lo b
    c.accumulate [(d, false, c.lo a * k), (d, true, c.hi a * k)]
  | 0x24 =>
    let ps := [(d, false, c.lo a * c.lo b), (d, true, c.lo a * c.hi b), (d + 1, false, c.hi a * c.lo b), (d + 1, true, c.hi a * c.hi b)]
    if m then (replaceAcc ps, false) else c.accumulate ps
  | 0x25 =>
    let p : Int := if m then ((c.get a).toNat : Int) * (c.get b).toNat else c.getS a * c.getS b
    ([⟨2, false, .w (physOf c.wsl d) (BitVec.ofInt 32 p)⟩, ⟨2, false, .w (physOf c.wsl (d + 1)) (BitVec.ofInt 32 (asr p 32))⟩], false)
  | 0x2A => ([⟨2, false, .part d b (c.get a)⟩], false)
  | 0x10 => ([⟨2, false, .addr d (c.get a)⟩], false)
  | op => match c.alu op a b m with
    | some v => ([wr d v], false)
    | none => ([], false)

/-! Stop, start (R333, R334, R337) -/

/-- Held credit is released; the record counts as lost with its own sequence (R329, R337). -/
def State.loseCredit (s : State) (n : Nat) : State :=
  if s.on (.RING_STATUS_Held n) then
    let r := fin 15 (s.rd (.RING_STATUS_Ring n))
    let s := s.wr (.RING_STATUS_Held n) 0
    ((s.takeSeq r).2).lose r 1
  else s

/-- Every busy DMA channel of a core stops with Error ABORTED. -/
def State.dmaAbort (s : State) (n : Fin 16) : State :=
  let s := (List.range 4).foldl (fun (s : State) (c : Nat) =>
    if s.on (.DMA_STATUS_Busy n c) then (s.wr (.DMA_STATUS_Busy n c) 0).wr (.DMA_STATUS_Error n c) 6 else s) s
  s.updCore n fun (c : CoreSt) => { c with dma := Vector.replicate 4 none }

/-- A core stops: credit and DMA end, and its stream ports accept no more records; those accepted are still written (R321, R327, R337). -/
def State.stopCore (s : State) (n : Fin 16) (state : Nat) : State :=
  let s := (s.loseCredit n).dmaAbort n
  let s := s.updCore n fun (c : CoreSt) =>
    { c with wait := none, deadline := none, resume := none, kept := [], rpt := none, branch := none, errs := [], aborting := false,
             sp := c.sp.map fun (p : SpSt) => { p with offered := [] } }
  s.wr (.CORE_STATUS_State n) state

/-- A core starts at Entry with every register zero; while the CORE clock stands, its watchdog has counted nothing (R322, R333, R334,
R337). -/
def State.startCore (s : State) (n : Fin 16) : State :=
  let lo := coreReg n 0x70000
  let s := { s with regs := spDrop (fun (a : Nat) => decide (lo ≤ a) && decide (a < lo + 0x500)) s.regs }
  let s := s.updCore n fun _ => { CoreSt.rest with pc := s.rd (.CORE_CTRL_Entry n), timerFrom := s.xt, wdogFrom := if s.locked 1 then s.xt else 0 }
  (s.wr64 (.CYCLES_LO_Cycles n) 0).wr (.CORE_STATUS_State n) 1

/-! Errors (R321) -/

/-- An error is taken at an instruction boundary: the handler, or FAULTED for IFETCH and DOUBLE. An ABORT that is held off stays due
(R321, R337). -/
def State.nmi (s : State) (n : Fin 16) (cause epc : Nat) : State :=
  let dbl := s.nmiActive n
  if dbl || cause == 6 then
    let c := if dbl then 7 else cause
    let ab := (s.core n).aborting
    (((s.stopCore n 4).updCore n fun (k : CoreSt) => { k with aborting := ab }).wr (.CORE_STATUS_Cause n) c).raise 0x0301 n c
  else
    let s := s.updCore n fun (c : CoreSt) =>
      { c.landAll with rpt := none, branch := none, wait := none, deadline := none, resume := none, pc := (s.rd (.INT_VECBASE_VecBase n) + 64) % 8192 }
    let s := ((s.wr (.INT_SAVE_EPC n) epc).wr (.INT_SAVE_Cause n) cause).wr (.CORE_FLAGS_NmiActive n) 1
    (s.wr (.CORE_STATUS_Cause n) cause).wr (.CORE_STATUS_State n) 1

/-- A core's clock runs, and the core is RUNNING or WAITING. -/
def State.coreLive (s : State) (n : Nat) : Bool := s.locked 1 && (s.coreState n == 1 || s.coreState n == 2)

/-- Errors raised by no instruction are taken at the next instruction boundary. -/
def State.takeErr (s : State) (n : Fin 16) : State :=
  match (s.core n).errs with
  | [] => s
  | e :: es => if s.coreLive n then (s.updCore n fun (c : CoreSt) => { c with errs := es }).nmi n e (s.core n).pc else s

/-- An error that no instruction raises (R321, R322, R324). -/
def State.coreErr (s : State) (n : Fin 16) (cause : Nat) : State :=
  s.updCore n fun (c : CoreSt) => { c with errs := c.errs ++ [cause] }

/-! DMA (R324, R325) -/

/-- The system address, or byte of the table store, of a channel's remote area, and its length. The area of firmware tables begins the
tables of the fabric SRAM (R28). -/
def State.dmaArea (s : State) (n : Nat) (table : Bool) : Nat × Nat :=
  if table then (5 * 1048576, 2 * 1048576)
  else
    let base := s.rd (.CORE_WIN_Base n) * 1048576
    let size := s.rd (.CORE_WIN_Size n) * 1048576
    (s.regionBase 3 + base, min size (s.regionSize 3 - base))

/-- A channel's remote offset. -/
def State.dmaRemote (s : State) (n c : Nat) : Nat :=
  s.rd (.DMA_REMOTE_LO_Addr n c) + s.rd (.DMA_REMOTE_HI_Addr n c) * 2 ^ 32

/-- The check of a whole transfer before anything moves: the first error of the table of R324 that applies. -/
def State.dmaCheck (s : State) (n c : Nat) (toRemote table : Bool) : Nat :=
  let row := s.rd (.DMA_SHAPE_RowBytes n c)
  let last := s.rd (.DMA_SHAPE_Rows n c) - 1
  let loc := s.rd (.DMA_LOCAL_Addr n c)
  let rem_ := s.dmaRemote n c
  if dataEnd < loc + 8 * s.rd (.DMA_STRIDE_LStride n c) * last + row then 1
  else if !(table == false && s.memMode == 3) && decide ((s.dmaArea n table).2 < rem_ + 8 * s.rd (.DMA_STRIDE_RStride n c) * last + row) then 2
  else if toRemote && table then 3
  else if loc % 8 != 0 || rem_ % 8 != 0 || row % 8 != 0 then 4
  else if !table && s.memMode == 3 then 5
  else 0

/-- A channel ends with an error, and the DMA NMI for codes 1 – 5. -/
def State.dmaError (s : State) (n : Fin 16) (c e : Nat) : State :=
  let s := (s.wr (.DMA_STATUS_Busy n c) 0).wr (.DMA_STATUS_Error n c) e
  let s := s.updCore n fun (x : CoreSt) => { x with dma := vupd x.dma (fin 3 c) fun _ => none }
  if 1 ≤ e ∧ e ≤ 5 then s.coreErr n 4 else s

/-- Go on a channel that is not Busy: it checks its transfer and starts (R324). -/
def State.dmaGo (s : State) (n : Fin 16) (c : Nat) : State :=
  let dir := s.on (.DMA_CTRL_Dir n c)
  let tab := s.on (.DMA_CTRL_Target n c)
  let e := s.dmaCheck n c dir tab
  let s := s.wr (.DMA_STATUS_Error n c) 0
  if e ≠ 0 then s.dmaError n c e
  else (s.wr (.DMA_STATUS_Busy n c) 1).updCore n fun (x : CoreSt) => { x with dma := vupd x.dma (fin 3 c) fun _ => some ⟨dir, tab⟩ }

/-- A core moves words from one place to another, with their poison (R325). -/
def moveWords (n : Nat) (src dst : Nat → Nat) : Nat → State → State
  | 0, s => s
  | k + 1, s =>
    let s := moveWords n src dst k s
    let (d, bad) := s.fetchWord n (src k)
    (s.fetched n (src k)).setWord (dst k) d bad

/-- Move the rows of a transfer. PRESUMED, unsafe: log 76. -/
def State.dmaRows (s : State) (n c : Nat) (d : DmaSt) : Nat → State → State
  | 0, t => t
  | k + 1, t =>
    let t := s.dmaRows n c d k t
    let loc := s.rd (.DMA_LOCAL_Addr n c) + 8 * s.rd (.DMA_STRIDE_LStride n c) * k
    let rem_ := s.dmaRemote n c + 8 * s.rd (.DMA_STRIDE_RStride n c) * k
    let here := fun (i : Nat) => sramLoc (coreSram n) (loc / 8 + i)
    let base := (s.dmaArea n d.table).1
    let there := fun (i : Nat) => if d.table then sramLoc 8 ((base + rem_) / 8 + i) else s.dramLoc (base + rem_ + 8 * i)
    let words := s.rd (.DMA_SHAPE_RowBytes n c) / 8
    if d.toRemote then moveWords n here there words t else moveWords n there here words t

/-! Local I/O (R297, R318 – R332) -/

/-- A core reads a register of its own space (R297); TIME_LO latches TIME_HI for it (R510). -/
def State.ioRead (s : State) (n : Fin 16) (a : Nat) : Word × State :=
  if a = 0x70300 then
    (BitVec.ofNat 32 s.now, s.updCore n fun (c : CoreSt) => { c with timeLatch := some (BitVec.ofNat 32 (s.now / 2 ^ 32)) })
  else if a = 0x70304 then
    match (s.core n).timeLatch with
    | some v => (v, s.updCore n fun (c : CoreSt) => { c with timeLatch := none })
    | none => (BitVec.ofNat 32 (s.now / 2 ^ 32), s)
  else if a = 0x70308 then (BitVec.ofNat 32 (s.curEpoch + 65536 * n.val), s)
  else (rfWord s.regs (coreReg n a) &&& readMask (coreReg n a), s)

/-- The watchdogs restart (R322, R484). -/
def State.kick (s : State) (n : Fin 16) : State :=
  let s := s.updCore n fun (c : CoreSt) => { c with wdogFrom := s.xt }
  if bit (s.rd .SYS_WDOG_CORES_CoreMask) n then { s with power := { s.power with wdogFrom := s.xt, wdogWarned := false } } else s

/-- SIGNAL.Doorbell sets source 9 on other cores (R318). -/
def State.doorbell (s : State) (n mask : Nat) : State :=
  (List.range 16).foldl (fun (s : State) (k : Nat) => if bit mask k && k != n then s.setSource k 9 else s) s

/-- A firmware alarm (R332). DESIGN CHOICE, unsafe: log 77. -/
def State.alarmRaise (s : State) (n data : Nat) : State :=
  let code := data % 65536
  if 0xF000 ≤ code then s.raiseSev code (min 3 (data / 65536 % 8)) (s.rd (.ALARM_ARG0_Arg n)) (s.rd (.ALARM_ARG1_Arg n))
  else s.wr (.CORE_FLAGS_AlarmErr n) 1

/-- A core writes a register of its own space: RW fields are set, W1C bits cleared, and the effects of the register follow. -/
def State.ioWrite (s : State) (n : Fin 16) (a : Nat) (v : Word) : State :=
  let ra := coreReg n a
  let dma := decide (0x70100 ≤ a) && decide (a < 0x70180)
  let c := (a - 0x70100) / 0x20
  let q := (a - 0x70000) / 0x10
  let sp := decide (a < 0x70040)
  if dma && a % 0x20 != 0x14 && s.on (.DMA_STATUS_Busy n c) then s
  else if dma && a % 0x20 == 0x14 && bit v.toNat 0 && s.on (.DMA_STATUS_Busy n c) then s.wr (.DMA_STATUS_Error n c) 7
  else if sp && a % 0x10 == 4 && decide (2 ^ s.rd (.STREAM_CFG_LenLog n q) < (s.rd (.SP_WP_Count n q) + 2 ^ 32 - v.toNat) % 2 ^ 32) then s
  else
    let old := rfWord s.regs ra
    let new := overlayWord (vMask ra) (old &&& ~~~(w1cMask ra &&& v)) v
    let s := { s with regs := rfSet s.regs ra new }
    if dma && a % 0x20 == 0x14 then (if bit v.toNat 0 then s.dmaGo n c else s)
    else if sp || a = 0x70204 then s.setLevels n
    else if a = 0x7030C then s.updCore n fun (c : CoreSt) => { c with timerFrom := s.xt }
    else if a = 0x70310 then (if bit v.toNat 0 then s.kick n else s).doorbell n (v.toNat / 65536)
    else if a = 0x7031C then s.wr (.CORE_MBOX_OUT_Mail n) v.toNat
    else if a = 0x70328 then s.alarmRaise n v.toNat
    else s

/-! Memory slots (R301 – R303, R308) -/

/-- The accesses of a word in order: slot, address, size, operation, register name, pointer and its value afterwards. -/
structure Acc where
  op : Nat
  r : Nat
  addr : Nat
  size : Nat
  ptr : Nat
  after : Word
  moves : Bool
deriving DecidableEq, Repr

/-- The accesses of a word: slot B addresses through a pointer that slot A has modified (R303). -/
def CoreSt.accesses (c : CoreSt) (w : Nat) : List Acc :=
  let one : Nat → Word → Acc := fun (x : Nat) (p : Word) =>
    let (ad, after) := c.address (mN x) (mMode x) (mSize (mOp x)) p
    (⟨mOp x, mR x, ad.toNat, mSize (mOp x), mN x, after, decide (1 ≤ mMode x) && decide (mMode x ≤ 3)⟩ : Acc)
  let xa := mSlot w false
  let xb := mSlot w true
  let a := one xa (c.a (mN xa))
  let pb := if mOp xa != 0 && mN xb == mN xa then a.after else c.a (mN xb)
  (if mOp xa = 0 then [] else [a]) ++ (if mOp xb = 0 then [] else [one xb pb])

/-- The bytes a store writes. -/
def CoreSt.storeBytes (c : CoreSt) (x : Acc) : List Byte :=
  if x.op = 6 then le 4 (c.get x.r).toNat ++ le 4 (c.get (x.r + 1)).toNat else le x.size (c.get x.r).toNat

/-- Carry out one access of a core: `c` is the core as the instruction issued. -/
def State.access (s : State) (n : Fin 16) (c : CoreSt) (x : Acc) : State :=
  let ptr : List Flight := if x.moves then [⟨1, false, .addr x.ptr x.after⟩] else []
  let put := fun (s : State) (fs : List Flight) => s.updCore n fun (k : CoreSt) => k.fly (ptr ++ fs)
  if mStore x.op then
    let s := if x.addr < dataEnd then s.sramWrite n (coreSram n) x.addr (c.storeBytes x) else s.ioWrite n x.addr (c.get x.r)
    put s []
  else
    let (v, s) := if x.addr < dataEnd then
        let ((bs, bad), s) := s.sramLoad n (coreSram n) x.addr x.size
        (leNat bs, s.corePoison n bad)
      else
        let (v, s) := s.ioRead n x.addr
        (v.toNat, s)
    let w := fun (k v : Nat) => (⟨3, false, .w (physOf c.wsl k) (BitVec.ofNat 32 v)⟩ : Flight)
    if x.op = 1 then put s [w x.r (ofS 32 (toS 16 v))]
    else if x.op = 2 then put s [w x.r v]
    else put s [w x.r v, w (x.r + 1) (v / 2 ^ 32)]

/-! Flow (R309, R315, R316, R319) -/

/-- A handler returns: a RACQ that its entry interrupted at the index it returns to goes on with the deadline of its first issue (R320). -/
def CoreSt.leave (c : CoreSt) (epc : Nat) : CoreSt :=
  match c.kept with
  | [] => c
  | (a, d) :: ks => { c with kept := ks, resume := if a = epc then d else none }

/-- After an instruction has issued: the next index, through delay slots and RPT blocks. -/
def State.flow (s : State) (n : Fin 16) : State :=
  let c := s.core n
  let next := (c.pc + 1) % 8192
  match c.branch with
  | some (k, t) =>
    if 1 < k then s.updCore n fun (c : CoreSt) => { c with pc := next, branch := some (k - 1, t) }
    else match t with
      | some t => s.updCore n fun (c : CoreSt) => { c with pc := t % 8192, branch := none }
      | none =>
        (s.updCore n fun (c : CoreSt) =>
          { c.leave (s.rd (.INT_SAVE_EPC n)) with pc := s.rd (.INT_SAVE_EPC n), wsl := s.rd (.INT_SAVE_EWSL n), branch := none }).wr (.INT_SAVE_IE n) 1
  | none => match c.rpt with
    | none => s.updCore n fun (c : CoreSt) => { c with pc := next }
    | some r =>
      if r.at_ + 1 < r.words then s.updCore n fun (c : CoreSt) => { c with pc := next, rpt := some { r with at_ := r.at_ + 1 } }
      else s.updCore n fun (c : CoreSt) =>
        { c with wsl := (c.wsl + r.step) % 32, pc := if r.left ≤ 1 then next else r.first,
                 rpt := if r.left ≤ 1 then none else some { r with at_ := 0, left := r.left - 1 } }

/-- A branch is taken after its two delay slots. -/
def State.branchTo (s : State) (n : Fin 16) (t : Option Nat) : State :=
  s.updCore n fun (c : CoreSt) => { c with pc := (c.pc + 1) % 8192, branch := some (2, t) }

/-- The condition of BR (R309). -/
def brHolds (c : Nat) (v : Int) : Bool :=
  match c with
  | 0 => true
  | 1 => decide (v = 0)
  | 2 => decide (v ≠ 0)
  | 3 => decide (v < 0)
  | 4 => decide (0 ≤ v)
  | 5 => decide (0 < v)
  | _ => decide (v ≤ 0)

/-- A result that the next instruction sees. -/
def State.setW (s : State) (n : Fin 16) (k : Nat) (v : Word) : State :=
  s.updCore n fun (c : CoreSt) => c.fly [⟨1, false, .w (physOf c.wsl k) v⟩]

/-- RPT (R315). -/
def State.rptGo (s : State) (n : Fin 16) (w : Nat) : State :=
  let words := bits w 56 52 + 1
  let count := if bit w 51 then ((s.core n).get (bits w 50 45)).toNat else bits w 41 32 + 1
  s.updCore n fun (c : CoreSt) =>
    if count = 0 then { c with pc := (c.pc + 1 + words) % 8192 }
    else { c with pc := (c.pc + 1) % 8192, rpt := some ⟨(c.pc + 1) % 8192, words, 0, count, bits w 31 29⟩ }

/-- The control format, RACQ and RCOM apart (R309). DESIGN CHOICE, unsafe: log 74. -/
def State.control (s : State) (n : Fin 16) (w : Nat) : State :=
  let c := s.core n
  match kOp w with
  | 0x01 => (s.setW n (bits w 56 51) (BitVec.ofNat 32 (kImm w))).flow n
  | 0x02 => (s.setW n (bits w 56 51) (c.get (bits w 50 45) + BitVec.ofNat 32 (kImm w))).flow n
  | 0x03 => (s.updCore n fun (c : CoreSt) => c.fly [⟨2, false, .addr (bits w 56 51) (BitVec.ofNat 32 (kImm w))⟩]).flow n
  | 0x04 => if brHolds (bits w 56 54) (c.getS (bits w 50 45)) then s.branchTo n (some (kT w)) else s.flow n
  | 0x05 => (s.setW n (bits w 56 51) (BitVec.ofNat 32 ((c.pc + 3) % 8192))).branchTo n (some (kT w))
  | 0x06 => s.branchTo n (some ((c.get (bits w 50 45)).toNat % 8192))
  | 0x07 =>
    let v := c.get (bits w 50 45) - 1
    let s := s.setW n (bits w 50 45) v
    if v != 0 then s.branchTo n (some (kT w)) else s.flow n
  | 0x08 => s.rptGo n w
  | 0x09 => (s.updCore n fun (c : CoreSt) => { c with wsl := bits w 4 0 }).flow n
  | 0x0A => (s.wr (.INT_SAVE_IE n) 1).flow n
  | 0x0B => (s.wr (.INT_SAVE_IE n) 0).flow n
  | 0x0C => s.branchTo n none
  | 0x0F => (s.wr (.RING_STATUS_Held n) 0).flow n
  | 0x10 => (s.flow n).wr (.CORE_STATUS_State n) 3
  | 0x11 => (s.flow n).wr (.CORE_STATUS_State n) (if s.takeable n = 0 then 2 else 1)
  | 0x12 => (s.setSource n 14).flow n
  | _ => s.flow n

/-! Ring port (R329, R330) -/

/-- A ring-port instruction completes with a result; the next instruction sees it, after the results of earlier instructions (R311, R313). -/
def State.portDone (s : State) (n : Fin 16) (phys result : Nat) : State :=
  let s := s.updCore n fun (c : CoreSt) =>
    { c.fly [⟨1, false, .w phys (BitVec.ofNat 32 result)⟩] with
      wait := none, deadline := none }
  (s.wr (.RING_STATUS_Last n) result).flow n

/-- Credit is held on a ring. -/
def State.giveCredit (s : State) (n r size : Nat) : State :=
  ((s.wr (.RING_STATUS_Held n) 1).wr (.RING_STATUS_Ring n) r).wr (.RING_STATUS_Size n) (size / 8)

/-- RACQ (R329). `first` is the deadline of its first issue, where an interrupt has ended that one and has returned to it (R320). -/
def State.racq (s : State) (n : Fin 16) (w : Nat) (first : Option Nat) : State :=
  let c := s.core n
  let r := bits w 44 41
  let size := (c.get (bits w 50 45)).toNat
  let phys := physOf c.wsl (bits w 56 51)
  if s.on (.RING_STATUS_Held n) then s.portDone n phys 2
  else if size % 8 != 0 || size < 16 || 8 * s.rd (.CORE_RING_MaxLen n) < size then s.portDone n phys 3
  else if s.rd (.RING_STATE_State r) != 1 then s.portDone n phys 4
  else if s.headRoom (fin 15 r) size then (s.giveCredit n r size).portDone n phys 0
  else
    s.updCore n fun (c : CoreSt) =>
      { c with wait := some (.credit r size phys),
               deadline := some (first.getD (s.xt + s.rd (.CORE_RING_Timeout n) * 10000)) }

/-- The header of a firmware record is accepted (R330). -/
def State.headerOk (s : State) (n : Nat) (b : List Byte) : Bool :=
  let t := leAt b 0 2
  let r := s.rd (.RING_STATUS_Ring n)
  leAt b 2 2 == s.rd (.RING_STATUS_Size n) &&
    ((r == 7 && decide (0x0400 ≤ t) && decide (t ≤ 0x04FF)) || (r == 9 && decide (0x0680 ≤ t) && decide (t ≤ 0x06FF)))

/-- The pointer of RCOM is good: 0, or the cause of an error (R302, R330). -/
def State.rcomError (s : State) (n : Fin 16) (w : Nat) : Nat :=
  let a := ((s.core n).a (bits w 44 41)).toNat
  if !s.on (.RING_STATUS_Held n) then 0
  else if a % 8 != 0 then 2
  else if dataEnd < a + 8 * s.rd (.RING_STATUS_Size n) then 3
  else 0

/-- The bytes at the pointer of RCOM. -/
def State.rcomBytes (s : State) (n : Fin 16) (w : Nat) : List Byte × Bool :=
  s.sramRead n (coreSram n) ((s.core n).a (bits w 44 41)).toNat (8 * s.rd (.RING_STATUS_Size n))

/-- RCOM (R330). DESIGN CHOICE, unsafe: log 75. -/
def State.rcom (s : State) (n : Fin 16) (w : Nat) : State :=
  let phys := physOf (s.core n).wsl (bits w 56 51)
  if !s.on (.RING_STATUS_Held n) then s.portDone n phys 5
  else if !s.headerOk n (s.rcomBytes n w).1 then (s.loseCredit n).portDone n phys 6
  else s.updCore n fun (c : CoreSt) => { c with wait := some (.copy phys) }

/-! Issue -/

/-- The next word of a core, and whether its fetch was uncorrectable (R321). -/
def State.fetch (s : State) (n : Fin 16) : Nat × Bool :=
  let (bs, bad) := s.sramRead n (coreSram n) (instAddr (s.core n).pc) 8
  (leNat bs, bad)

/-- A core is inside an RPT body, where it keeps every bank of its data memory (R298). -/
def State.inRpt (s : State) (n : Fin 16) : Bool := (s.core n).rpt.isSome

/-- A core can issue: RUNNING on a running clock, not in a ring-port wait. -/
def State.canIssue (s : State) (n : Fin 16) : Bool := s.locked 1 && s.coreState n == 1 && (s.core n).wait.isNone

/-- The first error of a word at its issue: 0 none (R302, R310, R321). -/
def State.wordError (s : State) (n : Fin 16) (w : Nat) : Nat :=
  let s := s.updCore n CoreSt.advance
  let c := s.core n
  if !c.legal w (s.nmiActive n) then 1
  else if isCtl w then (if kOp w = 0x0E then s.rcomError n w else 0)
  else ((c.accesses w).map fun (x : Acc) => accessError x.addr x.size).foldl (fun (e f : Nat) => if e = 0 then f else e) 0

/-- An access stores to CORE_FLAGS. -/
def clearsFlags (x : Acc) : Bool := mStore x.op && decide (x.addr / 4 = 0x7032C / 4)

/-- The flags of CORE_FLAGS that a word's compute slot and accesses set: a store of the same word does not clear them (R14). -/
def State.flagEvents (s : State) (n : Fin 16) (c : CoreSt) (acted : Bool) (xs : List Acc) : Nat :=
  let s := { s with regs := rfSet s.regs (coreReg n 0x7032C) 0 }
  let t := (xs.filter fun (x : Acc) => !clearsFlags x).foldl (fun (s : State) (x : Acc) => s.access n c x) (s.accSat n acted)
  (rfWord t.regs (coreReg n 0x7032C)).toNat

/-- Set flags of CORE_FLAGS. -/
def State.orFlags (s : State) (n : Fin 16) (m : Nat) : State :=
  if m = 0 then s else { s with regs := rfSet s.regs (coreReg n 0x7032C) (rfWord s.regs (coreReg n 0x7032C) ||| BitVec.ofNat 32 m) }

/-- A legal word without errors issues: compute slot, slot A, slot B, flow; or the control operation. -/
def State.issueWord (s : State) (n : Fin 16) (w : Nat) : State :=
  let first := (s.core n).resume
  let s := s.updCore n fun (c : CoreSt) => { c.advance with resume := none }
  let c := s.core n
  let s := s.wr (.CORE_STATUS_Pc n) c.pc
  if isCtl w then
    (if kOp w = 0x0D then s.racq n w first else if kOp w = 0x0E then s.rcom n w else s.control n w)
  else
    let (fs, acted) := c.compute w
    let s := (s.updCore n fun (c : CoreSt) => c.fly fs).accSat n acted
    let t := (c.accesses w).foldl (fun (s : State) (x : Acc) => s.access n c x) s
    (t.orFlags n (if (c.accesses w).any clearsFlags then s.flagEvents n c acted (c.accesses w) else 0)).flow n

/-- A core issues its next word, or takes the error the word raises (R310, R321). -/
def State.issue (s : State) (n : Fin 16) : State :=
  let (w, bad) := s.fetch n
  let e := if bad then 6 else s.wordError n w
  let s := if bad then (s.sramLoad n (coreSram n) (instAddr (s.core n).pc) 8).2 else s
  (if e ≠ 0 then s.nmi n e (s.core n).pc else s.issueWord n w).takeErr n

/-- Operations of an instruction word: an opcode of the compute slot, of a memory slot, or of the control format. -/
inductive BrewOp
  | comp (op : Nat)
  | mem (op : Nat)
  | ctl (op : Nat)
deriving DecidableEq, Repr

/-- A word contains an operation. -/
def hasOp (w : Nat) : BrewOp → Bool
  | .comp k => !isCtl w && cOp w == k
  | .mem k => !isCtl w && (mOp (mSlot w false) == k || mOp (mSlot w true) == k)
  | .ctl k => isCtl w && kOp w == k

/-- The core's next word contains the operation, and the core can issue it. -/
def State.nextHas (s : State) (n : Fin 16) (op : BrewOp) : Bool := s.canIssue n && !(s.fetch n).2 && hasOp (s.fetch n).1 op

/-- An operation's row: the core issues its next word when that word contains the operation. DESIGN CHOICE, unsafe: log 71. -/
def State.runOp (s : State) (n : Fin 16) (op : BrewOp) : State := if s.nextHas n op then s.issue n else s

/-- The words that the core's next instruction stores in its local I/O (R297). -/
def State.ioStores (s : State) (n : Fin 16) : List (Nat × Word) :=
  let (w, bad) := s.fetch n
  let c := (s.core n).advance
  if !s.canIssue n || bad || s.wordError n w ≠ 0 || isCtl w then []
  else ((c.accesses w).filter fun (x : Acc) => x.op == 5 && decide (dataEnd ≤ x.addr)).map fun (x : Acc) => (x.addr, c.get x.r)

/-- A row that names a store to the local I/O: the core issues its next word when it makes such a store. -/
def State.runStore (s : State) (n : Fin 16) (hit : Nat × Word → Bool) : State := if (s.ioStores n).any hit then s.issue n else s

/-! Clock, epochs -/

/-- The CORE clock stops: the cores freeze (R336). The watchdog's count stands. -/
def State.freezeCores (s : State) : State :=
  { s with cores := s.cores.map fun (c : CoreSt) => { c with wdogFrom := s.xt - c.wdogFrom } }
/-- The CORE clock runs again. A timer period that elapsed meanwhile sets source 8 once (R336). -/
def State.thawCores (s : State) : State :=
  let s := { s with cores := s.cores.map fun (c : CoreSt) => { c with wdogFrom := s.xt - c.wdogFrom } }
  (List.finRange 16).foldl (fun (s : State) (n : Fin 16) =>
    if (s.core n).timerMissed then (s.setSource n 8).updCore n fun (c : CoreSt) => { c with timerMissed := false } else s) s

/-- A core starts at T_c: one that runs ends first, and an ABORT that has not been accepted yet stays due (R334, R337). -/
def State.restartCore (s : State) (n : Fin 16) : State :=
  if s.coreState n = 0 then s.startCore n
  else
    let ab := (s.core n).aborting
    ((s.stopCore n 0).startCore n).updCore n fun (c : CoreSt) => { c with aborting := ab }

/-- What T_c does to the cores (R318, R334). -/
def State.coresSwitched (s : State) (old : RegFile) : State :=
  (List.finRange 16).foldl (fun (s : State) (n : Fin 16) =>
    let was := rfRd old (.CORE_CTRL_Run n)
    let now := s.rd (.CORE_CTRL_Run n)
    if was = 0 ∧ now = 1 then s.restartCore n
    else if was = 1 ∧ now = 0 then (if s.coreState n = 0 then s else s.updCore n fun (c : CoreSt) => { c with aborting := true })
    else s.setSource n 11) s

end Sys2Proof.Machine
end

