-- ==== Sys2Proof/Machine/Libm.lean ====
section
/-! DEFINITION. The functions of binary64 that the rules name: log, log10, pow(10, ·), sin, cos, atan2 and asin. Each is evaluated in fixed point, LSB 2^-200,
and rounded once to nearest, as R552 has it of the individual operations of binary64. -/
namespace Sys2Proof.Machine

/-- π, LSB 2^-200. -/
def piW : Int := 5048344754617993871973410141242436836214643421488662971535368
/-- 1 / (2π), LSB 2^-320. -/
def turnW : Int := 339952895147018642535639799349517299692324064546005894715236429198937636543799886830530695754936
/-- ln 2, LSB 2^-200. -/
def ln2W : Int := 1113844574712631719546256151097547306333272293549090750737802
/-- ln 10, LSB 2^-200. -/
def ln10W : Int := 3700111586075757022815855548858213034251116522195805159045647
/-- 1, LSB 2^-200. -/
def oneW : Int := 2 ^ 200
/-- Product of two values of LSB 2^-200. -/
def mulW (a b : Int) : Int := asr (a * b) 200

/-- Sum of t^(2i+1) / (2i+1): the series of the inverse hyperbolic tangent. -/
def atanhGo (sq : Int) : Nat → Nat → Int → Int → Int
  | 0, _, _, acc => acc
  | n + 1, k, t, acc => atanhGo sq n (k + 2) (mulW t sq) (acc + tdiv t (k : Int))

/-- ln (m × 2^e) of a positive m, LSB 2^-200. -/
def lnW (m : Nat) (e : Int) : Int :=
  let k := log2 m
  let z : Int := ((m * 2 ^ 200 / 2 ^ k : Nat) : Int)
  let t := (z - oneW) * oneW / (z + oneW)
  2 * atanhGo (mulW t t) 72 1 t 0 + ((k : Int) + e) * ln2W

/-- Sum of the exponential series. -/
def expSeries (x : Int) : Nat → Nat → Int → Int → Int
  | 0, _, _, acc => acc
  | n + 1, k, t, acc => expSeries x n (k + 1) (tdiv (mulW t x) (k : Int)) (acc + t)

/-- A binary64 value to LSB 2^-200, cut off below. -/
def toW (neg : Bool) (m : Nat) (e : Int) : Int :=
  let v : Int := if 0 ≤ e + 200 then (m * 2 ^ (e + 200).toNat : Nat) else asr m (-(e + 200)).toNat
  if neg then -v else v

/-- log of binary64. DEDUCED, unsafe: log 19. -/
def dln (a : Nat) : Nat :=
  match fdecode fmt64 a with
  | .fin neg m e => if m = 0 then finfBits fmt64 true else if neg then fnanBits fmt64 else dscaled (lnW m e) (-200)
  | .inf neg => if neg then fnanBits fmt64 else a
  | .nan => a

/-- log10 of binary64. -/
def dlog10 (a : Nat) : Nat :=
  match fdecode fmt64 a with
  | .fin neg m e => if m = 0 then finfBits fmt64 true else if neg then fnanBits fmt64 else
      let v := lnW m e
      froundQ fmt64 (decide (v < 0)) v.natAbs ln10W.toNat 0 false
  | .inf neg => if neg then fnanBits fmt64 else a
  | .nan => a

/-- pow(10, x) of binary64. -/
def dpow10 (a : Nat) : Nat :=
  match fdecode fmt64 a with
  | .fin neg m e =>
    if 2048 ≤ (log2 m : Int) + e ∧ m ≠ 0 then (if neg then 0 else finfBits fmt64 false)
    else
      let y := mulW (toW neg m e) ln10W
      let n := y / ln2W
      dscaled (expSeries (y - n * ln2W) 56 1 oneW 0) (n - 200)
  | .inf neg => if neg then 0 else a
  | .nan => a

/-- Sum of a Taylor series in −θ², from a term of order `k`. -/
def trigGo (sq : Int) : Nat → Nat → Int → Int → Int
  | 0, _, _, acc => acc
  | n + 1, k, t, acc => trigGo sq n (k + 2) (-(tdiv (mulW t sq) (((k + 1) * (k + 2) : Nat) : Int))) (acc + t)

/-- cos of an angle in turns, LSB 2^-200, from 0 up to 1. -/
def cosW (t : Int) : Int :=
  let q := 4 * t / oneW
  let y := 4 * t % oneW
  let cosS := fun (th : Int) => trigGo (mulW th th) 30 0 oneW 0
  let sinS := fun (th : Int) => trigGo (mulW th th) 30 1 th 0
  let half := piW / 2
  let low := decide (2 * y ≤ oneW)
  let a := mulW half (if low then y else oneW - y)
  let c := if low then cosS a else sinS a
  let s := if low then sinS a else cosS a
  if q = 0 then c else if q = 1 then -s else if q = 2 then -c else s

/-- A binary64 angle in radians as turns, LSB 2^-200, from 0 up to 1. -/
def turnsOf (neg : Bool) (m : Nat) (e : Int) : Int :=
  let v := (m : Int) * turnW
  let t := if 0 ≤ e - 120 then v * 2 ^ (e - 120).toNat else asr v (120 - e).toNat
  (if neg then -t else t) % oneW

/-- cos of binary64. -/
def dcos (a : Nat) : Nat :=
  match fdecode fmt64 a with
  | .fin neg m e => dscaled (cosW (turnsOf neg m e)) (-200)
  | _ => fnanBits fmt64

/-- sin of binary64. -/
def dsin (a : Nat) : Nat :=
  match fdecode fmt64 a with
  | .fin neg m e => dscaled (cosW ((turnsOf neg m e - oneW / 4) % oneW)) (-200)
  | _ => fnanBits fmt64

/-- Half the angle of a tangent, LSB 2^-200: t / (1 + √(1 + t²)). -/
def halfTanW (t : Int) : Int := t * oneW / (oneW + (isqrt (oneW * oneW + t * t).toNat : Int))

/-- Series of the inverse tangent of a small t, LSB 2^-200. -/
def atanGoW (sq : Int) : Nat → Nat → Int → Int → Int
  | 0, _, _, acc => acc
  | n + 1, k, t, acc => atanGoW sq n (k + 2) (-(mulW t sq)) (acc + tdiv t (k : Int))

/-- The angle of (x, y), not the origin, in radians from −π to π, LSB 2^-200. -/
def atan2W (y x : Int) : Int :=
  let a := (x.natAbs : Int)
  let b := (y.natAbs : Int)
  let big := decide (a < b)
  let t := if big then a * oneW / b else b * oneW / a
  let t := halfTanW (halfTanW t)
  let ang := 4 * atanGoW (mulW t t) 90 1 t 0
  let ang := if big then piW / 2 - ang else ang
  let ang := if x < 0 then piW - ang else ang
  if y < 0 then -ang else ang

/-- Two binary64 values as integers of one common scale. -/
def commonW (a b : Bool × Nat × Int) : Int × Int :=
  let e := min a.2.2 b.2.2
  (falign a.1 a.2.1 a.2.2 e, falign b.1 b.2.1 b.2.2 e)

/-- atan2(y, x) of binary64, finite operands, not both 0. -/
def datan2 (y x : Nat) : Nat :=
  match fdecode fmt64 y, fdecode fmt64 x with
  | .fin ny my ey, .fin nx mx ex =>
    let v := commonW (ny, my, ey) (nx, mx, ex)
    dscaled (atan2W v.1 v.2) (-200)
  | _, _ => fnanBits fmt64

/-- asin(x) of binary64 for an operand from −1 to 1: the angle whose sine is x. -/
def dasin (x : Nat) : Nat :=
  match fdecode fmt64 x with
  | .fin n m e =>
    let v := toW n m e
    dscaled (atan2W v (isqrt (oneW * oneW - v * v).toNat)) (-200)
  | _ => fnanBits fmt64

end Sys2Proof.Machine
end

