-- ==== Sys2Proof/Machine/Trig.lean ====
section
/-! DEFINITION. Trigonometry in fixed point, far finer than any rounding a rule makes of it, and the fixed tables that the
rules define by formulas (R124, R125, R134). -/
namespace Sys2Proof.Machine

/-- π, LSB 2^-100. -/
def piQ : Int := 3982441812995697363688351113952

/-- 1, LSB 2^-100. -/
def oneQ : Int := 2 ^ 100

/-- Product of two values of LSB 2^-100. -/
def mulQ (a b : Int) : Int := asr (a * b) 100

/-- Sum of a Taylor series in −θ², from term `t` of order `k`. -/
def taylorGo (sq : Int) : Nat → Nat → Int → Int → Int
  | 0, _, _, acc => acc
  | n + 1, k, t, acc => taylorGo sq n (k + 2) (-(tdiv (mulQ t sq) (((k + 1) * (k + 2) : Nat) : Int))) (acc + t)

/-- cos θ for a small θ, LSB 2^-100. -/
def cosSmall (th : Int) : Int := taylorGo (mulQ th th) 24 0 oneQ 0

/-- sin θ for a small θ, LSB 2^-100. -/
def sinSmall (th : Int) : Int := taylorGo (mulQ th th) 24 1 th 0

/-- cos of n/d turns, LSB 2^-100. -/
def cosTurn (n d : Int) : Int :=
  if d ≤ 0 then oneQ
  else
    let r := 4 * (n % d)
    let q := r / d
    let y := r % d
    let half := piQ / 2
    let (c, s) := if 2 * y ≤ d then (cosSmall (half * y / d), sinSmall (half * y / d))
      else (sinSmall (half * (d - y) / d), cosSmall (half * (d - y) / d))
    if q = 0 then c else if q = 1 then -s else if q = 2 then -c else s

/-- sin of n/d turns, LSB 2^-100. -/
def sinTurn (n d : Int) : Int := cosTurn (4 * n - d) (4 * d)

/-- Round a value of LSB 2^-100 times `k` to an integer (R552). -/
def roundQ (k v : Int) : Int := roundDiv (k * v) oneQ

/-- cos18 of a 32-bit phase word (R125). -/
def cos18 (ph : Nat) : Int := roundQ 65536 (cosTurn ph (2 ^ 32))
/-- sin18 of a 32-bit phase word (R125). -/
def sin18 (ph : Nat) : Int := roundQ 65536 (sinTurn ph (2 ^ 32))

/-- The taps hd[0] – hd[64] of R125, evaluated from its formula. -/
def hdTaps : List Int :=
  [0, -6, -18, -37, -59, -78, -82, -59, 0, 100, 233, 382, 511, 579, 539, 351, 0, -502, -1100, -1699, -2170, -2363, -2134,
   -1366, 0, 1950, 4383, 7118, 9912, 12485, 14563, 15913] ++
  [16380, 15913, 14563, 12485, 9912, 7118, 4383, 1950, 0, -1366, -2134, -2363, -2170, -1699, -1100, -502, 0, 351, 539,
   579, 511, 382, 233, 100, 0, -59, -82, -78, -59, -37, -18, -6, 0]

/-- sat24 of R125. -/
def sat24 (v : Int) : Int := clampI (-8388608) 8388607 v

end Sys2Proof.Machine
end

