-- ==== Sys2Proof/Machine/Plan.lean ====
section
/-! DEFINITION. The probe plan of a port as its registers give it (R56 – R58, R62, R64, R79), in ns. -/
namespace Sys2Proof.Machine

/-- A tone of a plan. -/
structure Tone where
  freq : Nat     -- MHz
  amp : Nat
  off : Nat      -- o_k, ns, after R57
  type : Nat     -- 0 pulse, 1 chirp, 2 Golay, 3 reserved
  down : Bool
  chip : Nat     -- t_c, ns
  log : Nat      -- log2 L
  bw : Nat       -- MHz
  dur : Nat      -- D_k, ns (R58)
deriving DecidableEq, Repr

/-- A plan. -/
structure Plan where
  shotT : Nat     -- T_shot, ns
  tones : List Tone
  winPos : Nat
  delay : Nat     -- d, ns
  ext : Bool      -- StartSrc
  extMin : Nat    -- ns
  extMax : Nat
  extDelay : Nat
  lead : Nat
  lag : Nat
  m : Nat         -- RamanM
  rWidth : Nat    -- ns
  rDelay : Nat
deriving DecidableEq, Repr

/-- Tone k of a slot: registers of port `p`, slot `w` (0 plan, 1 watch plan, R80). -/
def toneOf (r : RegFile) (p w k n shotT : Nat) : Tone :=
  let type := rfRd r (.TONE_CODE_Type p w k)
  let chip := 8 * 2 ^ rfRd r (.TONE_CODE_Chip p w k)
  let log := rfRd r (.TONE_CODE_GolayLog p w k)
  { freq := rfRd r (.TONE_FREQ_Freq p w k), amp := rfRd r (.TONE_FREQ_Amp p w k),
    off := if rfRd r (.TONE_OFFSET_AutoOffset p w k) = 1 then k * shotT / (n * 10) * 10
      else if k = 0 then 0 else rfRd r (.TONE_OFFSET_Offset p w k) * 10,
    type := type, down := rfRd r (.TONE_CODE_Down p w k) == 1, chip := chip, log := log,
    bw := rfRd r (.TONE_CODE_ChirpBW p w k),
    dur := if type = 2 then 2 ^ log * chip else rfRd r (.TONE_DUR_Dur p w k) }

/-- The plan that a register file gives a port. -/
def planOf (r : RegFile) (p w : Nat) : Plan :=
  let shotT := rfRd r (.SHOT_PERIOD_Period p w) * 10
  let n := rfRd r (.PLAN_CTRL_ToneCount p w)
  { shotT := shotT, tones := (List.range (min n 8)).map fun k => toneOf r p w k n shotT,
    winPos := rfRd r (.WIN_POS_WinPos p w), delay := rfRd r (.WIN_DELAY_Delay p w),
    ext := rfRd r (.PLAN_CTRL_StartSrc p w) == 1,
    extMin := rfRd r (.EXT_START_ExtWidthMin p w) * 10, extMax := rfRd r (.EXT_START_ExtWidthMax p w) * 10,
    extDelay := rfRd r (.EXT_DELAY_ExtDelay p w) * 10,
    lead := rfRd r (.PGATE_CFG_PgateLead p w) * 10, lag := rfRd r (.PGATE_CFG_PgateLag p w) * 10,
    m := rfRd r (.RAMAN_TRIG_RamanM p w), rWidth := rfRd r (.RAMAN_TRIG_RamanWidth p w) * 10,
    rDelay := rfRd r (.RAMAN_DELAY_RamanDelay p w) }

/-- m_k of R58. -/
def Tone.taps (t : Tone) : Nat := ceilDiv t.dur 4

/-- m_max of R62. -/
def Plan.mMax (q : Plan) : Nat := q.tones.foldl (fun m (t : Tone) => max m t.taps) 0

/-- L_w of R62, ns. -/
def Plan.winLen (q : Plan) : Nat := (q.winPos + q.mMax) * 4

/-- A port with no tones and RamanM = 0 is idle (R68). -/
def Plan.idle (q : Plan) : Bool := q.tones.isEmpty && q.m == 0

/-- The last launch offset. -/
def Plan.lastOff (q : Plan) : Nat := q.tones.foldl (fun m (t : Tone) => max m t.off) 0

/-- t_tail of R64. -/
def Plan.tail (q : Plan) : Nat := if q.tones.isEmpty then 0 else q.shotT - q.lastOff - q.winLen

/-- Λ of R79 as a quotient, s⁻¹. -/
def Plan.load (q : Plan) : Rat :=
  q.tones.foldl (fun (a : Rat) (t : Tone) =>
    a + ((q.winPos + q.mMax : Nat) : Rat) * 8192 / ((8193 - t.taps : Nat) : Rat) * 1000000000 / (q.shotT : Rat)) 0

/-- Slots of a tone: two for a Golay tone, else one (R133). -/
def Tone.slots (t : Tone) : Nat := if t.type = 2 then 2 else 1

/-- The slot count S (R133). -/
def Plan.slotCount (q : Plan) : Nat := q.tones.foldl (fun n (t : Tone) => n + t.slots) 0

/-- The slot of tone k in shot n (R133). -/
def Plan.slotOf (q : Plan) (k n : Nat) : Nat :=
  let base := (q.tones.take k).foldl (fun n (t : Tone) => n + t.slots) 0
  match q.tones[k]? with
  | some t => if t.type = 2 ∧ n % 2 = 1 then base + 1 else base
  | none => base

/-- G of a port. -/
def gaugeOf (r : RegFile) (p : Nat) : Nat := rfRd r (.CHAIN_CTRL_Gauge p)

/-- N = WinPos − G of a port with tones (R123). -/
def nOf (r : RegFile) (p w : Nat) : Nat := (planOf r p w).winPos - gaugeOf r p

/-- The fusion fingerprint (R139). -/
def fingerprint (r : RegFile) (p w : Nat) : List Nat :=
  let q := planOf r p w
  q.tones.length :: q.delay :: gaugeOf r p :: rfRd r (.CHAIN_CTRL_Taper p) ::
    q.tones.zipIdx.flatMap fun (t : Tone × Nat) =>
      [t.1.freq, t.1.type, bnat t.1.down, t.1.chip, t.1.log, t.1.bw, rfRd r (.TONE_DUR_Dur p w t.2)]

/-- A chip of the Golay pair of R59: `b` asks for B; true stands for −1. -/
def golayNeg : Nat → Bool → Nat → Bool
  | 0, _, _ => false
  | l + 1, b, i => if i < 2 ^ l then golayNeg l false i else (golayNeg l true (i - 2 ^ l)) != b

/-- The distance of a gauge position in units of 10^-6 × c / 2 … : numerator and denominator of distance(z), mm (R123). -/
def distanceMm (r : RegFile) (p w z : Nat) : Int :=
  let d := rfRd r (.WIN_DELAY_Delay p w)
  let ns2 : Int := 2 * d + 8 * z + 4 * gaugeOf r p - 2 * rfRd r (.FIBRE_ORIGIN_Origin p)
  -- (ns2 / 2) ns × c / (2 n_g): c = 299,792,458 m/s, n_g = GroupIndex / 10,000; 1 mm = 10^-3 m
  roundDiv (ns2 * 299792458 * 10000 * 1000) (4 * (rfRd r (.GEOMETRY_GroupIndex p) : Int) * 1000000000)

/-- Positions that cover a length in m, rounded up: D20 of R165 for 20 m. -/
def positionsFor (r : RegFile) (p metres : Nat) : Nat :=
  -- Δz = 4 ns × c / (2 n_g)
  ceilDiv (metres * 2 * rfRd r (.GEOMETRY_GroupIndex p) * 1000000000) (4 * 299792458 * 10000)

end Sys2Proof.Machine
end

