-- ==== Sys2Proof/Machine/FrontEnd.lean ====
section
/-! DEFINITION. The analogue front end of a fibre port: power, correction, overrange, background trims, raw capture
(R87 – R120). Sampling instants are on the crystal count in half ns. -/
namespace Sys2Proof.Machine

/-- Update a fibre port. -/
def State.updPort (s : State) (p : Fin 4) (f : PortSt → PortSt) : State := { s with ports := vupd s.ports p f }
/-- Update the front end of a port. -/
def State.updFe (s : State) (p : Fin 4) (f : FeSt → FeSt) : State := s.updPort p fun (q : PortSt) => { q with fe := f q.fe }
/-- The front end of a port. -/
def State.feOf (s : State) (p : Fin 4) : FeSt := (s.ports.get p).fe

/-! Power (R110 – R112) -/

/-- The slices a port's plan needs: all six with tones or RefKeep, the Raman slices alone for a DTS-only port, none for
an idle one (R111). -/
def slicesFor (r : RegFile) (p w : Nat) : Nat :=
  let q := planOf r p w
  if rfRd r (.FE_CTRL_RefKeep p) = 1 ∨ !q.tones.isEmpty then 63 else if q.m ≠ 0 then 48 else 0

/-- The configurations that a port has still to take, each with the ones before it: those of the epochs whose T_c has come, and the scheduled one (R37,
R558). -/
def State.laterRegs (s : State) (p : Fin 4) : List RegFile :=
  let es := (s.epoch.queue.filter fun (e : EpochRec) => e.waiting.contains (fnPort p)).map fun (e : EpochRec) => e.changes
  let all := es ++ match s.epoch.sched with | some c => [c.changes] | none => []
  (all.foldl (fun (a : RegFile × List RegFile) (c : Sparse Word) =>
    let r := rfOverlay a.1 (ownedBy (fnPort p) c)
    (r, a.2 ++ [r])) (s.regs, [])).2

/-- The slices that the accepted commits still to come give a port to use: they have had power since the acceptance (R111). -/
def State.slicesLater (s : State) (p : Fin 4) : Nat :=
  if s.pwr != 2 || s.power.trans.isSome then 0
  else (s.laterRegs p).foldl (fun (m : Nat) (r : RegFile) => if (planOf r p 0).idle then m else Nat.lor m (slicesFor r p 0)) 0

/-- Write the slice power bits of FE_STATUS. -/
def State.showSlices (s : State) (p : Fin 4) : State :=
  let mask := (List.range 6).foldl (fun (m : Nat) (j : Nat) =>
    m + bnat ((s.feOf p).sliceFrom.get (fin 5 j)).isSome * 2 ^ j) 0
  (s.wr (.FE_STATUS_SlicePower p) mask).wrB (.FE_STATUS_RefOn p) (s.feOf p).refFrom.isSome

/-- Power the buffer and slices of a port at an instant; a pending power-down is cancelled (R111). -/
def State.powerUp (s : State) (p : Fin 4) (at_ mask : Nat) : State :=
  if mask = 0 then s
  else
    let f := s.feOf p
    let new := f.refFrom.isNone || (List.range 6).any fun j => bit mask j && (f.sliceFrom.get (fin 5 j)).isNone
    let s := s.updFe p fun (f : FeSt) =>
      { f with refFrom := some (f.refFrom.getD at_), downAt := none,
               sliceFrom := Vector.ofFn fun (j : Fin 6) =>
                 if bit mask j then some ((f.sliceFrom.get j).getD at_) else f.sliceFrom.get j }
    let s := if new then s.wr (.FE_STATUS_RefReady p) 0 else s
    s.showSlices p

/-- The last time in power of a unit that loses it now. -/
def lastPower (now : Nat) (from_ : Option Nat) (was : Option (Nat × Nat)) : Option (Nat × Nat) :=
  match from_ with
  | some t => some (t, now)
  | none => was

/-- Keep power on the slices of a mask alone. -/
def FeSt.keepSlices (f : FeSt) (now mask : Nat) : FeSt :=
  { f with sliceWas := Vector.ofFn fun (j : Fin 6) => if bit mask j then f.sliceWas.get j else lastPower now (f.sliceFrom.get j) (f.sliceWas.get j),
           sliceFrom := Vector.ofFn fun (j : Fin 6) => if bit mask j then f.sliceFrom.get j else none }

/-- Power the buffer and slices of a port down. -/
def State.powerDown (s : State) (p : Fin 4) : State :=
  ((s.updFe p fun (f : FeSt) => { f.keepSlices s.xt 0 with refWas := lastPower s.xt f.refFrom f.refWas, refFrom := none, downAt := none }).wr
    (.FE_STATUS_RefReady p) 0).showSlices p

/-- A window of the port has opened: its close, in case it is the port's last (R111). -/
def State.lastWindow (s : State) (p : Fin 4) (closeAt : Nat) : State := s.updFe p fun (f : FeSt) => { f with lastWin := some closeAt }

/-- Schedule the power-down of a port that has stopped or become idle at an instant: 1 ms after its last window closes; where no window has opened,
1 ms after the instant. A commit still to come that uses the port keeps the power (R111). -/
def State.planPowerDown (s : State) (p : Fin 4) (at_ : Nat) : State :=
  let f := s.feOf p
  if f.refFrom.isNone || f.downAt.isSome || s.slicesLater p != 0 then s
  else s.updFe p fun (f : FeSt) => { f with downAt := some (f.lastWin.getD at_ + 1000000) }

/-- REF_LEAD_COMPLETE: the buffer and every powered slice have run for 2.0 ms (R110). -/
def execRefLeadComplete (p : Fin 4) (s : State) : Out :=
  let f := s.feOf p
  match f.refFrom with
  | none => .next s
  | some t =>
    let ok := s.due (t + 2000000) && (List.finRange 6).all fun (j : Fin 6) =>
      match f.sliceFrom.get j with
      | some u => s.due (u + 2000000)
      | none => true
    .next (if ok then s.wr (.FE_STATUS_RefReady p) 1 else s)

/-- REF_POWER_DOWN: 1 ms after the last window the buffer and slices power down, unless RefKeep holds them (R111). -/
def execRefPowerDown (p : Fin 4) (s : State) : Out :=
  match (s.feOf p).downAt with
  | none => .next s
  | some t => if s.due t && !s.on (.FE_CTRL_RefKeep p) then .next (s.powerDown p) else .next s

/-! Correction (R96 – R103) -/

/-- A raw code as an integer. -/
def rawOf (x : Sample) : Int := toS 14 x.code.toNat

/-- A code at either end of the range has clamped (R106). -/
def hasClamped (x : Sample) : Bool := rawOf x == 8191 || rawOf x == -8192

/-- Trims of a bypassed coherent slice (R103). -/
def trimBypass : Trim := ⟨0, 0x4000, 0, 0x4000, 0, 0⟩

/-- The trims that the registers of a slice hold. -/
def State.trimReg (s : State) (p : Fin 4) (j : Nat) : Trim :=
  { off := s.rdS (.SLICE_OFFSET_Offset p j), gain := s.rd (.SLICE_GAIN_Gain p j), skew := s.rdS (.SLICE_SKEW_Skew p j),
    hMinus := s.rdS (.SLICE_BW_A_HMinus p j), hPlus := s.rdS (.SLICE_BW_A_HPlus p j), hZero := s.rdS (.SLICE_BW_B_HZero p j) }

/-- The trims of a slice at a sampling instant. -/
def trimAt (log : List (Nat × List Trim)) (h j : Nat) (dflt : Trim) : Trim :=
  match log.find? fun (e : Nat × List Trim) => decide (e.1 ≤ h) with
  | some e => e.2.getD j dflt
  | none => dflt

/-- a of R96 stage 1, 1/16 code. -/
def stageA (t : Trim) (raw : Int) : Int := raw * 16 - t.off

/-- b of R96 stage 1, 1/16 code. -/
def stageB (t : Trim) (raw : Int) : Int := asr (stageA t raw * t.gain + 8192) 14

/-- The clamp of R96: the value, and whether it acted. -/
def clampCode (y : Int) : Int × Bool := if 8191 < y then (8191, true) else if y < -8192 then (-8192, true) else (y, false)

/-- A converted sample: instant, slice, corrected code, side bits, a and b under the slice's registers, raw code. -/
structure Conv where
  h : Nat
  j : Nat
  code : Int
  one : Int            -- stage-1 result rounded as in R97
  raw : Int
  ovr : Bool
  cold : Bool
  invalid : Bool
  a : Int
  b : Int
deriving DecidableEq, Repr

/-- A sample was taken within a calibration interruption of its input (R101, R521). -/
def spanHit (spans : List (Nat × Nat × Nat)) (js : List Nat) (h : Nat) : Bool :=
  spans.any fun (x : Nat × Nat × Nat) => js.contains x.1 && decide (2 * x.2.1 ≤ h) && decide (h < 2 * x.2.2)

/-- At an instant, half ns, a unit has been in power for less than 2.0 ms, given the start of its present time in power and its last one. -/
def coldFrom (from_ : Option Nat) (was : Option (Nat × Nat)) (h : Nat) : Bool :=
  match from_.filter (fun (t : Nat) => decide (2 * t ≤ h)), was.filter (fun (x : Nat × Nat) => decide (h ≤ 2 * x.2)) with
  | some t, _ => decide (h < 2 * (t + 2000000))
  | none, some x => decide (h < 2 * (x.1 + 2000000))
  | none, none => true

/-- The stretches of time, half ns, in which every slice of a list has had power, as far as they are kept: the last one past, and the present one,
whose end is open (R95). -/
def FeSt.powered (f : FeSt) (js : List Nat) (h : Nat) : Bool :=
  js.all fun (j : Nat) =>
    (match f.sliceFrom.get (fin 5 j) with | some t => decide (2 * t ≤ h) | none => false) ||
      (match f.sliceWas.get (fin 5 j) with | some w => decide (2 * w.1 ≤ h) && decide (h < 2 * w.2) | none => false)

/-- The first instant, half ns, from `h` on at which a slice has power. -/
def FeSt.poweredFrom (f : FeSt) (j h : Nat) : Option Nat :=
  if f.powered [j] h then some h
  else match (f.sliceWas.get (fin 5 j)).filter (fun (w : Nat × Nat) => decide (h < 2 * w.1)), f.sliceFrom.get (fin 5 j) with
    | some w, _ => some (2 * w.1)
    | none, some t => some (max h (2 * t))
    | none, none => none

/-- A sample of slice `j` is REF_COLD (R110). -/
def FeSt.coldAt (f : FeSt) (j h : Nat) : Bool :=
  coldFrom f.refFrom f.refWas h || coldFrom (f.sliceFrom.get (fin 5 j)) (f.sliceWas.get (fin 5 j)) h

/-- The recovery rule of R106 along a run of samples of an input: whether each has clamped or follows a clamp within the recovery interval. State: the
last clamped instant and the length of its interval, half ns. -/
def ovrGo : List (Nat × Sample) → Option (Nat × Nat) → List Bool
  | [], _ => []
  | (h, x) :: rest, st =>
    let within := match st with
      | some (t, n) => decide (t < h ∧ h ≤ t + n)
      | none => false
    let n := if x.deep then 20 else match st with | some (_, n) => if within then n else 6 | none => 6
    (hasClamped x || within) :: ovrGo rest (if hasClamped x then some (h, n) else st)

/-! Test paths that reach the slices (R527, R528) -/

/-- What one code adds to the DAC sample at an instant, quarter ns of the crystal count (R60): a × env × cos(ph), truncated, with the
carrier, sweep and chip of its tone. DESIGN CHOICE, unsafe: log 53. -/
def codeSample (p : Fin 4) (c : Shot × Nat) (at4 : Nat) : Int :=
  match (planOf c.1.cfg p c.1.slot).tones[c.2]? with
  | none => 0
  | some t =>
    let from4 := 4 * (c.1.at_ + t.off)
    let d4 := 4 * t.dur
    let u := at4 - from4
    if at4 < from4 || d4 ≤ u then 0
    else
      let dir : Int := if t.type = 1 then (if t.down then -1 else 1) else 0
      let sweep : Int := dir * t.bw * (((u * u : Nat) : Int) - ((u * d4 : Nat) : Int))
      let ph := cosTurn (8 * t.dur * t.freq * ((at4 : Int) - 4 * c.1.t0) + sweep) (32000 * t.dur)
      let ph := if t.type = 2 && golayNeg t.log (c.1.n % 2 == 1) (u / (4 * t.chip)) then -ph else ph
      let x := min u (d4 - u)
      let env := if t.type = 2 || 8 ≤ x then oneQ else (oneQ - cosTurn x 16) / 2
      tdiv (t.amp * mulQ env ph) oneQ

/-- The analogue echo at an instant, half ns: the codes of the port's synthesiser, ±4,095 for ±0.5 V, in the converter's scale, where −8,192 stands for
−0.5 V, at 0 or −20 dB (R61, R87, R527). DESIGN CHOICE, unsafe: log 146. -/
def State.echoCode (s : State) (p : Fin 4) (cfg : RegFile) (h : Nat) : Int :=
  let dac := (s.ports.get p).shots.foldl (fun (a : Int) (c : Shot) =>
    (List.range (planOf c.cfg p c.slot).tones.length).foldl (fun (a : Int) (k : Nat) => a + codeSample p (c, k) (2 * h - Config.echoDelay)) a) 0
  roundDiv (dac * 8192) (4095 * (if rfRd cfg (.FIBRE_TEST_EchoAtten p) = 1 then 10 else 1))

/-- The state of the PRBS15 generator x¹⁵ + x¹⁴ + 1 after a number of steps. -/
def prbs15 : Nat → Nat → Nat
  | 0, x => x
  | n + 1, x => prbs15 n (x * 2 % 2 ^ 15 + (x / 2 ^ 14 + x / 2 ^ 13) % 2)

/-- The code of the digital pattern at sample `k` of a slice that counts from `start` (R528). DESIGN CHOICE, safe: log 128. -/
def patternCode (pattern start k : Nat) : Int :=
  match pattern with
  | 0 => toS 14 ((start + k) % 2 ^ 14)
  | 1 => if (start + k) % 2 = 0 then 8191 else -8191
  | 2 => toS 14 (prbs15 ((start + k) % 32767) 1 % 2 ^ 14)
  | _ => toS 14 (Config.patternReserved start k).toNat

/-- A sample as a slice delivers it under the port's test paths: its own code, the echo with the path's error, or the pattern, whose samples are numbered from
the last start of the slice's grid (R91, R527, R528). DESIGN CHOICE, unsafe: log 146. -/
def State.testSample (s : State) (p : Fin 4) (cfg : RegFile) (j h from_ step : Nat) (x : Sample) : Sample :=
  match rfRd cfg (.FIBRE_TEST_Mode p) with
  | 1 => if j < 4 then { x with code := BitVec.ofInt 14 (clampCode (rawOf x + s.echoCode p cfg h)).1 } else x
  | 2 => { x with code := BitVec.ofInt 14 (patternCode (rfRd cfg (.FIBRE_TEST_Pattern p)) (Config.patternStart (8 * p + j) from_) ((h - from_) / step)) }
  | _ => x

/-- Convert a run of coherent samples of input `inp` (0 CX, 1 CY). The first 20 lie in the 10 ns before the instant `h0`, half ns, and the last one is a
neighbour only; answered are the samples from `h0` on (R96, R106). `cfg` gives the configuration at an instant, half ns. The stage-1 value of a raw capture of one
slice is clamped as in R97, and its OVR bit is the sample's own. DESIGN CHOICE, unsafe: log 129. -/
def State.convCoh (s : State) (p : Fin 4) (cfg : Nat → RegFile) (inp h0 : Nat) (xs : List Sample) : List Conv :=
  let f := s.feOf p
  let hs := xs.zipIdx.map fun (x : Sample × Nat) =>
    let h := h0 + x.2 - 20
    (h, s.testSample p (cfg h) (2 * inp + h % 2) h (h % 2) 2 x.1)
  let ovr := ovrGo hs none
  let slice := fun (h : Nat) => 2 * inp + h % 2
  let reg := fun (h : Nat) => trimAt f.trims h (slice h) (s.trimReg p (slice h))
  let use := fun (h : Nat) => if rfRd (cfg h) (.FE_CTRL_CorrBypass p) = 1 then trimBypass else reg h
  let bs := hs.map fun (x : Nat × Sample) => stageB (use x.1) (rawOf x.2)
  -- an element of the zip pairs sample i with b of i - 1, i and i + 1
  let conv := (hs.drop 20).zip ((ovr.drop 20).zip ((bs.drop 19).zip ((bs.drop 20).zip (bs.drop 21))))
  conv.map fun (r : (Nat × Sample) × Bool × Int × Int × Int) =>
    let h := r.1.1
    let raw := rawOf r.1.2
    let t := use h
    let (y, c) := clampCode (asr (t.hMinus * r.2.2.1 + t.hZero * r.2.2.2.1 + t.hPlus * r.2.2.2.2 + 131072) 18)
    let g := reg h
    { h := h, j := slice h, code := y, one := (clampCode (asr (r.2.2.2.1 + 8) 4)).1, raw := raw,
      ovr := (r.2.1 || c) && rfRd (cfg h) (.FIBRE_TEST_Mode p) != 2, cold := f.coldAt (slice h) h,
      invalid := spanHit f.spans [2 * inp, 2 * inp + 1] h, a := stageA g raw, b := stageB g raw }

/-- Convert a run of samples of a Raman slice, 4 or 5, with their instants (R97). The first `pre` serve the recovery rule only. -/
def State.convRam (s : State) (p : Fin 4) (cfg : Nat → RegFile) (j pre : Nat) (hs : List (Nat × Sample)) : List Conv :=
  let f := s.feOf p
  let hs := hs.map fun (x : Nat × Sample) =>
    let step := if rfRd (cfg x.1) (.FE_CTRL_RamanRate p) = 1 then 4 else 8
    (x.1, s.testSample p (cfg x.1) j x.1 ((f.bounds.filter fun (b : Nat) => decide (2 * b ≤ x.1)).foldl max 0 * 2) step x.2)
  ((hs.zip (ovrGo hs none)).drop pre).map fun (r : (Nat × Sample) × Bool) =>
    let h := r.1.1
    let raw := rawOf r.1.2
    let t := trimAt f.trims h j (s.trimReg p j)
    let b := stageB t raw
    let (y, c) := clampCode (asr (b + 8) 4)
    { h := h, j := j, code := y, one := y, raw := raw, ovr := (r.2 || c) && rfRd (cfg h) (.FIBRE_TEST_Mode p) != 2, cold := f.coldAt j h,
      invalid := spanHit f.spans [j] h, a := stageA t raw, b := b }

/-! The grid of the Raman slices (R91): it starts again at every shot boundary. Boundaries and instants are in half ns. -/

/-- The last grid instant before an instant. -/
def gridPrev (bounds : List Nat) (step h : Nat) : Nat :=
  match bounds.filter fun (b : Nat) => decide (b < h) with
  | [] => h - step
  | b :: bs => let b := bs.foldl max b; b + (h - b - 1) / step * step

/-- The first grid instant at or after an instant. -/
def gridFrom (bounds : List Nat) (step h : Nat) : Nat :=
  let b := (bounds.filter fun (b : Nat) => decide (b ≤ h)).foldl max 0
  let g := b + ceilDiv (h - b) step * step
  (bounds.filter fun (b : Nat) => decide (h ≤ b)).foldl min g

/-- The `n` grid instants from a grid instant on; the step is that of each instant. -/
def gridRun (bounds : List Nat) (step : Nat → Nat) : Nat → Nat → List Nat
  | 0, _ => []
  | n + 1, h => h :: gridRun bounds step n (gridFrom bounds (step (h + 1)) (h + 1))

/-- The `n` grid instants before an instant, earliest first. -/
def gridBack (bounds : List Nat) (step : Nat → Nat) : Nat → Nat → List Nat
  | 0, _ => []
  | n + 1, h => gridBack bounds step n (gridPrev bounds (step (h - 1)) h) ++ [gridPrev bounds (step (h - 1)) h]

/-- Grid instants that the 10 ns before an instant may hold, with the step in half ns. -/
def ramanPre (step : Nat) : Nat := 20 / step + 1

/-- Give samples of a Raman input their instants: the first `ramanPre` lie before the grid instant `h`, the others from it on. -/
def ramanHs (bounds : List Nat) (step : Nat → Nat) (h : Nat) (xs : List Sample) : List (Nat × Sample) :=
  (gridBack bounds step (ramanPre (step h)) h ++ gridRun bounds step xs.length h).zip xs

/-- Interruptions of slices begin; old ones are kept while samples of theirs may still be converted (R101, R520 – R522). -/
def State.addSpans (s : State) (p : Fin 4) (new : List (Nat × Nat × Nat)) : State :=
  let st := s.rd (.CAP_STATUS_State p)
  let need := if st = 1 ∨ st = 2 then min s.xt ((s.feOf p).cap.to_ / 2) else s.xt
  s.updFe p fun (f : FeSt) => { f with spans := new ++ f.spans.filter fun (x : Nat × Nat × Nat) => decide (need < x.2.2 + 2000000) }

/-- Count the OVR samples of an input inside windows, each sample once (R109). -/
def State.countOvr (s : State) (p : Fin 4) (inp : Nat) (xs : List Conv) (cnt : Fld) : State :=
  let i : Fin 4 := fin 3 inp
  let to_ := (s.feOf p).ovrTo.get i
  let new := xs.filter fun (x : Conv) => decide (to_ ≤ x.h)
  let s := s.inc cnt (new.filter fun (x : Conv) => x.ovr).length
  let last := match xs.getLast? with | some x => max to_ (x.h + 1) | none => to_
  s.updFe p fun (f : FeSt) => { f with ovrTo := vupd f.ovrTo i fun _ => last }

/-- What a write of FE_CLEAR does (R109): samples taken before it do not count after it. -/
def State.feClear (s : State) (p : Fin 4) (data : Nat) : State :=
  if bit data 0 then
    ((((s.wr (.OVR_CNT_C_CX p) 0).wr (.OVR_CNT_C_CY p) 0).wr (.OVR_CNT_R_RA p) 0).wr (.OVR_CNT_R_RS p) 0).updFe p
      fun (f : FeSt) => { f with ovrTo := f.ovrTo.map fun (h : Nat) => max h (2 * s.xt) }
  else s

/-! Background trims (R98, R99) -/

/-- Add usable samples of a shot's window to its background sums; each sample of the shot counts once. -/
def State.bgAdd (s : State) (p : Fin 4) (shot : Nat) (xs : List Conv) : State :=
  s.updFe p fun (f : FeSt) =>
    let f := if f.sumShot = shot then f else { f with sums := Vector.replicate 4 ⟨0, 0, 0⟩, sumShot := shot, sumTo := 0 }
    let ok := xs.filter fun (x : Conv) => decide (f.sumTo ≤ x.h) && !x.ovr && !x.invalid
    { f with sums := ok.foldl (fun (v : Vector BgSum 4) (x : Conv) =>
        vupd v (fin 3 x.j) fun (g : BgSum) => ⟨g.a + x.a, g.bb + x.b * x.b, g.cnt + 1⟩) f.sums }

/-- Mark the samples of a shot before an instant as summed. -/
def State.bgTo (s : State) (p : Fin 4) (h : Nat) : State := s.updFe p fun (f : FeSt) => { f with sumTo := max f.sumTo h }

/-- A shift field of R98: below 4 acts as 4, above 12 as 12. -/
def shiftField (v : Nat) : Nat := max 4 (min v 12)

/-- The background offset of a slice after an update, and whether it is at its limit (R98, R99). -/
def bgOffset (sum : BgSum) (off fore : Int) (shift : Nat) : Int × Bool :=
  if sum.cnt < 4096 then (off, false)
  else
    let v := off + toS 16 (ofS 16 (asr (roundDiv sum.a sum.cnt) shift))
    (clampI (fore - 1024) (fore + 1024) v, decide (v < fore - 1024 ∨ fore + 1024 < v))

/-- The background gain of an odd slice after an update, and whether it is at its limit (R98, R99). -/
def bgGain (e o : BgSum) (g fore : Nat) (shift : Nat) : Nat × Bool :=
  if e.cnt < 4096 ∨ o.cnt < 4096 then (g, false)
  else
    let pe := roundDiv e.bb e.cnt
    let po := roundDiv o.bb o.cnt
    if pe + po = 0 then (g, false)
    else
      let d := tdiv ((pe - po) * 16384) (pe + po)
      let v := (g : Int) + asr (asr (g * d) 14) shift
      let lo : Int := ceilDiv (fore * 98) 100
      let hi : Int := (fore * 102 / 100 : Nat)
      ((clampI lo hi v).toNat, decide (v < lo ∨ hi < v))

/-- Write a slice's trims to its registers. -/
def State.setTrim (s : State) (p : Fin 4) (j : Nat) (t : Trim) : State :=
  let s := (s.wrS (.SLICE_OFFSET_Offset p j) t.off).wr (.SLICE_GAIN_Gain p j) t.gain
  if 4 ≤ j then s
  else (((s.wrS (.SLICE_SKEW_Skew p j) t.skew).wrS (.SLICE_BW_A_HMinus p j) t.hMinus).wrS (.SLICE_BW_A_HPlus p j) t.hPlus).wrS (.SLICE_BW_B_HZero p j) t.hZero

/-- Record the trims now in the registers as those that hold from a boundary on; older ones stay for samples still to be converted. -/
def State.logTrims (s : State) (p : Fin 4) (at_ : Nat) : State :=
  let ts := (List.range 6).map fun j => s.trimReg p j
  s.updFe p fun (f : FeSt) =>
    if (f.trims.head?.map fun (e : Nat × List Trim) => e.2) == some ts then f else { f with trims := ((2 * at_, ts) :: f.trims).take 64 }

/-- Apply a background update that waits, where it was computed at or before an instant (R98). -/
def State.applyBg (s : State) (p : Fin 4) (at_ : Nat) : State :=
  match (s.feOf p).bgNext with
  | some (t, vs) =>
    if t ≤ at_ then
      (vs.foldl (fun (s : State) (v : Nat × Int × Nat) => (s.wrS (.SLICE_OFFSET_Offset p v.1) v.2.1).wr (.SLICE_GAIN_Gain p v.1) v.2.2) s).updFe p
        fun (f : FeSt) => { f with bgNext := none }
    else s
  | none => s


/-- BACKGROUND_UPDATE: when the last tone window of a shot closes (R98, R99). DESIGN CHOICE, unsafe: log 109. -/
def State.bgUpdate (s : State) (p : Fin 4) (shot epoch close : Nat) : State :=
  let f := s.feOf p
  if s.on (.FE_CTRL_BgFreeze p) || f.sumShot != shot then s
  else
    let os := shiftField (s.rd (.FE_CTRL_OffShift p))
    let gs := shiftField (s.rd (.FE_CTRL_GainShift p))
    let base := match f.bgNext with | some b => b.2 | none => []
    let cur := fun (j : Nat) => match base.find? fun (x : Nat × Int × Nat) => x.1 == j with
      | some x => x.2
      | none => ((s.trimReg p j).off, (s.trimReg p j).gain)
    let res := (List.range 4).map fun (j : Nat) =>
      let fj := f.fore.get (fin 5 j)
      let (off, l1) := bgOffset (f.sums.get (fin 3 j)) (cur j).1 fj.1 os
      let (g, l2) := if j % 2 = 0 then ((cur j).2, false)
        else bgGain (f.sums.get (fin 3 (j - 1))) (f.sums.get (fin 3 j)) (cur j).2 fj.2 gs
      ((j, off, g), l1 || l2)
    let s := s.updFe p fun (f : FeSt) => { f with bgNext := some (close, res.map fun (r : (Nat × Int × Nat) × Bool) => r.1) }
    -- a boundary of the port that fell at the close or after it has already been passed
    let s := match f.bounds.getLast? with
      | some b => if close ≤ b then (s.applyBg p b).logTrims p b else s
      | none => s
    res.foldl (fun (s : State) (r : (Nat × Int × Nat) × Bool) =>
      if r.2 then
        let j := r.1.1
        let s := s.wr (.FE_STATUS_BgLimit p) (setBit (s.rd (.FE_STATUS_BgLimit p)) j true)
        if (s.feOf p).limited.contains (j, epoch) then s
        else (s.updFe p fun (f : FeSt) => { f with limited := (j, epoch) :: f.limited.filter fun (x : Nat × Nat) => x.2 == epoch }).raise 0x0101 p j
      else s) s

/-- Apply the background and calibration results that wait for a shot boundary at instant `at_` (R98, R99, R101). Raman
results wait for a boundary with n mod M = 0 (`raman`). Answers whether a calibration step of the coherent slices took effect. -/
def State.applyTrims (s : State) (p : Fin 4) (at_ : Nat) (raman : Bool) : State × Bool :=
  let f := s.feOf p
  let s := s.applyBg p at_
  let now := f.calNext.filter fun (v : Nat × Trim) => decide (v.1 < 4) || raman
  let step := fun (ram : Bool) => now.any fun (v : Nat × Trim) => decide (4 ≤ v.1) == ram
  let s := now.foldl (fun (s : State) (v : Nat × Trim) =>
    let s := s.setTrim p v.1 v.2
    let s := if v.1 < 4 then s.wr (.FE_STATUS_BgLimit p) (setBit (s.rd (.FE_STATUS_BgLimit p)) v.1 false) else s
    s.updFe p fun (f : FeSt) => { f with fore := vupd f.fore (fin 5 v.1) fun _ => (v.2.off, v.2.gain) }) s
  let s := s.updFe p fun (f : FeSt) =>
    { f with calNext := f.calNext.filter fun (v : Nat × Trim) => !(decide (v.1 < 4) || raman),
             calAt := if step false then some at_ else f.calAt, calRam := if step true then some at_ else f.calRam }
  (s.logTrims p at_, step false)

/-! Raw capture (R115 – R120) -/

/-- Fields of the CAP_CTRL word held by a capture. -/
def CapSt.source (c : CapSt) : Nat := c.ctrl.toNat / 16 % 8
def CapSt.raw (c : CapSt) : Bool := bit c.ctrl.toNat 7
def CapSt.trigger (c : CapSt) : Nat := c.ctrl.toNat / 256 % 4
def CapSt.windowOnly (c : CapSt) : Bool := bit c.ctrl.toNat 10
/-- Samples of a whole record. -/
def CapSt.recLen (c : CapSt) : Nat := c.ctrl.toNat / 65536 % 256 * 16

/-- The slices of a capture source. -/
def sourceSlices (src : Nat) : List Nat :=
  match src with
  | 0 => [0, 1] | 1 => [2, 3] | 2 => [4] | 3 => [5] | k => [k - 4]

/-- Update the capture engine. -/
def State.updCap (s : State) (p : Fin 4) (f : CapSt → CapSt) : State := s.updFe p fun (q : FeSt) => { q with cap := f q.cap }

/-- The sample clock runs: PLL-A, and CLKIN where it is the source (R113, R437). -/
def State.sampling (s : State) : Bool := s.locked 0 && (!s.on .CLK_CFG_ClkSrc || s.on .CLK_STATUS_ClkinLocked)

/-- The epoch and the configuration of a port at an instant, half ns (R38). -/
def State.cfgAt (s : State) (p : Fin 4) (h : Nat) : Nat × RegFile :=
  match (s.feOf p).cfgs.find? fun (x : Nat × Nat × RegFile) => decide (h < 2 * x.1) with
  | some x => x.2
  | none => (s.fnEpoch (fnPort p), s.regs)

/-- Grid step of a capture source at an instant, half ns (R91). -/
def State.capStep (s : State) (p : Fin 4) (src h : Nat) : Nat :=
  if src < 2 then 1 else if src < 4 then (if rfRd (s.cfgAt p h).2 (.FE_CTRL_RamanRate p) = 1 then 4 else 8) else 2

/-- The rate code of a capture source at an instant (R120). -/
def State.capRate (s : State) (p : Fin 4) (src h : Nat) : Nat :=
  match s.capStep p src h with | 1 => 0 | 2 => 1 | 4 => 2 | _ => 3

/-- The input of a capture source: 0 CX, 1 CY, 2 RA, 3 RS. -/
def sourceInput (src : Nat) : Nat := if src < 4 then src else (src - 4) / 2

/-- The slices of an input. -/
def inputSlices (inp : Nat) : List Nat := if inp < 2 then [2 * inp, 2 * inp + 1] else [inp + 2]

/-- The shot boundaries known to the front end, half ns. -/
def State.gridBounds (s : State) (p : Fin 4) : List Nat := (s.feOf p).bounds.map fun (b : Nat) => 2 * b

/-- The grid instant of a capture source that follows one at `h`, half ns (R91). -/
def State.capNext (s : State) (p : Fin 4) (src h : Nat) : Nat :=
  if src = 2 ∨ src = 3 then gridFrom (s.gridBounds p) (s.capStep p src (h + 1)) (h + 1) else h + s.capStep p src h

/-- Emit the capture record in progress, if it holds samples (R118, R120). -/
def State.capEmit (s : State) (p : Fin 4) (last : Bool) : State :=
  let f := s.feOf p
  let c := f.cap
  if c.buf.isEmpty then s
  else
    let n := c.buf.length
    let src := c.source
    let t0 := c.bufAt / 2
    let t1 := (c.to_ - 1) / 2
    let side := fun (k : Nat) => match c.buf[k]? with
      | some x => bnat x.2.1 + 2 * bnat x.2.2
      | none => 0
    let sides := (List.range (ceilDiv n 4)).map fun (k : Nat) =>
      BitVec.ofNat 8 (side (4 * k) + 4 * side (4 * k + 1) + 16 * side (4 * k + 2) + 64 * side (4 * k + 3))
    let cal := match (if src = 2 ∨ src = 3 then f.calRam else f.calAt) with | some t => decide (t0 < t ∧ t ≤ t1) | none => false
    let ks : List (Fin 6) := if s.on .CLK_CFG_ClkSrc then [5] else [0]
    let flags := c.flags ||| bnat cal * 2 ^ 7 ||| s.gapFlag ks t0 t1 ||| s.supplyFlag t0 t1 ||| s.timeFlags t0 t1 |||
      bnat (c.emitted == 0) * 2 ^ 11 ||| bnat last * 2 ^ 12
    let bytes := mkRecord 0x0B01 c.epoch flags (s.devAt t0)
      (le 1 p ++ le 1 src ++ le 1 (bnat c.raw) ++ le 1 (c.bufAt % 2 + 2 * c.rate) ++ le 2 n ++ zeros 2 ++ le 4 (c.seq - 1) ++
        le 4 (c.index - n) ++ c.buf.flatMap (fun (x : Int × Bool × Bool) => leS 2 x.1) ++ sides)
    (s.updCap p fun (c : CapSt) => { c with buf := [], flags := 0, emitted := c.emitted + 1 }).offer 14 bytes

/-- End the capture (R117). -/
def State.capDone (s : State) (p : Fin 4) : State := (s.capEmit p true).wr (.CAP_STATUS_State p) 3

/-- Feed one sample to the running capture; a record also ends where the sample rate changes. DESIGN CHOICE, unsafe: log 108 (CAP_LEN.Total = 0). -/
def State.capOne (s : State) (p : Fin 4) (x : Conv) : State :=
  let c := (s.feOf p).cap
  if s.rd (.CAP_STATUS_State p) ≠ 2 ∨ x.h < c.to_ ∨ !(sourceSlices c.source).contains x.j then s
  else
    let rate := s.capRate p c.source x.h
    let s := if c.buf.isEmpty || (c.next == x.h && c.rate == rate) then s else s.capEmit p false
    let epoch := (s.cfgAt p x.h).1
    let v := if c.raw then x.raw else if c.source < 2 then x.code else x.one
    let next := s.capNext p c.source x.h
    let s := s.updCap p fun (c : CapSt) =>
      { c with buf := c.buf ++ [(v, x.ovr, x.invalid)], bufAt := if c.buf.isEmpty then x.h else c.bufAt,
               epoch := if c.buf.isEmpty then epoch else c.epoch, rate := rate, next := next, to_ := x.h + 1, flags := c.flags ||| bnat x.cold * 2 ^ 6, index := c.index + 1 }
    let s := s.wr (.CAP_DONE_Samples p) (s.feOf p).cap.index
    if c.total ≤ (s.feOf p).cap.index then s.capDone p
    else if c.recLen ≤ (s.feOf p).cap.buf.length then s.capEmit p false
    else s

/-- Feed converted samples to the running capture. -/
def State.capFeed (s : State) (p : Fin 4) (xs : List Conv) : State := xs.foldl (fun (s : State) (x : Conv) => s.capOne p x) s

/-- A window has closed: its samples reach a capture of counting samples (R95, R116). -/
def State.capTake (s : State) (p : Fin 4) (xs : List Conv) : State := if (s.feOf p).cap.windowOnly then s.capFeed p xs else s

/-- A tone window, or with `raman` the Raman window, has closed and no other is open on the input: a record of counting samples of such an input ends
(R118). -/
def State.capClose (s : State) (p : Fin 4) (raman : Bool) : State :=
  let c := (s.feOf p).cap
  if s.rd (.CAP_STATUS_State p) = 2 ∧ c.windowOnly = true ∧ decide (2 ≤ sourceInput c.source) = raman then s.capEmit p false else s

/-- The sample clock is lost: the record in progress ends, and no sample follows before the next boundary after relock (R113, R118). -/
def State.capGap (s : State) (p : Fin 4) : State :=
  let s := if s.rd (.CAP_STATUS_State p) = 2 then s.capEmit p false else s
  s.updCap p fun (c : CapSt) => { c with gap := true }

/-- Sampling resumes at an instant (R113). -/
def State.capResume (s : State) (p : Fin 4) (at_ : Nat) : State :=
  s.updCap p fun (c : CapSt) => if c.gap then { c with gap := false, to_ := max c.to_ (2 * at_) } else c

/-- Drop the boundaries that are followed by another one at or before an instant. -/
def trimBounds (need : Nat) : List Nat → List Nat
  | a :: b :: rest => if b ≤ need then trimBounds need (b :: rest) else a :: b :: rest
  | bs => bs

/-- A shot boundary restarts the grid of the Raman slices (R91). -/
def State.addBound (s : State) (p : Fin 4) (at_ : Nat) : State :=
  let q := s.ports.get p
  let win := [q.rwin, q.rcut].foldl (fun (a : Nat) (w : Option RamanWin) => match w with | some w => min a w.openAt | none => a) at_
  let cap := if s.rd (.CAP_STATUS_State p) = 1 ∨ s.rd (.CAP_STATUS_State p) = 2 then q.fe.cap.to_ / 2 else at_
  s.updFe p fun (f : FeSt) => { f with bounds := trimBounds (min win cap - 10) f.bounds ++ [at_] }

/-- The refusal of an arm, 0 for none (R115). BUSY is tested first, so that a refused arm leaves a running engine as it is; the other causes are
tested in the order of their numbers, and RecBlocks outside 1 – 224 counts as RECORD_SIZE. DESIGN CHOICE, unsafe: log 110. -/
def State.armError (s : State) (p : Fin 4) : Nat :=
  let ctrl := (rfWord s.regs (Fld.CAP_CTRL_Arm p).addr).toNat
  let src := ctrl / 16 % 8
  let n := ctrl / 65536 % 256 * 16
  let st := s.rd (.CAP_STATUS_State p)
  if st = 1 ∨ st = 2 then 4
  else if n = 0 ∨ 3584 < n ∨ s.ringPayload 14 < 32 + (32 + 2 * n + ceilDiv n 4 + 7) / 8 * 8 then 1
  else if s.rd (.RING_STATE_State 14) = 0 then 2
  else if (sourceSlices src).any fun j => ((s.feOf p).sliceFrom.get (fin 5 j)).isNone then 3
  else if ctrl / 256 % 4 = 3 ∧ src ≠ 2 ∧ src ≠ 3 then 5
  else 0

/-- CAP_CTRL.Arm (R115): arm the engine, or refuse with an error. Trigger 0 starts at the arm (R116). DESIGN CHOICE, unsafe: log 110. -/
def State.capArm (s : State) (p : Fin 4) : State :=
  let e := s.armError p
  if e = 4 then s.wr (.CAP_STATUS_Error p) 4
  else if e ≠ 0 then (s.wr (.CAP_STATUS_Error p) e).wr (.CAP_STATUS_State p) 0
  else
    let ctrl := rfWord s.regs (Fld.CAP_CTRL_Arm p).addr
    let s := s.updCap p fun (c : CapSt) =>
      { c with ctrl := ctrl, total := s.rd (.CAP_LEN_Total p), buf := [], next := 0, to_ := 2 * s.xt, flags := 0, gap := !s.sampling,
               index := 0, emitted := 0, bufAt := 0, seq := c.seq + 1 }
    let s := ((s.wr (.CAP_STATUS_Error p) 0).wr (.CAP_STATUS_CaptureSeq p) ((s.feOf p).cap.seq - 1)).wr (.CAP_DONE_Samples p) 0
    s.wr (.CAP_STATUS_State p) (if (s.feOf p).cap.trigger = 0 then 2 else 1)

/-- Convert a run of samples of a capture source from the grid instant `h` on. A coherent source gives the merged stream of its input, from 20 samples
before `h` to one after the last; a Raman source gives `ramanPre` grid samples before `h` (R91, R96, R97, R106, R120). -/
def State.capConv (s : State) (p : Fin 4) (src h : Nat) (xs : List Sample) : List Conv :=
  let inp := sourceInput src
  let cfg := fun (h : Nat) => (s.cfgAt p h).2
  if inp < 2 then s.convCoh p cfg inp h xs
  else
    let step := s.capStep p src
    s.convRam p cfg (inp + 2) (ramanPre (step h)) (ramanHs (s.gridBounds p) step h xs)

/-- CAPTURE_START: the armed capture's trigger occurs at a grid sample, which for trigger 2 carries OVR (R116). -/
def execCaptureStart (p : Fin 4) (first : FirstSample) (s : State) : Out :=
  let at_ := first.at_
  let q := s.ports.get p
  let c := q.fe.cap
  let ok := s.rd (.CAP_STATUS_State p) == 1 && decide (c.to_ ≤ at_) && match c.trigger with
    | 1 => q.shots.any fun (x : Shot) => 2 * x.at_ == at_
    | 2 => match s.capConv p c.source at_ first.around with
      | x :: _ => x.ovr && x.h == at_ && (sourceSlices c.source).contains x.j && !c.gap
      | [] => false
    | 3 => match q.rwin with | some w => w.opened && decide (2 * w.openAt ≤ at_) && decide (at_ < 2 * w.openAt + 8) | none => false
    | _ => true
  if ok then .next ((s.updCap p fun (c : CapSt) => { c with to_ := at_ }).wr (.CAP_STATUS_State p) 2) else .next s

/-- The stretches of time, half ns, in which samples of an input count: its open windows and its calibration steps (R95). -/
def State.counting (s : State) (p : Fin 4) (inp : Nat) : List (Nat × Nat) :=
  let q := s.ports.get p
  let wins := if inp < 2 then
      (q.wins.filter fun (w : ToneWin) => w.opened && !w.dead).map fun (w : ToneWin) => (2 * w.openAt, 2 * w.cut.getD w.closeAt)
    else [q.rwin, q.rcut].flatMap fun (w : Option RamanWin) => match w with
      | some w => if w.opened && !w.dead then [(2 * w.openAt, 2 * w.closeAt)] else []
      | none => []
  wins ++ (q.fe.spans.filter fun (x : Nat × Nat × Nat) => (inputSlices inp).contains x.1).map fun (x : Nat × Nat × Nat) => (2 * x.2.1, 2 * x.2.2)

/-- Convert further samples of a running capture: consecutive grid samples of its source's input from the first one that is still to be captured.
With WindowOnly = 1 only those in an open window or a calibration step are captured. A slice without power takes no sample (R95, R116).
DESIGN CHOICE, unsafe: log 108. -/
def State.capSamples (s : State) (p : Fin 4) (xs : List Sample) : State :=
  let f := s.feOf p
  let c := f.cap
  let src := c.source
  let inp := sourceInput src
  let spans := (s.counting p inp).filter fun (x : Nat × Nat) => decide (c.to_ < x.2)
  let wanted := if c.windowOnly then
      match spans.map fun (x : Nat × Nat) => max c.to_ x.1 with
      | [] => none
      | x :: xs => some (xs.foldl min x)
    else some c.to_
  match wanted.bind fun (h : Nat) => (sourceSlices src).foldl (fun (a : Option Nat) (j : Nat) => a.bind (f.poweredFrom j)) (some h) with
  | none => s
  | some h =>
    let h := if inp < 2 then h else gridFrom (s.gridBounds p) (s.capStep p src h) h
    let conv := s.capConv p src h xs
    if c.gap then s
    else s.capFeed p (conv.filter fun (x : Conv) =>
      f.powered [x.j] x.h && (!c.windowOnly || spans.any fun (y : Nat × Nat) => decide (y.1 ≤ x.h ∧ x.h < y.2)))

/-- CAPTURE_COMPLETE: a capture takes the samples it is given, and ends with the last one of Total (R117). One of counting samples takes those of a
calibration step here; those of a window come as the window closes. -/
def execCaptureComplete (p : Fin 4) (samples : List Sample) (s : State) : Out := .next (s.capSamples p samples)

/-- CAP_CTRL.Stop (R117): the record in progress is emitted with the samples it holds. DESIGN CHOICE, unsafe: log 110 (a capture that is armed only). -/
def State.capStop (s : State) (p : Fin 4) (samples : List Sample) : State :=
  if s.rd (.CAP_STATUS_State p) = 2 then (s.capSamples p samples).capDone p
  else if s.rd (.CAP_STATUS_State p) = 1 then s.wr (.CAP_STATUS_State p) 3
  else s

/-- ABORT of a port ends its capture: the record in progress is discarded (R115, R117). DESIGN CHOICE, unsafe: log 110 (a capture that is armed only). -/
def State.capAbort (s : State) (p : Fin 4) : State :=
  if s.rd (.CAP_STATUS_State p) = 2 then
    ((s.updCap p fun (c : CapSt) => { c with buf := [], flags := 0 }).wr (.CAP_STATUS_State p) 3).wr (.CAP_STATUS_Error p) 6
  else if s.rd (.CAP_STATUS_State p) = 1 then s.wr (.CAP_STATUS_State p) 3
  else s

end Sys2Proof.Machine
end

