-- ==== Sys2Proof/Machine/Chain.lean ====
section
/-! DEFINITION. The phase chain of a fibre port: windows, down-conversion, Grinder, gauge product, tone fusion
(R62, R121 – R147), and the synthetic fibre that replaces the Grinder (R531). -/
namespace Sys2Proof.Machine

/-- Update the phase chain of a port. -/
def State.updChain (s : State) (p : Fin 4) (f : ChainSt → ChainSt) : State :=
  s.updPort p fun (q : PortSt) => { q with chain := f q.chain }
/-- The phase chain of a port. -/
def State.chainOf (s : State) (p : Fin 4) : ChainSt := (s.ports.get p).chain

/-! Down-conversion and Grinder -/

/-- ph of R124 at a merged sample, `h` half ns after the plan's first shot boundary. -/
def phaseWord (freq : Nat) (h : Nat) : Nat := (roundDiv ((freq * h % 2000 * 2 ^ 32 : Nat) : Int) 2000).toNat % 2 ^ 32

/-- Code of merged sample `i`, zero outside the window (R126). -/
def codeAt (xs : List Merged) (i : Int) : Int :=
  if i < 0 then 0 else match xs[i.toNat]? with | some x => x.code | none => 0

/-- Baseband sample p of a window (R125). `h0` is the half ns from the plan's first boundary to the opening. -/
def baseband (freq h0 : Nat) (xs : List Merged) (pos : Nat) : Int × Int :=
  let sums := (hdTaps.zipIdx).foldl (fun (a : Int × Int) (t : Int × Nat) =>
    let i : Int := 8 * pos + t.2 - 32
    let c := codeAt xs i
    if c = 0 then a
    else
      let ph := phaseWord freq (h0 + i).toNat
      (a.1 + t.1 * c * cos18 ph, a.2 - t.1 * c * sin18 ph)) (0, 0)
  (sat24 (asr (sums.1 + 2 ^ 23) 24), sat24 (asr (sums.2 + 2 ^ 23) 24))

/-- Replica u[j] of a tone in shot n, LSB 2^-100 (R127). -/
def replica (t : Tone) (n j : Nat) : Int × Int :=
  match t.type with
  | 1 =>
    let tau : Int := 4 * j
    let d : Int := t.dur
    let num := (if t.down then -1 else 1) * (t.bw : Int) * (tau * tau - tau * d)
    (cosTurn num (2000 * d), sinTurn num (2000 * d))
  | 2 => (if golayNeg t.log (n % 2 == 1) (4 * j / t.chip) then -oneQ else oneQ, 0)
  | _ => (oneQ, 0)

/-- Taper w[j], LSB 2^-100 (R128). -/
def taperW (taper m j : Nat) : Int :=
  let c := cosTurn (2 * j + 1) (2 * m)
  match taper with
  | 1 => (oneQ - c) / 2
  | 2 => (54 * oneQ - 46 * c) / 100
  | _ => oneQ

/-- A value within ±4 LSB of the quotient a / b, chosen freely within them (R127), saturated (sat24). -/
def grindRound (a b : Int) (free : Nat) : Int :=
  let lo := -((-(a - 4 * b)) / b)
  let hi := (a + 4 * b) / b
  sat24 (lo + (free % (hi - lo + 1).toNat : Nat))

/-- y(z) of R127 for one polarisation. -/
def grinder (t : Tone) (taper n h0 seed pol z : Nat) (xs : List Merged) : Int × Int :=
  let m := t.taps
  let (re, im, w) := (List.range m).foldl (fun (a : Int × Int × Int) (j : Nat) =>
    let w := asr (taperW taper m j) 50
    let u := replica t n j
    let (ur, ui) := (asr u.1 50, asr u.2 50)
    let (xr, xi) := baseband t.freq h0 xs (z + j)
    (a.1 + w * (ur * xr + ui * xi), a.2.1 + w * (ur * xi - ui * xr), a.2.2 + w)) (0, 0, 0)
  let den := w * 2 ^ 50
  (grindRound re den (Config.grind seed (4 * z + 2 * pol)), grindRound im den (Config.grind seed (4 * z + 2 * pol + 1)))

/-- mix32 of R256. -/
def mix32 (h : Nat) : Nat :=
  let h := h % 2 ^ 32
  let h := Nat.xor h (h / 2 ^ 16) * 0x7FEB352D % 2 ^ 32
  let h := Nat.xor h (h / 2 ^ 15) * 0x846CA68B % 2 ^ 32
  Nat.xor h (h / 2 ^ 16)

/-- π in binary64. -/
def piD : Nat := dscaled piQ (-100)

/-- y(z) of the synthetic fibre (R531), with the slot sample's noise. -/
def synthetic (r : RegFile) (p k pol z instant seed : Nat) : Int × Int :=
  let h1 := mix32 (Nat.xor (rfRd r (.FIBRE_TEST_Seed p)) (mix32 (k * 2 ^ 19 + pol * 2 ^ 18 + z)))
  let h2 := mix32 (Nat.xor h1 0x9E3779B9)
  let u := ddiv (dadd (dint (h1 / 256)) (dscaled 1 (-1))) (dint 16777216)
  let mag := if z < rfRd r (.SYN_FIBRE_BreakPos p) then
      dmul (dmul (dmul (dint (rfRd r (.SYN_FIBRE_A0 p))) (dint 256)) (fsqrt fmt64 (fneg fmt64 (dln u))))
        (dpow10 (ddiv (dint (-((rfRd r (.SYN_VIB_A_LossMdb 0) : Nat) : Int) * z)) (dint 20000)))
    else dint 0
  let t := ddiv (dint instant) (dint 1000000000)
  let ph0 := ddiv (dmul (dmul (dint 2) piD) (dint (h2 / 256))) (dint 16777216)
  let ph := (List.range 8).foldl (fun (a : Nat) (j : Nat) =>
    let amp := rfRd r (.SYN_VIB_B_VibAmp j)
    if amp ≠ 0 ∧ rfRd r (.SYN_VIB_A_VibPos j) < z then
      dadd a (dmul (dscaled amp (-16))
        (dsin (dmul (dmul (dmul (dmul (dint 2) piD) (dint (rfRd r (.SYN_VIB_B_VibFreq j)))) (ddec 1 2)) t)))
    else a) ph0
  let rms : Int := rfRd r (.SYN_FIBRE_NoiseRms p) * 256
  let n := fun (c : Nat) => asr (Config.noise seed (4 * z + 2 * pol + c) * rms) 16
  (sat24 (dround (dmul mag (dcos ph)) + n 0), sat24 (dround (dmul mag (dsin ph)) + n 1))

/-! Gauge product and its marks (R130 – R132) -/

/-- The samples of a window from index a to b, both included. -/
def samplesIn (xs : List Merged) (a b : Int) : List Merged :=
  (xs.drop a.toNat).take (b + 1 - (max a 0)).toNat

/-- Bits of a mark word (R144). -/
def mkFaded : Nat := 1
def mkSingle : Nat := 2
def mkClip : Nat := 4
def mkCold : Nat := 8
def mkSettling : Nat := 16
def mkRestart : Nat := 32
def mkGap : Nat := 64
def mkPoison : Nat := 128
def mkCalStep : Nat := 256

/-- The gauge product of a slot sample at position z: P, whether P = 0 under R131 or R140, and its marks. -/
def gaugeProduct (p : Nat) (sw : SlotWin) (z : Nat) : Int × Int × Bool × Nat :=
  let r := sw.shot.cfg
  let q := planOf r p sw.shot.slot
  let g := gaugeOf r p
  match q.tones[sw.tone]? with
  | none => (0, 0, true, 0)
  | some t =>
    let m := t.taps
    let planned := 8 * (q.winPos + q.mMax)
    let hi : Int := 8 * (z + g + m - 1 : Nat) + 32
    let lo : Int := 8 * z - 32
    let span := fun (z : Nat) (xs : List Merged) => samplesIn xs (8 * z - 32) (8 * (z + m - 1 : Nat) + 32)
    let near := span z sw.x ++ span z sw.y ++ span (z + g) sw.x ++ span (z + g) sw.y
    let marks := bnat (near.any fun (x : Merged) => x.ovr) * mkClip + bnat (near.any fun (x : Merged) => x.cold) * mkCold
    if (sw.x.length : Int) ≤ min hi (planned - 1) then (0, 0, true, marks)
    else
      let clip := rfRd r (.CHAIN_CTRL_ClipAsFade p) == 1
      let bad := fun (xs : List Merged) => (samplesIn xs lo hi).any fun (x : Merged) => x.invalid || (x.ovr && clip)
      let bx := bad sw.x
      let by_ := bad sw.y
      let fallback := rfRd r (.CHAIN_CTRL_PolFallback p) == 1
      if (bx && by_) || ((bx || by_) && !fallback) then (0, 0, true, marks)
      else
        let taper := rfRd r (.CHAIN_CTRL_Taper p)
        let h0 := 2 * (sw.start - sw.shot.t0)
        let syn := rfRd r (.FIBRE_TEST_Mode p) == 3
        let y := fun (pol z : Nat) (xs : List Merged) =>
          if syn then synthetic r p sw.tone pol z sw.instant sw.seed else grinder t taper sw.shot.n h0 sw.seed pol z xs
        let prod := fun (pol : Nat) (xs : List Merged) =>
          let (ar, ai) := y pol (z + g) xs
          let (br, bi) := y pol z xs
          (ar * br + ai * bi, ai * br - ar * bi)
        let (xr, xi) := if bx then (0, 0) else prod 0 sw.x
        let (yr, yi) := if by_ then (0, 0) else prod 1 sw.y
        (xr + yr, xi + yi, false, marks + bnat (bx || by_) * mkSingle)

/-- θ of R134, in binary64 but for the last rounding. DEDUCED, unsafe: log 19 (the error of atan2). -/
def thetaOf (re im : Int) : Nat :=
  if re = 0 ∧ im = 0 then 0
  else ofS 16 (dround (ddiv (dmul (dint 65536) (datan2 (dint im) (dint re))) (dmul (dint 2) piD)))

/-- L of R134. -/
def levelOf (re im : Int) : Nat :=
  let a := re.natAbs
  let b := im.natAbs
  let mag := max a b + min a b / 4 + min a b / 8
  if mag = 0 then 1
  else
    let e := log2 mag
    let f := if 2 ≤ e then mag / 2 ^ (e - 2) % 4 else mag * 2 ^ (2 - e) % 4
    max 1 (min (4 * e + f) 255)

/-! Fusion (R133 – R142) -/

/-- The state of a position: offsets, weights, φ as a 32-bit word. -/
structure Pos where
  off : List Nat
  q : List Nat
  phi : Nat
deriving DecidableEq, Repr

/-- Decode the 28 bytes of R133. -/
def posOf (bs : List Byte) : Pos :=
  { off := (List.range 8).map fun j => leAt bs (2 * j) 2, q := (List.range 8).map fun j => leAt bs (16 + j) 1, phi := leAt bs 24 4 }

/-- Encode the 28 bytes of R133. DESIGN CHOICE, unsafe: log 107. -/
def posBytes (x : Pos) : List Byte := x.off.flatMap (fun v => le 2 v) ++ x.q.flatMap (fun v => le 1 v) ++ le 4 x.phi

/-- recip[c] of R136. -/
def recip (c : Nat) : Int := roundDiv 65536 c

/-- The result of R136: the new state, whether the sample is faded, and r. -/
def fuse (x : Pos) (sl S theta level fadeDepth fadeFloor fuseStep qShift : Nat) (zeroP restart : Bool) : Pos × Bool × Int :=
  let used := (x.q.take S).filter fun v => v != 0
  let ni := used.length
  let qbar := if ni = 0 then 0 else (used.foldl (fun a v => a + v) 0) / ni
  let fade := zeroP || decide (level < fadeFloor) || (qbar != 0 && decide (level + fadeDepth < qbar))
  let init := x.q.getD sl 0 == 0
  let offS := x.off.getD sl 0
  let x1 : Pos × Int :=
    if fade then (x, 0)
    else if init then ({ x with off := x.off.set sl ((theta + 65536 - x.phi % 65536) % 65536) }, 0)
    else
      let r := toS 16 ((theta + 2 * 65536 - offS - x.phi % 65536) % 65536)
      let phi := ofS 32 ((x.phi : Int) + r)
      if restart || ni ≤ 1 then ({ x with phi := phi }, r)
      else
        let inc := toS 16 (ofS 16 (asr (r + 2 ^ (fuseStep - 1)) fuseStep))
        let share := toS 16 (ofS 16 (asr (inc * recip (ni - 1) + 32768) 16))
        let off := x.off.zipIdx.map fun (v : Nat × Nat) =>
          if v.2 = sl then ofS 16 ((v.1 : Int) + inc)
          else if v.2 < S ∧ x.q.getD v.2 0 ≠ 0 then ofS 16 ((v.1 : Int) - share) else v.1
        ({ x with off := off, phi := phi }, r)
  let q := if init && fade then x.q
    else
      let dq : Int := (level : Int) - x.q.getD sl 0
      let nq := if init then (level : Int) else (x.q.getD sl 0 : Int) + asr (dq + 2 ^ (qShift - 1)) qShift
      x.q.set sl (clampI 1 255 nq).toNat
  ({ x1.1 with q := q }, fade, x1.2)

/-- Deliver an item to the product unit, and count it when it is faded (R137, R144). -/
def State.emitItem (s : State) (p : Fin 4) (it : Item) (phi : Nat) : State :=
  let s := s.updChain p fun (c : ChainSt) => { c with items := c.items ++ [{ it with phi := phi }] }
  if it.marks % 2 = 1 then s.inc64 (.FADE_TOTAL_LO_Faded p) 1 else s

/-- The pending sample of a position. -/
def State.heldAt (s : State) (p : Fin 4) (z : Nat) : Option Item := spGet (fun _ => none) (s.chainOf p).held z

/-- Byte of a position's word of marks (R133). -/
def markByte (z : Nat) : Nat := 7340032 + 4 * z

/-- A position's word of marks: bits [8:0] the marks of its pending sample, bit 31 set while it awaits its first good sample after a restart; and
whether the word is bad (R133). DESIGN CHOICE, unsafe: log 107 (the places of the bits). -/
def State.markOf (s : State) (p : Fin 4) (z : Nat) : Nat × Bool :=
  let (bs, bad) := s.sramRead (0x10 + p) p (markByte z) 4
  (leNat bs, bad)

/-- Write a position's word of marks. -/
def State.setMark (s : State) (p : Fin 4) (z marks : Nat) (awaits : Bool) : State :=
  s.sramWrite (0x10 + p) p (markByte z) (le 4 (marks % 512 + bnat awaits * 2 ^ 31))

/-- Emit the pending sample of a position with the position's φ: the end of its series (R137). Marks and φ come from the position's words (R30). -/
def State.endHeld (s : State) (p : Fin 4) (z : Nat) : State :=
  match s.heldAt p z with
  | none => s
  | some it =>
    let (bs, bad) := s.sramRead (0x10 + p) p (28 * z) 28
    let (m, badM) := s.markOf p z
    let s := s.emitItem p { it with marks := m % 512 ||| bnat (bad || badM) * mkPoison } (posOf bs).phi
    (s.setMark p z 0 (bit m 31)).updChain p fun (c : ChainSt) => { c with held := spSet (fun _ => none) c.held z none }

/-- End the series of every position (R139): the pending samples leave in increasing z. -/
def State.endSeries (s : State) (p : Fin 4) : State :=
  (s.chainOf p).held.foldl (fun (s : State) (e : Nat × Option Item) => s.endHeld p e.1) s

/-- Initialise a position: every q becomes 0 (R139). -/
def State.initPos (s : State) (p : Fin 4) (z : Nat) : State := s.sramWrite (0x10 + p) p (28 * z + 16) (zeros 8)

/-- The positions from `from_` on of which some word of state is listed: every other one holds the zeros of the fill, q among them (R139, R366). -/
def State.statedFrom (s : State) (p : Fin 4) (from_ : Nat) : List Nat :=
  let lo := sramLoc p 0
  (s.mem.words.filter fun (e : Nat × BitVec 80) => decide (lo ≤ e.1 ∧ e.1 < lo + 917504)).flatMap fun (e : Nat × BitVec 80) =>
    [8 * (e.1 - lo) / 28, (8 * (e.1 - lo) + 7) / 28].filter fun (z : Nat) => decide (from_ ≤ z)

/-- Build the state of a port for a plan (R139, R142): every position is initialised where the fingerprint differs, and positions at or beyond the N of the
last build always. A plan without tones has no positions. DESIGN CHOICE, unsafe: log 121. -/
def State.buildSeries (s : State) (p : Fin 4) (cfg : RegFile) (slot : Nat) : State :=
  let n := if (planOf cfg p slot).tones.isEmpty then 0 else nOf cfg p slot
  let c := s.chainOf p
  let fp := fingerprint cfg p slot
  let init := c.print != fp
  let s := (s.statedFrom p (if init then 0 else c.builtN)).foldl (fun (s : State) (z : Nat) => s.initPos p z) s
  let s := if init then s.wr (.CHAIN_STATUS_SettleCount p) 0 else s
  s.updChain p fun (c : ChainSt) =>
    { c with print := fp, builtN := n, sinceRestart := 0, initShot := init, sinceInit := if init then 0 else c.sinceInit, ending := none }

/-- Open a new series at the first slot sample of a shot (R139, R142). -/
def State.beginSeries (s : State) (p : Fin 4) (shot : Shot) : State := (s.endSeries p).buildSeries p shot.cfg shot.slot

/-- A series that ends with the shots before a plan change ends once they are fused (R139). A plan without tones then takes the state over. -/
def State.finishSeries (s : State) (p : Fin 4) : State :=
  let q := s.ports.get p
  match q.chain.ending with
  | none => s
  | some id =>
    let open_ := q.wins.any (fun (w : ToneWin) => decide (w.shot < id)) || q.chain.queue.any (fun (w : SlotWin) => decide (w.shot.id < id)) ||
      q.probe.launches.any fun (l : Nat × Nat × Nat) => decide (l.1 < id)
    if open_ then s
    else
      let s := (s.endSeries p).updChain p fun (c : ChainSt) => { c with ending := none }
      if (planOf s.regs p q.probe.slot).tones.isEmpty then s.buildSeries p s.regs q.probe.slot else s

/-- Write a position's state so that its words are good again, with the bytes of a neighbour as read (R139). -/
def State.cleanPos (s : State) (p : Fin 4) (z : Nat) (bs : List Byte) : State :=
  let a := 28 * z / 8
  let pre := (s.sramRead (0x10 + p) p (8 * a) (28 * z - 8 * a)).1
  let b := (28 * z + 28 + 7) / 8 * 8
  let post := (s.sramRead (0x10 + p) p (28 * z + 28) (b - (28 * z + 28))).1
  s.sramWrite (0x10 + p) p (8 * a) (pre ++ bs ++ post)

/-- The position that shares words with position z. -/
def sharer (z : Nat) : Nat := if z % 2 = 0 then z + 1 else z - 1

/-- The word of state that two positions share, as a byte address. -/
def sharedWord (z : Nat) : Nat := if z % 2 = 0 then 28 * z + 24 else 28 * z - 4

/-- Initialise a position whose state or marks held an uncorrectable word: its series ends, and the neighbour that shares the word is initialised with it
(R139). The neighbour's next sample carries the marks. -/
def State.poisonPos (s : State) (p : Fin 4) (z : Nat) : State :=
  let y := sharer z
  let (bs, _) := s.sramRead (0x10 + p) p (28 * z) 28
  let (m, badM) := s.markOf p y
  let shared := badM || (s.sramRead (0x10 + p) p (sharedWord z) 8).2
  let s := s.endHeld p z
  let s := if shared then s.endHeld p y else s
  let s := s.cleanPos p z (posBytes { posOf bs with q := List.replicate 8 0 })
  let s := if shared then s.initPos p y else s
  let own := le 4 (2 ^ 31)
  let other := le 4 (if shared then 2 ^ 31 else m)
  let s := s.sramWrite (0x10 + p) p (markByte (min z y)) (if z < y then own ++ other else other ++ own)
  s.updChain p fun (c : ChainSt) => { c with posReset := (if shared then [y] else []) ++ c.posReset.filter fun (v : Nat) => v != z && !(shared && v == y) }

/-- One fusion update: gauge position z of a slot sample (R130 – R142). -/
def State.fuseOne (s : State) (p : Fin 4) (sw : SlotWin) : State :=
  let z := sw.nextZ
  let r := sw.shot.cfg
  let q := planOf r p sw.shot.slot
  let n := q.winPos - gaugeOf r p
  let first := sw.tone == 0
  let s := if first && z == 0 && sw.shot.restart then s.beginSeries p sw.shot else s
  let ((_, badS), s) := s.sramLoad (0x10 + p) p (28 * z) 28
  let ((_, badM), s) := s.sramLoad (0x10 + p) p (markByte z) 4
  let poisoned := badS || badM
  let reset := poisoned || (s.chainOf p).posReset.contains z
  let s := if poisoned then s.poisonPos p z else s
  let s := s.updChain p fun (c : ChainSt) => { c with posReset := c.posReset.filter fun (v : Nat) => v != z }
  let c := s.chainOf p
  let opens := first && sw.shot.restart
  let mw := (s.markOf p z).1
  let settling := decide (c.sinceInit < 64) || decide (c.sinceRestart < 8)
  let x := posOf (s.sramRead (0x10 + p) p (28 * z) 28).1
  let (re, im, zero, marks) := gaugeProduct p sw z
  let theta := if zero then 0 else thetaOf re im
  let level := levelOf re im
  let zeroP := zero || (re == 0 && im == 0)
  let waiting := opens || bit mw 31
  let (x', fade, rr) := fuse x sw.slot q.slotCount theta level (rfRd r (.FADE_CFG_FadeDepth p)) (rfRd r (.FADE_CFG_FadeFloor p))
    (rfRd r (.CHAIN_CTRL_FuseStep p)) (rfRd r (.CHAIN_CTRL_QShift p)) zeroP waiting
  let s := s.sramWrite (0x10 + p) p (28 * z) (posBytes x')
  let marks := marks ||| bnat fade * mkFaded ||| bnat settling * mkSettling ||| bnat (opens || reset) * mkRestart |||
    bnat (opens && sw.shot.gap) * mkGap ||| bnat reset * mkPoison ||| bnat sw.shot.calStep * mkCalStep
  let it : Item := { shotId := sw.shot.id, shotN := sw.shot.n, epoch := sw.shot.epoch, plan := sw.shot.slot, tone := sw.tone, slot := sw.slot, first := first, opens := opens, init := opens && c.initShot,
                     at_ := sw.at_, instant := sw.instant, z := z, phi := x'.phi, pre := re, pim := im, level := level, marks := marks, cfg := r }
  let s := match s.heldAt p z with
    | none => s
    | some old =>
      let v := if bit mw 0 && !fade && !waiting then ofS 32 ((x.phi : Int) + asr rr 1) else x.phi
      (s.emitItem p { old with marks := mw % 512 } v).updChain p fun (c : ChainSt) => { c with held := spSet (fun _ => none) c.held z none }
  let hold := rfRd r (.CHAIN_CTRL_FadeMode p) == 1
  let s := s.setMark p z (if hold then marks else 0) (waiting && fade)
  let s := if hold then
      s.updChain p fun (c : ChainSt) => { c with held := spSet (fun _ => none) c.held z (some it) }
    else s.emitItem p it x'.phi
  let s := s.updChain p fun (c : ChainSt) =>
    { c with fadedNow := c.fadedNow + bnat fade }
  if z + 1 < n then
    s.updChain p fun (c : ChainSt) => { c with queue := { sw with nextZ := z + 1 } :: c.queue.drop 1 }
  else
    let c := s.chainOf p
    let s := s.wr (.FADE_LAST_Faded p sw.slot) c.fadedNow
    let s := s.updChain p fun (c : ChainSt) =>
      { c with queue := c.queue.drop 1, fadedNow := 0,
               sinceInit := c.sinceInit + bnat sw.last, sinceRestart := c.sinceRestart + bnat sw.last }
    (s.wr (.CHAIN_STATUS_SettleCount p) (min 64 (s.chainOf p).sinceInit)).finishSeries p

/-- FUSION_UPDATE: the chain processes the next gauge position of its oldest slot sample (R136). -/
def execFusionUpdate (p : Fin 4) (s : State) : Out :=
  if !s.locked 1 then .next s else
  match (s.chainOf p).queue with
  | [] => .next s
  | sw :: _ => .next (s.fuseOne p sw)

/-- What a write of PEEK_POS does (R147). -/
def State.peekPos (s : State) (p : Fin 4) : State :=
  (s.wr (.PEEK_POS_Ready p) 0).updChain p fun (c : ChainSt) => { c with peek := some (s.rd (.PEEK_POS_Pos p)) }

/-- PEEK_COPY_DONE: the 28 bytes of the position stand in PEEK_DATA and Ready sets (R147). -/
def execPeekCopyDone (p : Fin 4) (s : State) : Out :=
  if !s.locked 1 then .next s else
  match (s.chainOf p).peek with
  | none => .next s
  | some z =>
    let ((bs, bad), s) := s.sramLoad (0x10 + p) p (28 * z) 28
    let s := (List.range 7).foldl (fun (s : State) (w : Nat) => s.wr (.PEEK_DATA_Data p w) (leAt bs (4 * w) 4)) s
    let s := if bad then s.poisonPos p z else s
    let s := s.updChain p fun (c : ChainSt) => { c with peek := none, peekBad := bad, posReset := if bad then z :: c.posReset else c.posReset }
    .next (s.wr (.PEEK_POS_Ready p) 1)

/-! Windows -/

/-- TONE_WINDOW_OPEN: tone k's window opens at o_k + d after the boundary (R62). -/
def execToneWindowOpen (p : Fin 4) (k : Fin 8) (s : State) : Out :=
  let hit := fun (w : ToneWin) => w.tone == k.val && !w.opened && w.cut.isNone && s.due w.openAt
  match (s.ports.get p).wins.findIdx? hit with
  | none => .next s
  | some i =>
    let s := match (s.ports.get p).wins[i]? with
      | some w => s.lastWindow p w.closeAt
      | none => s
    .next (s.updPort p fun (q : PortSt) => { q with wins := modAt q.wins i fun (w : ToneWin) => { w with opened := true } })

/-- Insert a slot sample in launch order (R133). -/
def insertSlot (x : SlotWin) : List SlotWin → List SlotWin
  | [] => [x]
  | y :: ys => if x.shot.id < y.shot.id ∨ (x.shot.id = y.shot.id ∧ x.tone < y.tone) then x :: y :: ys else y :: insertSlot x ys

/-- Side bits that the chain keeps with a merged sample. -/
def Conv.merged (x : Conv) : Merged := ⟨x.code, x.ovr, x.cold, x.invalid⟩

/-- Queue the slot sample of a window for fusion. DESIGN CHOICE, unsafe: log 106. -/
def State.pushSlot (s : State) (p : Fin 4) (shot : Shot) (w : ToneWin) (x y : List Merged) : State :=
  let q := planOf shot.cfg p shot.slot
  let seed := s.freeCtr
  let item : SlotWin :=
    { shot := shot, tone := w.tone, slot := q.slotOf w.tone shot.n, x := x, y := y, nextZ := 0, start := w.openAt, at_ := w.at_,
      instant := w.instant, seed := seed, last := w.tone + 1 == q.tones.length }
  { s with freeCtr := s.freeCtr + 1 }.updChain p fun (c : ChainSt) => { c with queue := insertSlot item c.queue }

/-- A shot has windows that have not closed, or launches to come. -/
def PortSt.under (q : PortSt) (id : Nat) : Bool :=
  q.wins.any (fun (w : ToneWin) => w.shot == id) || q.probe.launches.any fun (l : Nat × Nat × Nat) => l.1 == id

/-- Drop the shots whose windows have all closed, but for the newest. -/
def PortSt.dropShots (q : PortSt) : PortSt :=
  { q with shots := q.shots.take 1 ++ (q.shots.drop 1).filter fun (y : Shot) => q.under y.id ||
      [q.rwin, q.rcut].any fun (w : Option RamanWin) => match w with | some w => w.shot == y.id | none => false }

/-- TONE_WINDOW_CLOSE: tone k's window closes after L_w, or at its cut. `x` and `y` are the samples of CX and CY from 20 grid instants before the
opening to one after the close (R62, R63, R96, R106). -/
def execToneWindowClose (p : Fin 4) (k : Fin 8) (x y : List Sample) (s : State) : Out :=
  let q := s.ports.get p
  let hit := fun (w : ToneWin) => w.tone == k.val && w.opened && s.due (w.cut.getD w.closeAt)
  match q.wins.findIdx? hit with
  | none => .next s
  | some i =>
    match q.wins[i]? with
    | none => .next s
    | some w =>
      let end_ := w.cut.getD w.closeAt
      let n := 2 * (end_ - w.openAt)
      let s1 := s.updPort p fun (q : PortSt) => { q with wins := q.wins.eraseIdx i }
      match q.shots.find? fun (h : Shot) => h.id == w.shot with
      | none => .next s1
      | some shot =>
        if w.dead then .next ((s1.updPort p PortSt.dropShots).finishSeries p)
        else if x.length ≠ n + 21 ∨ y.length ≠ n + 21 then .next s
        else
          let s := s1
          let cx := s.convCoh p (fun (_ : Nat) => shot.cfg) 0 (2 * w.openAt) x
          let cy := s.convCoh p (fun (_ : Nat) => shot.cfg) 1 (2 * w.openAt) y
          let s := (s.countOvr p 0 cx (.OVR_CNT_C_CX p)).countOvr p 1 cy (.OVR_CNT_C_CY p)
          let s := (s.capTake p cx).capTake p cy
          let open_ := (s.ports.get p).wins.any fun (v : ToneWin) => v.opened && decide (v.openAt ≤ end_)
          let s := if open_ then s else s.capClose p false
          let s := ((s.bgAdd p shot.id cx).bgAdd p shot.id cy).bgTo p (2 * end_)
          let last := !((s.ports.get p).under shot.id)
          let s := if last then s.bgUpdate p shot.id shot.epoch ((s.feOf p).sumTo / 2) else s
          let s := s.pushSlot p shot w (cx.map Conv.merged) (cy.map Conv.merged)
          .next (s.updPort p PortSt.dropShots)

end Sys2Proof.Machine
end

