-- ==== Sys2Proof/Machine/LidarOps.lean ====
section
/-! DEFINITION. Shared operations of the free-space road: the lane timescale, updates, and the significance of a count
(R214, R278, R279). -/
namespace Sys2Proof.Machine

/-! Instants in units of 1/128 ns (R213, R214, R439) -/

/-- The crystal instant, 1/128 ns. -/
def State.xu (s : State) : Nat := s.time.ticks * 3200
/-- An instant is due when it lies before the end of the running tick. -/
def State.dueU (s : State) (t : Nat) : Bool := decide (t < s.xu + 3200)
/-- Λ at a crystal instant, LSB 2^-48 ns, on the present correction (R439). DESIGN CHOICE, unsafe: log 55. -/
def State.lamAt (s : State) (x : Nat) : Int := s.time.lam48 + tdiv (incOf s.time.corr * ((x : Int) - s.xu)) 3200
/-- Λ at a crystal instant, 1/128 ns (R213). -/
def State.lamU (s : State) (x : Nat) : Nat := (asr (s.lamAt x) 41).toNat
/-- Device time, ns, at a crystal instant: Λ with σ as it stood then (R439). -/
def State.devAtU (s : State) (x : Nat) : Nat := (asr (s.lamAt x + s.sigAt (x / 3200)) 48).toNat % 2 ^ 64
/-- The crystal instant at which Λ reaches a value of LSB 2^-48 ns. -/
def State.xuOfLam (s : State) (l : Int) : Nat :=
  ((s.xu : Int) + roundDiv ((l - s.time.lam48) * 3200) (incOf s.time.corr)).toNat
/-- An interval between two crystal instants on the lane timescale, 1/128 ns, rounded down (R218). -/
def State.spanU (s : State) (a b : Nat) : Int := asr (s.lamAt b - s.lamAt a) 41

/-- Update the free-space road. -/
def State.updLidar (s : State) (f : LidarSt → LidarSt) : State := { s with lidar := f s.lidar }
/-- A timing lane. -/
def State.lane (s : State) (l : Nat) : LaneSt := spGet (fun _ => LaneSt.rest) s.lidar.lanes l
/-- Update a timing lane. -/
def State.updLane (s : State) (l : Nat) (f : LaneSt → LaneSt) : State :=
  s.updLidar fun (d : LidarSt) => { d with lanes := spSet (fun _ => LaneSt.rest) d.lanes l (f (s.lane l)) }
/-- Update a regression channel. -/
def State.updChannel (s : State) (c : Fin 16) (f : RegChan → RegChan) : State :=
  s.updLidar fun (d : LidarSt) => { d with chans := vupd d.chans c f }
/-- Update a scan port. -/
def State.updScan (s : State) (k : Fin 2) (f : ScanSt → ScanSt) : State :=
  s.updLidar fun (d : LidarSt) => { d with scans := vupd d.scans k f }
/-- Update an emitter port. -/
def State.updE (s : State) (e : Fin 8) (f : EPort → EPort) : State :=
  s.updLidar fun (d : LidarSt) => { d with ports := vupd d.ports e f }
/-- An emitter port. -/
def State.ep (s : State) (e : Fin 8) : EPort := s.lidar.ports.get e
/-- Update the line-scan controller. -/
def State.updCtl (s : State) (f : EmtSt → EmtSt) : State := s.updLidar fun (d : LidarSt) => { d with ctl := f d.ctl }
/-- The line-scan controller. -/
def State.ctl (s : State) : EmtSt := s.lidar.ctl

/-! The engine (R241, R474) -/

/-- A port takes part in line scan: it is enabled, or under the FIRE-to-START path (R527, R530). -/
def portIn (r : RegFile) (e : Nat) : Bool := bit (rfRd r .EMT_CTRL_PortEnable) e || bit (rfRd r .LANE_TEST_FireStart) e

/-- A port of the register file takes part in line scan. -/
def anyPort (r : RegFile) : Bool := (List.range 8).any fun (e : Nat) => portIn r e

/-- The lidar engine runs: released, ACTIVE, not stopped (R241, R474). -/
def State.lidarOn (s : State) : Bool := s.power.released && s.pwr == 2 && !s.ctl.stopped
/-- The lidar engine has frames to run: its clock is there, and a port is configured. -/
def State.lidarRuns (s : State) : Bool := s.lidarOn && s.locked 3 && anyPort s.regs

/-- Frame syncs that fell while the engine had no frames to run start none (R234, R247, R268, R292). -/
def State.dropSyncs (s : State) : State :=
  s.updCtl fun (c : EmtSt) => { c with syncs := c.syncs.filter fun (t : Nat) => !s.dueU t, syncLast := none }

/-! Significance (R279) -/

/-- A positive number m × 2^e kept to 192 bits. -/
structure Big where
  m : Nat
  e : Int
deriving DecidableEq, Repr

/-- Cut to 192 bits. -/
def bigNorm (m : Nat) (e : Int) : Big :=
  let k := log2 m + 1 - 192
  ⟨m / 2 ^ k, e + k⟩
/-- Product. -/
def bigMul (a b : Big) : Big := bigNorm (a.m * b.m) (a.e + b.e)
/-- Quotient by a count. -/
def bigDiv (a : Big) (n : Nat) : Big := bigNorm (a.m * 2 ^ 192 / n) (a.e - 192)
/-- Sum. -/
def bigAdd (a b : Big) : Big :=
  if a.m = 0 then b else if b.m = 0 then a
  else
    let (x, y) := if b.e ≤ a.e then (a, b) else (b, a)
    let d := (x.e - y.e).toNat
    if 600 < d then x else bigNorm (x.m * 2 ^ d + y.m) y.e
/-- a ≤ 2^k. -/
def bigLe (a : Big) (k : Int) : Bool :=
  if a.m = 0 then true
  else if 0 ≤ a.e - k then a.m * 2 ^ (a.e - k).toNat == 1 else decide (a.m ≤ 2 ^ (k - a.e).toNat)

/-- Terms of e^-x for 0 ≤ x < 1, x of LSB 2^-256. -/
def expGo (x : Nat) : Nat → Nat → Int → Int → Int
  | 0, _, _, acc => acc
  | n + 1, k, t, acc => expGo x n (k + 1) (-(t * x / 2 ^ 256) / (k : Int)) (acc + t)
/-- e^-x for 0 ≤ x < 1, x of LSB 2^-256. -/
def expFrac (x : Nat) : Big := bigNorm (expGo x 80 1 (2 ^ 256) 0).toNat (-256)
/-- A power by squaring. -/
def bigPow (b : Big) : Nat → Nat → Big
  | 0, _ => ⟨1, 0⟩
  | k + 1, n =>
    let r := bigPow (bigMul b b) k (n / 2)
    if n % 2 = 1 then bigMul r b else r
/-- e^-m for a mean m = num × 2^e. -/
def expNeg (num : Nat) (e : Int) : Big :=
  let fixed := if 0 ≤ e + 256 then num * 2 ^ (e + 256).toNat else num / 2 ^ (-(e + 256)).toNat
  let whole := fixed / 2 ^ 256
  bigMul (expFrac (fixed % 2 ^ 256)) (bigPow (expFrac (2 ^ 256 - 1)) (log2 whole + 1) whole)

/-- Sum of terms of the Poisson distribution from term `t` of index i on; answers the sum and the term that follows. -/
def poisGo (mean : Big) : Nat → Nat → Big → Big → Big × Big
  | 0, _, t, acc => (acc, t)
  | n + 1, i, t, acc => poisGo mean n (i + 1) (bigDiv (bigMul t mean) (i + 1)) (bigAdd acc t)

/-- P(X ≥ k) for X Poisson with a mean in binary64 (R279). DEDUCED, safe: log 57. -/
def poissonTail (k mean : Nat) : Big :=
  if k = 0 then ⟨1, 0⟩
  else match fdecode fmt64 mean with
    | .fin _ num e =>
      let m := bigNorm num e
      let (low, t) := poisGo m k 0 (expNeg num e) ⟨0, 0⟩
      if bigLe low (-1) then
        let one := 2 ^ 256
        let l := if 0 ≤ low.e + 256 then low.m * 2 ^ (low.e + 256).toNat else low.m / 2 ^ (-(low.e + 256)).toNat
        bigNorm (one - l) (-256)
      else (poisGo m (k + 300) k t ⟨0, 0⟩).1
    | _ => ⟨1, 0⟩

/-- S ≥ thr (R279). -/
def significant (k mean thr : Nat) : Bool := bigLe (poissonTail k mean) (-(thr : Int))

/-- min(255, floor(S)) (R283). -/
def signifOf (k mean : Nat) : Nat :=
  let q := poissonTail k mean
  if q.m = 0 then 255
  else
    let b := log2 q.m
    let up : Int := if q.m = 2 ^ b then b else b + 1
    min 255 (-(up + q.e)).toNat

/-! Ordering -/

/-- Insert by an order: before the first element that it precedes. -/
def insBy {α : Type} (before : α → α → Bool) (x : α) : List α → List α
  | [] => [x]
  | y :: ys => if before x y then x :: y :: ys else y :: insBy before x ys
/-- Sort by an order; elements that neither precedes keep their places. -/
def sortBy {α : Type} (before : α → α → Bool) (xs : List α) : List α :=
  xs.foldl (fun (acc : List α) (x : α) => insBy before x acc) []

end Sys2Proof.Machine
end

