-- ==== Sys2Proof/Machine/Hist.lean ====
section
/-! DEFINITION. Histograms, rejection and range points (R271 – R294). -/
namespace Sys2Proof.Machine

/-! Points, lanes and banks (R271 – R275) -/

/-- w of R274, 1/128 ns. -/
def binW (r : RegFile) (e : Nat) : Nat := 32 * 2 ^ rfRd r (.HIST_CFG_BinW e)
/-- Span of R279. -/
def spanOf (r : RegFile) (e : Nat) : Nat := rfRd r (.HIST_CFG_SpanM1 e) + 1
/-- 128 × HistOff. PRESUMED, unsafe: log 98. -/
def histBase (r : RegFile) (e : Nat) : Nat := 128 * rfRd r (.HIST_OFF_HistOff e)
/-- M of R275. -/
def phase1 (r : RegFile) (e n : Nat) : Nat := max 1 (ceilDiv (n * rfRd r (.HIST_CFG_CoarseFrac e)) 256)
/-- A return lane times an emitter port. -/
def timesPort (r : RegFile) (l e : Nat) : Bool := rfRd r (.LANE_CFG_Enable l) == 1 && rfRd r (.LANE_CFG_Emitter l) == e
/-- A return lane belongs to a point with an in-circuit mask (R271). -/
def belongs (r : RegFile) (l e mask : Nat) : Bool :=
  timesPort r l e && (rfRd r (.HIST_LANE_SegGate l) == 0 || bit mask (rfRd r (.HIST_LANE_Segment l)))
/-- The return lanes that time a port (R271). -/
def lanesOf (r : RegFile) (e : Nat) : List Nat := (List.range 256).filter fun (l : Nat) => timesPort r l e

/-- A bank of a lane is taken by some point (R272). -/
def State.bankTaken (s : State) (l b : Nat) : Bool :=
  s.lidar.ports.toList.any fun (q : EPort) => q.points.any fun (p : PointSt) => p.lanes.any fun (x : LanePt) => x.lane == l && x.bank == b

/-- First word of a bank in the histogram SRAM. -/
def bankBase (l b : Nat) : Nat := (2 * l + b) * 1152

/-- Zero a bank: its words are written anew (R272). -/
def State.zeroBank (s : State) (l b : Nat) : State :=
  let lo := sramLoc 25 (bankBase l b)
  { s with mem := { s.mem with words := spDrop (fun (a : Nat) => decide (lo ≤ a) && decide (a < lo + 1152)) s.mem.words } }

/-- A stop enters a lane's holding queue, two to a word: the first of a word writes it anew (R276, R294). -/
def State.queueWord (s : State) (l k : Nat) : State :=
  if k % 2 = 1 then s
  else
    let a := sramLoc 25 (589824 + 256 * l + k / 2)
    { s with mem := { s.mem with words := spDrop (fun (b : Nat) => b == a) s.mem.words } }

/-- The words of a run of the histogram SRAM that read uncorrectable, by their place in the run (R294). -/
def State.badWords (s : State) (first n : Nat) : List Nat :=
  let lo := sramLoc 25 first
  ((s.mem.words.filter fun (c : Nat × BitVec 80) =>
      decide (lo ≤ c.1) && decide (c.1 < lo + n) && (s.word c.1).kind.bad).map
    fun (c : Nat × BitVec 80) => c.1 - lo)

/-- A lane takes a free bank for a point, or takes no part in it (R272, R273). -/
def State.takeBank (s : State) (l : Nat) : State × Option LanePt :=
  if !s.bankTaken l 0 then (s.zeroBank l 0, some ⟨l, 0, [], [], [], [], [], false, false, false, false, false⟩)
  else if !s.bankTaken l 1 then (s.zeroBank l 1, some ⟨l, 1, [], [], [], [], [], false, false, false, false, false⟩)
  else ((s.inc (.HIST_LANE_CNT_NoBank l) 1).inc .PT_CNT_A_NoBank 1, none)

/-- Banks for every lane of a point: the lanes that found one, and those that found none. -/
def takeBanks : List Nat → State → State × List LanePt × List Nat
  | [], s => (s, [], [])
  | l :: ls, s =>
    let (s, r) := s.takeBank l
    let (s, xs, ns) := takeBanks ls s
    match r with
    | some x => (s, x :: xs, ns)
    | none => (s, xs, l :: ns)

/-- Update a lane's part of a point. -/
def State.updLanePt (s : State) (e : Fin 8) (seq l : Nat) (f : LanePt → LanePt) : State :=
  s.updE e fun (q : EPort) =>
    { q with points := q.points.map fun (p : PointSt) =>
        if p.seq == seq then { p with lanes := p.lanes.map fun (x : LanePt) => if x.lane == l then f x else x } else p }

/-- Update the parts that a lane has in a port's points for one shot. -/
def State.markShot (s : State) (e : Fin 8) (point : Option Nat) (l : Nat) (f : LanePt → LanePt) : State :=
  match point with
  | some seq => s.updLanePt e seq l f
  | none => s

/-- The windows of a lane in a point overlap a blind interval (R222). -/
def PointSt.overlaps (p : PointSt) (l a b : Nat) : Bool :=
  p.shots.any fun (h : Nat × Nat) =>
    decide (a < h.2 + 128 * rfRd p.cfg (.LANE_WIN_Close l)) && decide (h.2 + 128 * rfRd p.cfg (.LANE_WIN_Open l) < b)

/-- The parts that a lane has in points whose windows overlap a blind interval carry BLIND (R222). -/
def State.markBlind (s : State) (l a b : Nat) : State :=
  (List.finRange 8).foldl (fun (s : State) (e : Fin 8) =>
    s.updE e fun (q : EPort) =>
      { q with points := q.points.map fun (p : PointSt) =>
          { p with lanes := p.lanes.map fun (x : LanePt) => if x.lane == l then { x with blind := x.blind || p.overlaps l a b } else x } }) s

/-- Count one more. -/
def bump (m : Sparse Nat) (k : Nat) : Sparse Nat := spSet (fun _ => 0) m k (spGet (fun _ => 0) m k + 1)

/-- The zoom window that counts an interval, if any: the lowest-numbered (R277). -/
def winOf (wins : List Int) (w : Nat) (i : Int) : Option (Nat × Nat) :=
  match wins.findIdx? fun (z : Int) => decide (z ≤ i) && decide (i < z + 4 * (w : Int)) with
  | some j => some (j, ((i - wins.getD j 0) / ((w / 16 : Nat) : Int)).toNat)
  | none => none

/-- Coarse bin of an interval (R274). -/
def binOf (r : RegFile) (e : Nat) (i : Int) : Int := (i - histBase r e).fdiv (binW r e)

/-- Count an interval in a lane's part of a point (R274, R275, R277). -/
def countStop (r : RegFile) (e : Nat) (zoom : Bool) (copy : Nat) (i : Int) (x : LanePt) : LanePt :=
  let x := { x with coarse := bump x.coarse (2048 * copy + (binOf r e i).toNat) }
  match (if zoom then winOf x.wins (binW r e) i else none) with
  | some (j, k) => { x with zoom := bump x.zoom (64 * (2 * j + copy) + k) }
  | none => x

/-- A delivered stop enters the histograms of its point (R274 – R276). -/
def State.histStop (s : State) (e : Fin 8) (seq l shotS copy : Nat) (i : Int) : State :=
  match (s.ep e).points.find? fun (p : PointSt) => p.seq == seq with
  | none => s
  | some p =>
    match p.lanes.find? fun (x : LanePt) => x.lane == l with
    | none => s
    | some x0 =>
      let b := binOf p.cfg e i
      if b < 0 ∨ 2047 < b then s.inc (.HIST_LANE_CNT_OutOfHist l) 1
      else
        let m := phase1 p.cfg e p.n
        let s := if m ≤ shotS ∧ x0.searched = false then s.queueWord l x0.queue.length else s
        s.updLanePt e seq l fun (x : LanePt) =>
          if shotS < m then countStop p.cfg e false copy i x
          else if x.searched then countStop p.cfg e true copy i x
          else { x with queue := x.queue ++ [(copy, i)] }

/-- Count one more delivery in a HIST cycle; answers how many there were before (R221). Cycles beyond the latest 8,192 are forgotten. -/
def countCycle (cyc : Nat) : List (Nat × Nat) → Nat × List (Nat × Nat)
  | [] => (0, [(cyc, 1)])
  | (c, n) :: xs =>
    if c = cyc then (n, (c, n + 1) :: xs)
    else if c < cyc then (0, (cyc, 1) :: (c, n) :: xs)
    else
      let (k, ys) := countCycle cyc xs
      (k, (c, n) :: ys)

/-- A stop with its shot's measured start is delivered, dropped at the limit, or pre-start (R218 – R221). Deliveries are counted in the HIST cycle
of their edge. DEDUCED, unsafe: log 137. -/
def State.deliverStop (s : State) (e : Fin 8) (shot : EShot) (st l stamp : Nat) : State :=
  if stamp + 1 < st then s.inc (.LANE_CNT_A_PreStart l) 1
  else
    let i : Int := (max stamp st : Nat) - (st : Int)
    let cyc := (shot.tp + stamp) / 256
    let (n, del) := countCycle cyc s.ctl.del
    let s := s.updCtl fun (c : EmtSt) => { c with del := del.takeWhile fun (q : Nat × Nat) => decide (cyc < q.1 + 8192) }
    if 8 ≤ n then (s.inc (.LANE_CNT_B_Drop l) 1).markShot e shot.point l fun (x : LanePt) => { x with loss := true }
    else match shot.point with
      | none => s
      | some seq => s.histStop e seq l shot.s (shot.n % 2) i

/-! Background and peak search (R278, R279) -/

/-- A histogram as the search reads it: counts by coarse bin. -/
abbrev Bins := Nat → Nat

/-- Counts of one copy, with the bins of bad words read as 0 (R294). -/
def LanePt.bins (x : LanePt) (bad : List Nat) (copy : Nat) : Bins := fun (b : Nat) =>
  let k := 2048 * copy + b
  if bad.contains (k / 4) then 0 else spGet (fun _ => 0) x.coarse k
/-- Counts of both copies. -/
def LanePt.both (x : LanePt) (bad : List Nat) : Bins := fun (b : Nat) => x.bins bad 0 b + x.bins bad 1 b
/-- Zoom counts of a copy. -/
def LanePt.zoomBin (x : LanePt) (bad : List Nat) (j copy b : Nat) : Nat :=
  let k := 64 * (2 * j + copy) + b
  if bad.contains (1024 + k / 4) then 0 else spGet (fun _ => 0) x.zoom k

/-- The four largest bins, ties to the lower (R278). -/
def fourLargest (h : Bins) : List Nat :=
  (sortBy (fun (a b : Nat) => decide (h b < h a)) (List.range 2048)).take 4

/-- Sum and number of the bins more than 16 bins from each of the four largest (R278). -/
def floorSum (h : Bins) : Nat × Nat :=
  let top := fourLargest h
  let far := (List.range 2048).filter fun (b : Nat) => top.all fun (t : Nat) => decide (t + 16 < b) || decide (b + 16 < t)
  (far.foldl (fun (a b : Nat) => a + h b) 0, far.length)

/-- μ, binary64 (R278). -/
def muOf (r : RegFile) (e pre : Nat) (h : Bins) : Nat :=
  let pf := rfRd r .TL_CTRL_PreFire
  let src := rfRd r (.HIST_CFG_BgSrc e)
  let muPre := if 0 < pf then ddiv (dmul (dint pre) (dint (binW r e))) (dmul (dint 128) (dint pf)) else dint 0
  let (sum, nf) := floorSum h
  let muFloor := if 0 < nf then ddiv (dint sum) (dint nf) else dint 0
  if src = 0 then muPre else if src = 1 then muFloor else if dlt muPre muFloor then muFloor else muPre

/-- λ, the ambient rate per ns, as a fraction (R278). -/
def ambientOf (r : RegFile) (e pre n : Nat) (h : Bins) : Nat × Nat :=
  let pf := rfRd r .TL_CTRL_PreFire
  if 0 < pf then (pre, n * pf)
  else
    let (sum, nf) := floorSum h
    if nf = 0 then (0, 1) else (sum * 128, nf * binW r e * n)

/-- Span count from a bin (R279). -/
def spanCount (h : Bins) (span b : Nat) : Nat := (List.range span).foldl (fun (a k : Nat) => a + h (b + k)) 0

/-- The mean m of a span, binary64 (R279). -/
def spanMean (span mu : Nat) : Nat :=
  let m := dmul (dint span) mu
  if dlt m (dscaled 1 (-6)) then dscaled 1 (-6) else m

/-- Select peaks in order, skipping those within Span + Guard of a selected one, up to four (R279). -/
def selectPeaks (gap : Nat) : List Nat → List Nat → List Nat
  | [], got => got
  | b :: bs, got =>
    if 4 ≤ got.length then got
    else if got.any fun (g : Nat) => decide (b ≤ g + gap) && decide (g ≤ b + gap) then selectPeaks gap bs got
    else selectPeaks gap bs (got ++ [b])

/-- The peak search (R279): selected bins in the order of selection. -/
def peakSearch (r : RegFile) (e mu thr : Nat) (h : Bins) : List Nat :=
  let span := spanOf r e
  let last := 2048 - span
  let cs := spanCount h span
  let mean := spanMean span mu
  let good := (List.range (last + 1)).filter fun (b : Nat) =>
    (b == 0 || decide (cs (b - 1) < cs b)) && (b == last || decide (cs (b + 1) ≤ cs b)) && significant (cs b) mean thr
  selectPeaks (span + rfRd r (.HIST_CFG_Guard e)) (sortBy (fun (a b : Nat) => decide (cs b < cs a)) good) []

/-- The pre-fire counts of the first `n` shots together. -/
def preSum (x : LanePt) (n : Nat) : Nat := x.pre.foldl (fun (a : Nat) (p : Nat × Nat) => if p.1 < n then a + p.2 else a) 0

/-- The candidate search of one lane: zoom windows open and the holding queue is replayed (R276, R277, R294). -/
def candidates (r : RegFile) (e n : Nat) (bad badQueue : List Nat) (x : LanePt) : LanePt :=
  let m := phase1 r e n
  let w := binW r e
  let h := x.both bad
  let peaks := peakSearch r e (muOf r e (preSum x m) h) (rfRd r (.HIST_THR_CandLog e)) h
  let wins := peaks.map fun (b : Nat) => ((histBase r e + b * w + spanOf r e * w / 2 : Nat) : Int) - 2 * w
  let x := { x with wins := wins, searched := true, poison := x.poison || !bad.isEmpty }
  let x := x.queue.zipIdx.foldl (fun (x : LanePt) (q : (Nat × Int) × Nat) =>
    if badQueue.contains (q.2 / 2) then { x with loss := true } else countStop r e true q.1.1 q.1.2 x) x
  { x with queue := [] }

/-! Returns (R280 – R284) -/

/-- A return entry (R287). -/
structure Ret where
  range : Nat
  intensity : Nat
  width : Nat
  lane : Nat
  sig : Nat
  flags : Nat
deriving DecidableEq, Repr

/-- Refined position and width (R281): binary64 position, then the width. -/
def refine (net centre : Nat → Nat) (ks : List Nat) (mid q : Nat) : Nat × Nat :=
  let sn := ks.foldl (fun (a k : Nat) => dadd a (net k)) (dint 0)
  let pos := dlt (dint 0) sn
  let xb := if pos then ddiv (ks.foldl (fun (a k : Nat) => dadd a (dmul (net k) (centre k))) (dint 0)) sn else mid
  let var := if pos then
      ddiv (ks.foldl (fun (a k : Nat) => dadd a (dmul (dmul (net k) (dsub (centre k) xb)) (dsub (centre k) xb))) (dint 0)) sn
    else dint 0
  (xb, (min (dround (fsqrt fmt64 (dadd var q))) 65535).toNat)

/-- A count less a background, not below 0, binary64. -/
def netOf (k bg : Nat) : Nat :=
  let v := dsub (dint k) bg
  if dlt v (dint 0) then dint 0 else v

/-- One return of a lane's final search (R280 – R284). -/
def returnOf (r : RegFile) (e : Nat) (p : PointSt) (x : LanePt) (bad : List Nat) (mu : Nat) (sun : Bool) (b : Nat) : Ret :=
  let w := binW r e
  let span := spanOf r e
  let base := histBase r e
  let h := x.both bad
  let cs := spanCount h span b
  let midN := base + b * w + span * w / 2
  let mid := dint midN
  let m := phase1 r e p.n
  let zoom := x.wins.findIdx? fun (z : Int) => decide (z ≤ midN) && decide ((midN : Int) < z + 4 * w)
  let zc := fun (j k : Nat) => x.zoomBin bad j 0 k + x.zoomBin bad j 1 k
  let (xb, width) := match zoom with
    | some j =>
      let bg := ddiv (dmul mu (dint (p.n - m : Nat))) (dint (16 * p.n))
      let z := x.wins.getD j 0
      refine (fun (k : Nat) => netOf (zc j k) bg) (fun (k : Nat) => dint (z + ((k * (w / 16) + w / 32 : Nat) : Int))) (List.range 64) mid
        (ddiv (dint ((w / 16) * (w / 16))) (dint 12))
    | none =>
      let ks := (List.range (span + 2)).filterMap fun (i : Nat) =>
        if b + i = 0 ∨ 2048 < b + i then none else some (b + i - 1)
      refine (fun (k : Nat) => netOf (h k) mu) (fun (k : Nat) => dint (base + k * w + w / 2)) ks mid (ddiv (dint (w * w)) (dint 12))
  let edge := match zoom with
    | some j =>
      let big := (List.range 64).foldl (fun (a k : Nat) => if zc j a < zc j k then k else a) 0
      decide (big < 4) || decide (60 ≤ big)
    | none => false
  let off := rfRdS r (.HIST_LANE_LaneOffset x.lane) + rfRdS r (.HIST_OFF_PortOffset e)
  let raw := dround (dmul (dsub xb (dint off)) (ddec 18737028625 9))
  let range := (clampI 0 4294967295 raw).toNat
  let spanMu := dmul (dint span) mu
  let inten := (clampI 0 65535 (dround (ddiv (dmul (dint 256) (dsub (dint cs) spanMu)) (dint p.n)))).toNat
  let np := fun (c : Nat) => (p.shots.filter fun (q : Nat × Nat) => (p.shot0 + q.1) % 2 == c).length
  let rate := fun (c : Nat) =>
    ddiv (dsub (dint (spanCount (x.bins bad c) span b)) (ddiv (dmul spanMu (dint (np c))) (dint p.n))) (dint (np c))
  let r0 := rate 0
  let r1 := rate 1
  let (lo, hi) := if dlt r1 r0 then (r1, r0) else (r0, r1)
  let wide := rfRd r (.CLASS_CFG_WideLimit e)
  let pulsed := 1 ≤ np 0 && 1 ≤ np 1 && dlt lo (ddiv hi (dint 4))
  let smear := wide != 0 && decide (32 * wide < width) && decide (wide < 4 * rfRd r (.PORT_TIMING_DitherSpan e))
  let rr := rfRd r (.RAIN_RANGE_RainRange e)
  let rain := rr != 0 && decide (range < 1600 * rr) && decide (inten < rfRd r (.CLASS_CFG_RainInt e)) &&
    decide (32 * rfRd r (.CLASS_CFG_RainWidth e) < width)
  let sf := rfRd r (.HIST_THR_SatFrac e)
  let sat := sf != 0 && (List.range 2).any fun (c : Nat) =>
    1 ≤ np c && (List.range span).any fun (i : Nat) => decide (ceilDiv (np c * sf) 256 ≤ x.bins bad c (b + i))
  { range := range, intensity := inten, width := width, lane := x.lane % 16, sig := signifOf cs (spanMean span mu),
    flags := bnat (pulsed || smear) + 2 * bnat rain + 4 * bnat sat + 8 * bnat sun + 16 * bnat zoom.isSome + 32 * bnat edge +
      64 * bnat (decide (raw < 0)) + 128 * bnat x.blind + 256 * bnat x.loss }

/-- The returns of one lane of a point, by Range, its μ and its ambient rate (R280, R284). -/
def laneReturns (r : RegFile) (e : Nat) (p : PointSt) (x : LanePt) (bad : List Nat) : List Ret × Nat × Nat × Nat :=
  let h := x.both bad
  let pre := preSum x p.n
  let mu := muOf r e pre h
  let (an, ad) := ambientOf r e pre p.n h
  let sun := decide (ad ≤ an * 4 * rfRd r (.LANE_CFG_HoldOff x.lane) * 8)
  let rets := (peakSearch r e mu (rfRd r (.HIST_THR_FaLog e)) h).map (returnOf r e p x bad mu sun)
  (sortBy (fun (a b : Ret) => decide (a.range < b.range)) rets, mu, an, ad)

/-- Bytes of a return entry (R287). -/
def Ret.bytes (x : Ret) : List Byte :=
  le 4 x.range ++ le 2 x.intensity ++ le 2 x.width ++ le 1 x.lane ++ le 1 x.sig ++ le 2 x.flags

/-- The returns that the credit covers: highest Significance, then nearer Range (R285). -/
def keepBest (credit : Nat) (xs : List Ret) : List Ret :=
  let best := (sortBy (fun (a b : Ret) => decide (b.sig < a.sig) || (a.sig == b.sig && decide (a.range < b.range))) xs).take credit
  sortBy (fun (a b : Ret) => decide (a.range < b.range)) best

/-- Refill the return credit (R285). -/
def State.refill (s : State) : State :=
  let t := s.xu / 1280
  s.updCtl fun (c : EmtSt) => { c with credit := min 1000 (c.credit + (t - c.creditAt)), creditAt := t }

/-- What a lane gives to its port's record. -/
structure LaneOut where
  rets : List Ret
  lane : Nat
  cut : Bool
  mu : Nat
  an : Nat
  ad : Nat
  poison : Bool
deriving DecidableEq, Repr

/-- The final searches of the contributing lanes of a point, in lane order, under the return credit (R280, R285). -/
def finalGo (e : Nat) (p : PointSt) : List LanePt → State → State × List LaneOut
  | [], s => (s, [])
  | x :: xs, s =>
    let bad := s.badWords (bankBase x.lane x.bank) 1152
    let (rets, mu, an, ad) := laneReturns p.cfg e p x bad
    let c := s.ctl.credit
    let cut := decide (c < rets.length)
    let kept := if cut then keepBest c rets else rets
    let s := ((s.countPoison 2 bad.length).updCtl fun (k : EmtSt) => { k with credit := c - kept.length }).inc64 .PT_RETURNS_LO_Returns kept.length
    let s := if cut then s.inc .PT_CNT_A_Truncated 1 else s
    let (s, ys) := finalGo e p xs s
    (s, ⟨kept, x.lane, cut, mu, an, ad, x.poison || !bad.isEmpty⟩ :: ys)

/-- The crystal instant, ns, of a point's last shot. -/
def PointSt.endAt (p : PointSt) : Nat := (match p.shots.getLast? with | some q => q.2 | none => p.tL) / 128

/-- A mask of lane numbers within a receiver port. -/
def laneMask (ls : List Nat) : Nat := ls.foldl (fun (a l : Nat) => a + 2 ^ (l % 16)) 0

/-- The record of a point for one receiver port; a bad bank word of any of the point's lanes marks it POISONED (R286 – R288, R294); none when nothing belongs to it or an empty record is not emitted. -/
def State.pointRecord (s : State) (e : Nat) (p : PointSt) (outs : List LaneOut) (n : Nat) : Option (List Byte) :=
  let mine := p.lanes.filter fun (x : LanePt) => x.lane / 16 == n
  let without := p.noBank.filter fun (l : Nat) => l / 16 == n
  if mine.isEmpty && without.isEmpty then none
  else
    let poison := outs.any fun (o : LaneOut) => o.poison
    let outs := outs.filter fun (o : LaneOut) => o.lane / 16 == n
    let rets := outs.flatMap fun (o : LaneOut) => o.rets
    let degrade := laneMask without + laneMask ((mine.filter fun (x : LanePt) => x.blind || x.loss).map fun (x : LanePt) => x.lane)
    if rets.isEmpty && degrade == 0 && rfRd p.cfg (.HIST_CFG_EmitEmpty e) == 0 then none
    else
      let flags := s.timeFlags (p.tL / 128) p.endAt + bnat p.supply * 2 ^ 2 + bnat (mine.any fun (x : LanePt) => x.step) * 2 ^ 7 +
        bnat poison * 2 ^ 8 + bnat p.exposure * 2 ^ 11 + bnat (outs.any fun (o : LaneOut) => o.cut) * 2 ^ 12
      let amb := if rfRd p.cfg (.HIST_CFG_AmbArray e) = 1 then
          outs.flatMap fun (o : LaneOut) => le 2 (satN 16 (roundDiv (o.an * 256000) o.ad).toNat)
        else []
      some (mkRecord 0x0301 p.epoch flags p.dev
        (le 1 e ++ le 1 n ++ le 1 p.n ++ le 1 rets.length ++ le 4 p.frame ++ le 2 p.line ++ le 2 p.pass ++ le 2 p.angle ++
          le 2 (laneMask (mine.map fun (x : LanePt) => x.lane)) ++ le 2 p.mask ++ le 2 degrade ++ le 4 p.shot0 ++ le 4 p.seq ++ zeros 4 ++
          rets.flatMap Ret.bytes ++ amb))

/-- The dump records of a lane's bank (R289). DESIGN CHOICE, unsafe: log 100. -/
def State.dumpRecords (s : State) (e : Nat) (p : PointSt) (x : LanePt) (o : LaneOut) : List (List Byte) :=
  let m := phase1 p.cfg e p.n
  let mu := satN 32 (dround (dmul o.mu (dint 65536))).toNat
  let head := fun (type part : Nat) (zs : List Byte) (counts : List Byte) =>
    mkRecord type p.epoch (s.timeFlags (p.tL / 128) p.endAt + bnat p.supply * 2 ^ 2 + bnat x.step * 2 ^ 7 + bnat o.poison * 2 ^ 8 + bnat p.exposure * 2 ^ 11) p.dev
      (le 1 x.lane ++ le 1 part ++ le 1 p.n ++ le 1 m ++ le 4 p.seq ++ le 4 mu ++ le 4 (preSum x p.n) ++ zs ++ counts)
  let coarse := (List.range 8).map fun (k : Nat) =>
    head 0x0302 k (zeros 16)
      ((List.range 512).flatMap fun (b : Nat) => le 2 (spGet (fun _ => 0) x.coarse (2048 * (k / 4) + 512 * (k % 4) + b)))
  let zoom := if rfRd p.cfg .DUMP_CTRL_Zoom = 1 ∧ m < p.n then
      [head 0x0303 x.wins.length ((List.range 4).flatMap fun (j : Nat) => leS 4 (x.wins.getD j 0))
        ((List.range 512).flatMap fun (k : Nat) => le 2 (spGet (fun _ => 0) x.zoom k))]
    else []
  coarse ++ zoom

/-- A point's dump, if it is due (R289). -/
def State.dumpPoint (s : State) (e : Nat) (p : PointSt) (outs : List LaneOut) : State :=
  if rfRd p.cfg .DUMP_CTRL_Enable = 0 then s
  else
    let l := rfRd p.cfg .DUMP_CTRL_Lane
    match p.lanes.find? (fun (x : LanePt) => x.lane == l), outs.find? (fun (o : LaneOut) => o.lane == l) with
    | some x, some o =>
      let every := max 1 (rfRd p.cfg .DUMP_CTRL_Every)
      let hit := (s.ctl.dumps + 1) % every == 0
      let s := s.updCtl fun (c : EmtSt) => { c with dumps := if hit then 0 else c.dumps + 1 }
      if hit then (s.dumpRecords e p x o).foldl (fun (s : State) (b : List Byte) => s.offer 6 b) s else s
    | _, _ => s

/-- The records of a point: every receiver port in increasing n (R286). -/
def State.emitPoint (s : State) (e : Nat) (p : PointSt) : State :=
  let (s, outs) := finalGo e p p.lanes s.refill
  let s := s.dumpPoint e p outs
  (List.range 16).foldl (fun (s : State) (n : Nat) =>
    match s.pointRecord e p outs n with
    | some b => s.offer 5 b
    | none => s) s

/-! Commands -/

/-- The acceptance window of a fired shot has closed for a lane (R218). -/
def State.winClosed (s : State) (r : RegFile) (l tp : Nat) : Bool := s.dueU (tp + 128 * rfRd r (.LANE_WIN_Close l))

/-- The t_p of shot s of a point, if it has fired. -/
def PointSt.shotAt (p : PointSt) (k : Nat) : Option Nat := (p.shots.find? fun (q : Nat × Nat) => q.1 == k).map fun (q : Nat × Nat) => q.2

/-- Shots of a port up to s of a point are past their start searches. -/
def State.startsKnown (s : State) (e : Fin 8) (seq k : Nat) : Bool :=
  (s.ep e).shots.all fun (h : EShot) => h.point != some seq || decide (k < h.s) || h.searched

/-- The candidate searches of a point that are due (R276). -/
def State.searchPoint (s : State) (e : Fin 8) (p : PointSt) : PointSt :=
  let m := phase1 p.cfg e p.n
  match p.shotAt (m - 1) with
  | none => p
  | some tp =>
    let one := fun (x : LanePt) =>
      if x.searched || !s.winClosed p.cfg x.lane tp then x
      else candidates p.cfg e p.n (s.badWords (bankBase x.lane x.bank) 1152) (s.badWords (589824 + 256 * x.lane) 256) x
    if p.n ≤ m || !s.startsKnown e p.seq (m - 1) then p else { p with lanes := p.lanes.map one }

/-- Poisoned words that the candidate searches of a point which are due read (R294, R360). -/
def State.searchBad (s : State) (e : Fin 8) (p : PointSt) : Nat :=
  let q := s.searchPoint e p
  (p.lanes.zip q.lanes).foldl (fun (a : Nat) (x : LanePt × LanePt) =>
    if !x.1.searched && x.2.searched then
      a + (s.badWords (bankBase x.1.lane x.1.bank) 1152).length + (s.badWords (589824 + 256 * x.1.lane) 256).length
    else a) 0

/-- CANDIDATE_SEARCH: every lane of the port whose window of shot M − 1 has closed searches its phase-1 counts (R276). -/
def execCandidateSearch (e : Fin 8) (s : State) : Out :=
  let n := (s.ep e).points.foldl (fun (a : Nat) (p : PointSt) => a + s.searchBad e p) 0
  .next ((s.updE e fun (q : EPort) => { q with points := q.points.map (s.searchPoint e) }).countPoison 2 n)

/-- The last acceptance window of a point has closed (R292). -/
def State.windowsClosed (s : State) (p : PointSt) : Bool :=
  match p.shotAt (p.n - 1) with
  | none => false
  | some tp => p.lanes.all fun (x : LanePt) => s.winClosed p.cfg x.lane tp

/-- A point is complete: every shot fired and searched, every window closed, every candidate search done (R280). -/
def State.pointClosed (s : State) (e : Fin 8) (p : PointSt) : Bool :=
  s.windowsClosed p && (p.lanes.all fun (x : LanePt) => x.searched || decide (p.n ≤ phase1 p.cfg e p.n)) && s.startsKnown e p.seq (p.n - 1)

/-- FINAL_SEARCH: the port's oldest point is searched, its records leave and its banks are free (R280, R286, R289). A lane on which test pulses
run now was blind since they began (R222). -/
def execFinalSearch (e : Fin 8) (s : State) : Out :=
  match (s.ep e).points with
  | [] => .next s
  | p :: rest =>
    let dark := fun (x : LanePt) => match (s.lane x.lane).pulse with | some a => p.overlaps x.lane a s.xu | none => false
    let q := { p with lanes := p.lanes.map fun (x : LanePt) => { x with blind := x.blind || dark x } }
    if s.pointClosed e p then .next ((s.updE e fun (q : EPort) => { q with points := rest }).emitPoint e q) else .next s

/-- Points that are discarded, counted in PT_CNT_B.Abandoned (R292, R293). -/
def State.abandon (s : State) (e : Fin 8) (keep : PointSt → Bool) : State :=
  let n := ((s.ep e).points.filter fun (p : PointSt) => !keep p).length
  (s.updE e fun (q : EPort) => { q with points := q.points.filter keep }).inc .PT_CNT_B_Abandoned n

/-- What a write of PT_CLEAR does. -/
def State.clearPoints (s : State) : State :=
  let s := ((s.wr .PT_CNT_A_NoBank 0).wr .PT_CNT_A_Truncated 0).wr .PT_CNT_B_Abandoned 0
  (List.range 256).foldl (fun (s : State) (l : Nat) => (s.wr (.HIST_LANE_CNT_OutOfHist l) 0).wr (.HIST_LANE_CNT_NoBank l) 0) s

end Sys2Proof.Machine
end

