-- ==== Sys2Proof/Machine/Blanking.lean ====
section
/-! DEFINITION. The frame blankings: when they begin and end, how long they last, and the lanes that are blind in them for the internal
test pulses (R222, R247 – R249, R524). -/
namespace Sys2Proof.Machine

/-- Start of a line in its half-period or period, LSB 2^-24 ns of the lane timescale. -/
def ScanLine.begins (x : ScanLine) : Int :=
  if x.linear then x.tk + x.p24 * x.q else x.tk + tdiv ((x.p24 : Int) * ((2 * x.q - 1) * 65536 - 4 * x.phase)) 262144

/-- Λ at a crystal instant, LSB 2^-24 ns. -/
def State.lam24 (s : State) (x : Nat) : Int := asr (s.lamAt x) 24
/-- The crystal instant of a value of Λ with LSB 2^-24 ns. -/
def State.xuOf24 (s : State) (v : Int) : Nat := s.xuOfLam (v * 2 ^ 24)

/-! Blankings (R247) -/

/-- The crystal instant of a device time, ns, 1/128 ns. -/
def State.xuOfDev (s : State) (d : Nat) : Nat := s.xuOfLam ((d : Int) * 2 ^ 48 - s.time.sig48)

/-- The next frame sync, where it is known. -/
def State.nextSync (s : State) : Option Nat :=
  let src := s.rd .EMT_CTRL_FrameSrc
  if src = 2 then
    let n := s.rd .EMT_FRAME_PERIOD_Time * 1000
    let ph := s.rd .EMT_FRAME_PHASE_Time * 1000
    if n = 0 then none else some (s.xuOfDev (((s.now + n - ph) / n) * n + ph))
  else if src = 3 then s.ctl.syncs.find? fun (t : Nat) => !s.dueU t
  else
    let k := fin 1 src
    let c := s.lidar.scans.get k
    match c.next with
    | none => none
    | some x =>
      let div := max 1 (s.rd (.SCAN_DRV_FrameDiv k))
      let per := if x.linear || s.rd (.SCAN_CTRL_Halves k) != 3 then x.p24 else x.p24 / 2
      some (s.xuOf24 (x.begins + (((div - c.lines % div) % div * per : Nat) : Int)))

/-- Blanking of at least `total` in which `rest` still fits, 1/128 ns; where its end is not known in advance, once `total` of it has passed.
DESIGN CHOICE, unsafe: log 65. -/
def State.blankingFits (s : State) (total rest : Nat) : Bool :=
  !s.on .EMT_STATUS_InFrame && decide (s.ctl.blankFrom ≤ s.xu) &&
    match s.nextSync with
    | some t => decide (s.ctl.blankFrom + total ≤ t) && decide (s.xu + rest ≤ t)
    | none => decide (s.ctl.blankFrom + total ≤ s.xu)

/-! Blind intervals (R222) -/

/-- A lane is blind from a to b: shots whose windows overlap carry BLIND, and the hold-off restarts at the end (R222). -/
def State.blindLane (s : State) (l a b : Nat) : State :=
  (s.updLane l fun (y : LaneSt) => { y with blind := some (a, b), hold := some b }).markBlind l a b

/-- A lane's bin-width table steps at an instant: points with a shot in flight carry CAL_STEP (R51, R213). -/
def State.stepTable (s : State) (l at_ : Nat) : State :=
  let s := s.updLane l fun (y : LaneSt) => { y with stepAt := some at_ }
  (List.finRange 8).foldl (fun (s : State) (e : Fin 8) =>
    s.updE e fun (q : EPort) =>
      { q with points := q.points.map fun (p : PointSt) =>
          let fly := p.shots.any fun (h : Nat × Nat) => decide (h.2 ≤ at_) && decide (at_ < h.2 + 128 * rfRd p.cfg (.LANE_WIN_Close l))
          { p with lanes := p.lanes.map fun (x : LanePt) => if x.lane == l then { x with step := x.step || fly } else x } }) s

/-- A lane is in a blind interval now: LANE_TRIM.Blind. -/
def State.laneBlind (s : State) (l : Nat) : Bool :=
  match (s.lane l).blind with
  | some (a, b) => decide (a ≤ s.xu) && decide (s.xu < b)
  | none => false

/-! Internal test pulses (R524) -/

/-- The lane's source is the internal pulses (R524). -/
def State.internalSrc (s : State) (y : LaneSt) : Bool :=
  s.rd .CAL_CFG_TdcSrc == 1 || (s.rd .CAL_CFG_TdcSrc == 2 && y.inner)

/-- The internal pulse source drives a lane from an instant of a blanking of at least 10 µs on: the lane is blind (R222, R524). DESIGN CHOICE, unsafe: log 65. -/
def State.beginPulse (s : State) (l at_ : Nat) : State :=
  let y := s.lane l
  if y.tdc.due && y.ready.isNone && y.pulse.isNone && y.trim.isNone && s.internalSrc y && s.locked 3 && s.blankingFits 1280000 0 then
    s.updLane l fun (y : LaneSt) => { y with pulse := some at_, blind := some (at_, 2 ^ 80) }
  else s

/-- The pulses of a lane end: they gave an edge every 5 ns, and the hold-off restarts (R222, R524). -/
def State.endPulse (s : State) (l t : Nat) : State :=
  match (s.lane l).pulse with
  | none => s
  | some a =>
    let s := s.updLane l fun (y : LaneSt) => { y with pulse := none, count := min (2 ^ 18) (y.count + (t - a) / 640), blind := some (a, t) }
    if a < t then (s.updLane l fun (y : LaneSt) => { y with hold := some t }).markBlind l a t else s

/-- The pulses of every lane end. -/
def State.endPulses (s : State) (t : Nat) : State :=
  s.lidar.lanes.foldl (fun (s : State) (q : Nat × LaneSt) => s.endPulse q.1 t) s

/-- A blanking begins (R247). -/
def State.beginBlanking (s : State) (at_ : Nat) : State :=
  let s := s.updCtl fun (c : EmtSt) => { c with blankFrom := at_, blankNo := c.blankNo + 1 }
  s.lidar.lanes.foldl (fun (s : State) (q : Nat × LaneSt) => s.beginPulse q.1 at_) s

/-- The running frame ends at a frame sync, with a blanking of zero (R248). -/
def State.endFrameNow (s : State) (at_ : Nat) : State :=
  if s.on .EMT_STATUS_InFrame then
    (s.wr .EMT_STATUS_InFrame 0).updCtl fun (c : EmtSt) => { c with blankFrom := at_, blankNo := c.blankNo + 1 }
  else s

/-- The running frame ends and blanking begins (R247 – R249). -/
def State.endFrame (s : State) (at_ : Nat) : State :=
  if s.on .EMT_STATUS_InFrame then (s.wr .EMT_STATUS_InFrame 0).beginBlanking at_ else s

end Sys2Proof.Machine
end

