-- ==== Sys2Proof/Machine/Das.lean ====
section
/-! DEFINITION. DAS products, fibre health and event capture of a fibre port (R148 – R176). -/
namespace Sys2Proof.Machine

/-- Update the product unit of a port. -/
def State.updDas (s : State) (p : Fin 4) (f : DasSt → DasSt) : State :=
  s.updPort p fun (q : PortSt) => { q with das := f q.das }
/-- The product unit of a port. -/
def State.dasOf (s : State) (p : Fin 4) : DasSt := (s.ports.get p).das
/-- Update a position range. -/
def State.updRange (s : State) (p : Fin 4) (r : Fin 16) (f : RangeSt → RangeSt) : State :=
  s.updDas p fun (d : DasSt) => { d with ranges := vupd d.ranges r f }
/-- A position range. -/
def State.rangeOf (s : State) (p : Fin 4) (r : Fin 16) : RangeSt := (s.dasOf p).ranges.get r
/-- Update the event capture. -/
def State.updEv (s : State) (p : Fin 4) (f : EvCapSt → EvCapSt) : State :=
  s.updDas p fun (d : DasSt) => { d with cap := f d.cap }
/-- The event capture of a port. -/
def State.evOf (s : State) (p : Fin 4) : EvCapSt := (s.dasOf p).cap

/-! Event capture (R170 – R173). The history of a port lies in its buffer in the capture region (R354); a set is held by its place there. -/

/-- Requester code of a port's units (R362). -/
def reqPort (p : Nat) : Nat := 0x10 + p

/-- Bytes of a set. -/
def setBytes (c : CapSet) : Nat := c.lens.foldl (fun (n l : Nat) => n + l) 0

/-- A set is selected by the capture under way. -/
def EvCapSt.selects (e : EvCapSt) (c : CapSet) : Bool :=
  decide (e.from_ ≤ c.time) && decide (c.time < e.endAt) &&
    (match e.firstT with | some f => decide (c.time < f + 60000000000) | none => true)

/-- The bytes that a history takes from its oldest set on. -/
def histUsed (cs : List CapSet) : Nat := cs.foldl (fun (n : Nat) (x : CapSet) => n + setBytes x) 0

/-- Drop the oldest sets until the history leaves room in its buffer; selected ones count as lost (R170, R172). -/
def trimHistory (room : Nat) (busy : Bool) : List CapSet → EvCapSt → EvCapSt
  | [], e => { e with history := [] }
  | c :: cs, e =>
    if histUsed (c :: cs) ≤ room then { e with history := c :: cs }
    else trimHistory room busy cs { e with lost := e.lost + bnat (busy && e.selects c) }

/-- A port's history buffer: the buffers lie one after the other in port order, and each is halved in single-channel mode (R170, R354).
DESIGN CHOICE, unsafe: log 107 (their order). -/
def State.histArea (s : State) (p : Fin 4) : Area :=
  let d := if s.memMode = 0 then 1 else 2
  { sram := none, base := s.regionBase 2 + (s.evOf p).base * 1048576 / d, size := (s.evOf p).size * 1048576 / d }

/-- Write records into the history buffer of a port from its head on. -/
def State.histWrite (s : State) (p : Fin 4) (recs : List (List Byte)) : State :=
  recs.foldl (fun (s : State) (b : List Byte) =>
    (s.areaWrite (reqPort p) (s.histArea p) (s.evOf p).head b).updEv p fun (e : EvCapSt) => { e with head := e.head + b.length }) s

/-- Enter a phase-rate set in the history; a capture that is selecting takes it (R170, R172). Sets entered under another CapRange stay, and are selected
like the others. DESIGN CHOICE, unsafe: log 130. -/
def State.capPush (s : State) (p : Fin 4) (time inst : Nat) (recs : List (List Byte)) : State :=
  let st := s.rd (.CAPEV_STATUS_State p)
  let size := (s.histArea p).size
  let c : CapSet := { time := time, at_ := (s.evOf p).head, lens := (recs.map fun (b : List Byte) => b.length), inst := inst }
  let s := s.updEv p fun (e : EvCapSt) =>
    let e := if st = 1 ∧ e.firstT.isNone ∧ e.selects c then { e with firstT := some c.time, firstX := c.inst } else e
    let e := if st = 1 ∧ e.selects c then { e with lastT := c.time, lastX := c.inst } else e
    trimHistory (size - setBytes c) (st != 0) e.history e
  if size < setBytes c then s.updEv p fun (e : EvCapSt) => { e with lost := e.lost + bnat (st != 0 && e.selects c) }
  else (s.histWrite p recs).updEv p fun (e : EvCapSt) => { e with history := e.history ++ [c] }

/-- The bytes of a set's records, from byte `at_` of the history on, and whether each held a bad word; what the reads leave (R30). -/
def histRead (p : Fin 4) : Nat → List Nat → State → List (List Byte × Bool) × State
  | _, [], s => ([], s)
  | at_, n :: ns, s =>
    let (r, s) := s.areaLoad (reqPort p) (s.histArea p) at_ n
    let (rs, s) := histRead p (at_ + n) ns s
    (r :: rs, s)

/-- At T_c the history buffers take the places and sizes of the new configuration; a history that moves is carried along, its oldest sets first to go
(R170). DESIGN CHOICE, unsafe: log 107. -/
def State.layHistories (s : State) (new : RegFile) : State :=
  let size := fun (p : Nat) => rfRd new (.CAPEV_BUF_CapBuf p)
  let base := fun (p : Nat) => (List.range p).foldl (fun (a q : Nat) => a + size q) 0
  let moves := (List.finRange 4).filter fun (p : Fin 4) => (s.evOf p).base != base p || (s.evOf p).size != size p
  let d := if s.memMode = 0 then 1 else 2
  let s := moves.foldl (fun (s : State) (p : Fin 4) => s.updEv p fun (e : EvCapSt) =>
    trimHistory (if s.memMode = 3 then 0 else size p * 1048576 / d) (s.rd (.CAPEV_STATUS_State p) != 0) e.history e) s
  let held := moves.map fun (p : Fin 4) => (s.evOf p).history.map fun (c : CapSet) =>
    (c, readWords s (reqPort p) (s.areaLoc (s.histArea p)), c.at_ / 8)
  let data := held.map fun (h : List (CapSet × (Nat → Nat → List Byte × Bool) × Nat)) =>
    h.map fun (x : CapSet × (Nat → Nat → List Byte × Bool) × Nat) =>
      (List.range (setBytes x.1 / 8)).map fun (k : Nat) => x.2.1 1 (x.2.2 + k)
  (moves.zip data).foldl (fun (s : State) (m : Fin 4 × List (List (List Byte × Bool))) =>
    let p := m.1
    let s := s.updEv p fun (e : EvCapSt) => { e with base := base p, size := size p, head := 0 }
    let s := m.2.flatten.foldl (fun (s : State) (w : List Byte × Bool) =>
      (s.setWord (s.areaLoc (s.histArea p) ((s.evOf p).head / 8)) (leNat w.1) w.2).updEv p fun (e : EvCapSt) => { e with head := e.head + 8 }) s
    s.updEv p fun (e : EvCapSt) => { e with history := (e.history.foldl (fun (a : List CapSet × Nat) (c : CapSet) =>
      (a.1 ++ [{ c with at_ := a.2 }], a.2 + setBytes c)) ([], 0)).1 }) s

/-- A trigger of event capture (R171, R172): cause 1 write, 2 band energy, 3 break. DESIGN CHOICE, unsafe: log 46. -/
def State.capTrigger (s : State) (p : Fin 4) (t cause : Nat) : State :=
  if !s.on (.CAPEV_CTRL_Enable p) || s.memMode == 3 then s
  else
    let pre := s.rd (.CAPEV_TIME_Pre p) * 1000000
    let post := s.rd (.CAPEV_TIME_Post p) * 1000000
    match s.rd (.CAPEV_STATUS_State p) with
    | 0 =>
      let e := s.evOf p
      let from_ := max (t - pre) (match e.done with | some d => d + 1 | none => 0)
      let e := { e with from_ := from_, trig := t, cause := cause, endAt := t + post, retrig := 0, lost := 0, firstT := none,
                        lastT := 0, ending := 0, seq := e.seq + 1 }
      let sel := e.history.filter fun (c : CapSet) => e.selects c
      let e := match sel with
        | c :: _ => { e with firstT := some c.time, firstX := c.inst }
        | [] => e
      let e := match (e.history.filter fun (c : CapSet) => e.selects c).getLast? with
        | some c => { e with lastT := c.time, lastX := c.inst }
        | none => e
      ((s.updEv p fun _ => e).wr (.CAPEV_STATUS_State p) 1).wr (.CAPEV_STATUS_Seq p) (e.seq - 1)
    | 1 => s.updEv p fun (e : EvCapSt) => { e with endAt := max e.endAt (t + post), retrig := e.retrig + 1 }
    | _ => s.updEv p fun (e : EvCapSt) => { e with waiting := e.waiting ++ [(t, cause)] }

/-- EVENT_CAPTURE_TRIGGER: CAPEV_CTRL.Trigger is written (R171). -/
def State.capWrite (s : State) (p : Fin 4) (data : Nat) : State := if bit data 1 then s.capTrigger p s.now 1 else s

/-- Every sample with an Instant before `t` has reached the product unit. -/
def State.deliveredTo (s : State) (p : Fin 4) (t : Nat) : Bool :=
  let q := s.ports.get p
  let c := q.chain
  decide (t ≤ s.now) && q.probe.launches.all (fun (l : Nat × Nat × Nat) => decide (t ≤ s.devAt l.2.2)) &&
    q.wins.all (fun (w : ToneWin) => w.dead || decide (t ≤ w.instant)) && c.queue.all (fun (w : SlotWin) => decide (t ≤ w.instant)) &&
    c.items.all (fun (i : Item) => decide (t ≤ i.instant)) &&
    c.held.all fun (h : Nat × Option Item) => match h.2 with | some i => decide (t ≤ i.instant) | none => true

/-- The end of the selection and its End code (R172, R173). -/
def EvCapSt.close (e : EvCapSt) : Nat × Nat :=
  match e.firstT with
  | some f => if f + 60000000000 < e.endAt then (f + 60000000000, 1) else (e.endAt, 0)
  | none => (e.endAt, 0)

/-- CAPTURE_SELECTION_END: t_trig + Post, or 60 s after the first selected set (R172). -/
def execCaptureSelectionEnd (p : Fin 4) (s : State) : Out :=
  if !s.locked 1 then .next s else
  let (t, code) := (s.evOf p).close
  if s.rd (.CAPEV_STATUS_State p) = 1 ∧ s.deliveredTo p t then
    .next ((s.updEv p fun (e : EvCapSt) => { e with endAt := t, ending := code }).wr (.CAPEV_STATUS_State p) 2)
  else .next s

/-- ABORT of a port ends its capture after the sets already selected (R172). -/
def State.capEnd (s : State) (p : Fin 4) : State :=
  if s.rd (.CAPEV_STATUS_State p) = 1 then
    (s.updEv p fun (e : EvCapSt) => { e with ending := 2, endAt := if e.firstT.isSome then e.lastT + 1 else e.from_ }).wr
      (.CAPEV_STATUS_State p) 2
  else s

/-- A 0x0101 record as type 0x0701; `bad` says that it was read with an uncorrectable word (R30, R173). -/
def asCapture (seq : Nat) (trig bad : Bool) (b : List Byte) : List Byte :=
  le 2 0x0701 ++ slice b 2 4 ++ le 2 (leAt b 6 2 % 2 ^ 15 + bnat trig * 2 ^ 15 ||| bnat bad * 2 ^ 8) ++ slice b 8 18 ++ le 2 seq ++ b.drop 28

/-- CAPTURE_READOUT_DONE: the selected sets leave on ring 10 and the 0x0702 summary follows (R170 – R173). -/
def execCaptureReadoutDone (p : Fin 4) (s : State) : Out :=
  if !s.locked 1 then .next s else
  if s.rd (.CAPEV_STATUS_State p) ≠ 2 ∨ (s.memMode ≠ 3 ∧ s.dramOpen = false) then .next s
  else
    let e := s.evOf p
    let seq := (e.seq - 1) % 65536
    let sel := e.history.filter fun (c : CapSet) => e.selects c
    let (recs, s) := sel.foldl (fun (a : List (Nat × List Byte × Bool) × State) (c : CapSet) =>
      let (bs, s) := histRead p c.at_ c.lens a.2
      (a.1 ++ bs.map fun (b : List Byte × Bool) => (c.time, b), s)) ([], s)
    let mark := recs.findIdx? fun (x : Nat × List Byte × Bool) => decide (e.trig ≤ x.1)
    let s := recs.zipIdx.foldl (fun (s : State) (x : (Nat × List Byte × Bool) × Nat) =>
      s.offer 10 (asCapture seq (mark == some x.2) x.1.2.2 x.1.2.1)) s
    let x0 := if e.firstT.isSome then e.firstX else s.xt
    let flags := s.supplyFlag x0 (max x0 e.lastX) ||| s.timeFlags x0 (max x0 e.lastX)
    let s := s.offer 10 (mkRecord 0x0702 s.curEpoch flags e.trig
      (le 1 p ++ le 1 e.cause ++ le 2 seq ++ le 4 recs.length ++ le 4 (satN 32 e.lost) ++ le 2 (satN 16 e.retrig) ++ le 1 e.ending ++
        zeros 1 ++ le 8 (e.firstT.getD 0) ++ le 8 e.lastT))
    let last := match sel.getLast? with | some c => some c.time | none => e.done
    let s := (s.updEv p fun (e : EvCapSt) =>
      { e with done := last, waiting := [], history := match last with
          | some t => e.history.filter fun (c : CapSet) => decide (t < c.time)
          | none => e.history }).wr (.CAPEV_STATUS_State p) 0
    .next (e.waiting.foldl (fun (s : State) (w : Nat × Nat) => s.capTrigger p w.1 w.2) s)

/-! Records of family 0x01 (R161 – R163, R168) -/

/-- Flags of R162 from the marks of R144. -/
def markFlags (m : Nat) : Nat :=
  bnat (bit m 0) * 2 ^ 12 + bnat (bit m 1) * 2 ^ 13 + bnat (bit m 2) * 2 + bnat (bit m 3) * 2 ^ 6 + bnat (bit m 4) +
    bnat (bit m 5) * 2 ^ 11 + bnat (bit m 6) * 2 ^ 3 + bnat (bit m 7) * 2 ^ 8 + bnat (bit m 8) * 2 ^ 7

/-- The map bit of an output position (R163). -/
def mapBit (m : Nat) : Bool := Nat.land m (mkFaded + mkSingle + mkClip + mkCold + mkRestart) != 0

/-- Bytes of a bit map, first bit lowest. -/
def mapBytes (bs : List Bool) : List Byte :=
  (List.range (ceilDiv bs.length 8)).map fun (k : Nat) =>
    BitVec.ofNat 8 ((List.range 8).foldl (fun (v : Nat) (i : Nat) => v + bnat (bs.getD (8 * k + i) false) * 2 ^ i) 0)

/-- Scale a component by the record exponent (R160). -/
def scaleBy (e : Nat) (v : Int) : Int := if e = 0 then v else asr (v + 2 ^ (e - 1)) e

/-- The smallest exponent, from `e` on, with which every component fits (R160). -/
def fitExp (vs : List Int) : Nat → Nat → Nat
  | 0, e => e
  | k + 1, e =>
    if vs.all fun (v : Int) => decide (-32768 ≤ scaleBy e v ∧ scaleBy e v ≤ 32767) then e else fitExp vs k (e + 1)

/-- What the records of one set share. -/
structure SetHead where
  type : Nat
  epoch : Nat
  time : Nat
  inst : Nat       -- instant of the last sample
  slot : Nat
  param : Nat
  seq : Nat
  flags : Nat
deriving DecidableEq, Repr

/-- The records of a set, in increasing position order (R149, R161). Of k above 65,535 Param holds the low 16 bits. Param of a phase-rate record counts the positions whose map bit would be set, whether or
not the record carries a map. DESIGN CHOICE, unsafe: log 113. -/
def setRecords (r : RegFile) (p rg : Nat) (e : Option Nat) (h : SetHead) : Nat → Nat → List (List Int) → List Nat → List (List Byte)
  | 0, _, _, _ => []
  | k + 1, j0, vs, ms =>
    if vs.isEmpty then []
    else
      let n := max 1 (rfRd r (.RANGE_CFG_RecPos p rg))
      let dsp := rfRd r (.RANGE_CFG_Dsp p rg)
      let v := vs.take n
      let m := ms.take n
      let mapped := rfRd r (.RANGE_CFG_MarkMap p rg) == 1 && decide (h.type = 0x0101 ∨ h.type = 0x0102)
      let bits := m.map mapBit
      let start := rfRd r (.RANGE_START_Start p rg)
      let beyond := match e with
        | some e => decide (e + 2 < start + (j0 + v.length) * dsp - 1)
        | none => false
      let flags := h.flags ||| markFlags (m.foldl Nat.lor 0) ||| bnat mapped * 2 ^ 14 ||| bnat beyond * 2 ^ 5
      let ex := fitExp v.flatten 48 0
      let param := if h.type = 0x0101 then (bits.filter fun b => b).length else if h.type = 0x0104 then ex else h.param
      let body := if h.type = 0x0104 then v.flatten.flatMap fun (x : Int) => leS 2 (satS 16 (scaleBy ex x))
        else v.flatten.flatMap fun (x : Int) => leS 2 x
      mkRecord h.type h.epoch flags h.time
        (le 1 p ++ le 1 rg ++ le 1 h.slot ++ le 1 dsp ++ le 4 (start + j0 * dsp) ++ le 2 v.length ++ le 2 param ++ le 4 h.seq ++
          body ++ (if mapped then mapBytes bits else [])) ::
        setRecords r p rg e h k (j0 + n) (vs.drop n) (ms.drop n)

/-- Emit a set into the port's ring; a phase-rate set of the captured range also enters the history (R149, R170). -/
def State.emitSet (s : State) (p : Fin 4) (rg : Nat) (cfg : RegFile) (h : SetHead) (vs : List (List Int)) (ms : List Nat) : State :=
  let e := if s.on (.END_STATUS_Valid p) then some (s.rd (.END_STATUS_End p)) else none
  let recs := setRecords cfg p rg e h vs.length 0 vs ms
  let s := recs.foldl (fun (s : State) (b : List Byte) => s.offer (fin 15 p) b) s
  if h.type = 0x0101 ∧ rfRd cfg (.CAPEV_CTRL_Enable p) = 1 ∧ rfRd cfg (.CAPEV_CTRL_CapRange p) = rg ∧ s.memMode ≠ 3 then
    s.capPush p h.time h.inst recs
  else s

/-! Product state (R174) -/

/-- Bytes of an output position in the product-state area (R174). -/
def fltSize (product : Nat) : Nat := if product = 2 then 192 else 64

/-- Filter state of a position after a restart (R156). -/
def fltClear : FltPos := ⟨0, 0, List.replicate 16 0, List.replicate 16 0, List.replicate 4 (0, 0, 0, 0), List.replicate 4 0, 0⟩

/-- The words of an output position: box, the marks of the box, hist, 9 mark bits of each box behind hist; for a band range also x1, x2, y1 and y2 of each
band, the sums and their marks. DESIGN CHOICE, unsafe: log 107. -/
def fltBytes (product : Nat) (f : FltPos) : List Byte :=
  let marks := f.histMarks.zipIdx.foldl (fun (a : Nat) (m : Nat × Nat) => a + m.1 % 512 * 2 ^ (9 * m.2)) 0
  leS 8 f.box ++ le 2 f.boxMarks ++ f.hist.flatMap (fun (x : Int) => leS 2 x) ++ le 18 marks ++ zeros 4 ++
    (if product = 2 then
      f.bands.flatMap (fun (b : Int × Int × Int × Int) => leS 4 b.1 ++ leS 4 b.2.1 ++ leS 4 b.2.2.1 ++ leS 4 b.2.2.2) ++
        f.sums.flatMap (fun (x : Nat) => le 8 x) ++ le 2 f.sumMarks ++ zeros 30
    else [])

/-- Read the words of an output position. -/
def fltOf (product : Nat) (bs : List Byte) : FltPos :=
  let marks := leAt bs 42 18
  { box := toS 64 (leAt bs 0 8), boxMarks := leAt bs 8 2, hist := (List.range 16).map fun (k : Nat) => toS 16 (leAt bs (10 + 2 * k) 2),
    histMarks := (List.range 16).map fun (k : Nat) => marks / 2 ^ (9 * k) % 512,
    bands := if product = 2 then (List.range 4).map fun (b : Nat) =>
        let w := fun (i : Nat) => toS 32 (leAt bs (64 + 16 * b + 4 * i) 4)
        (w 0, w 1, w 2, w 3)
      else fltClear.bands,
    sums := if product = 2 then (List.range 4).map fun (b : Nat) => leAt bs (128 + 8 * b) 8 else fltClear.sums,
    sumMarks := if product = 2 then leAt bs 160 2 else 0 }

/-- System address of the words of an output position of a range (R174). -/
def State.fltAddr (s : State) (p : Fin 4) (rg : Fin 16) (product j : Nat) : Nat :=
  s.regionBase 0 + 2 ^ 24 * p + (s.rangeOf p rg).base + fltSize product * j

/-- Load the filter state of an output position; a bad word marks everything that comes of it POISONED (R30). -/
def State.fltLoad (s : State) (p : Fin 4) (rg : Fin 16) (product j : Nat) : FltPos × State :=
  let ((bs, bad), s) := s.dramLoad (reqPort p) (s.fltAddr p rg product j) (fltSize product)
  let f := fltOf product bs
  (if bad then { f with boxMarks := f.boxMarks ||| mkPoison, histMarks := f.histMarks.map fun (m : Nat) => m ||| mkPoison, sumMarks := f.sumMarks ||| mkPoison }
   else f, s)

/-- Store the filter state of an output position. -/
def State.fltStore (s : State) (p : Fin 4) (rg : Fin 16) (product j : Nat) (f : FltPos) : State :=
  s.dramWrite (reqPort p) (s.fltAddr p rg product j) (fltBytes product f)

/-- The filters of a range are zero (R156); with `keep` the sums of its window stay. -/
def State.fltZero (s : State) (p : Fin 4) (rg : Fin 16) (product count : Nat) (keep : Bool) : State :=
  if s.memMode = 3 then s
  else (List.range count).foldl (fun (s : State) (j : Nat) =>
    if keep && product == 2 then
      let (f, s) := s.fltLoad p rg product j
      s.fltStore p rg product j { fltClear with sums := f.sums, sumMarks := f.sumMarks }
    else s.fltStore p rg product j fltClear) s

/-! Band windows (R158, R159) -/

/-- BE of a band (R158). -/
def bandEnergy (sum k : Nat) : Int :=
  if sum = 0 then 0
  else
    let rms := dmul (fsqrt fmt64 (ddiv (dint sum) (dint k))) (dscaled 1 (-13))
    clampI 0 65535 (dround (dmul (dint 256) (dadd (dmul (dint 20) (dlog10 rms)) (dint 160))))

/-- The band zones of a range note the largest energy of a set (R205). -/
def State.zonesBand (s : State) (p rg : Nat) (vs : List (List Int)) : State :=
  (List.finRange 8).foldl (fun (s : State) (z : Fin 8) =>
    if s.rd (.ZONE_CFG_Source z) = 2 ∧ s.rd (.ZONE_CFG_Port z) = p ∧ s.rd (.ZONE_CFG_Range z) = rg then
      let first := s.rd (.ZONE_FIRST_Index z)
      let span := (vs.drop first).take (s.rd (.ZONE_LAST_Index z) + 1 - first)
      match (span.map fun (x : List Int) => (x.getD (s.rd (.ZONE_CFG_Band z)) 0).toNat) with
      | [] => s
      | v :: rest =>
        let m := rest.foldl max v
        { s with zone := { s.zone with zones := vupd s.zone.zones z fun (q : ZoneSt) =>
          { q with most := some (max m (q.most.getD 0)), at_ := some s.xt } } }
    else s) s

/-- The sums of a range's window with their marks, and the state that holds them cleared (R158). -/
def State.takeSums (s : State) (p : Fin 4) (rg : Fin 16) (count : Nat) : List (List Nat × Nat) × State :=
  (List.range count).foldl (fun (a : List (List Nat × Nat) × State) (j : Nat) =>
    let (f, s) := a.2.fltLoad p rg 2 j
    (a.1 ++ [(f.sums, f.sumMarks)], s.fltStore p rg 2 j { f with sums := fltClear.sums, sumMarks := 0 })) ([], s)

/-- The flags of data of several shots, from one instant to another: CLOCK_GAP for a loss of the sample clock or of PLL-B between them, SUPPLY_WARN,
TIME_HOLDOVER and TIME_STEP (R51, R433, R441). -/
def State.spanFlags (s : State) (x0 x1 : Nat) : Nat :=
  s.gapFlag [1, if s.on .CLK_CFG_ClkSrc then 5 else 0] x0 x1 ||| s.supplyFlag x0 x1 ||| s.timeFlags x0 x1

/-- Emit the set of a band window that closes, under the configuration of its range; a window with no values produces none (R158). The capture trigger and
the wake comparison see its energies (R85, R171). -/
def State.emitBand (s : State) (p : Fin 4) (rg : Fin 16) (w : BandWinSt) : State :=
  if w.k = 0 ∨ s.memMode = 3 then s
  else
    let cfg := (s.rangeOf p rg).cfg
    let (got, s) := s.takeSums p rg (rfRd cfg (.RANGE_COUNT_Count p rg))
    let vs := got.map fun (x : List Nat × Nat) => x.1.map fun (v : Nat) => bandEnergy v w.k
    let flags := bnat w.part * 2 ^ 4 ||| s.spanFlags w.from_ w.to_
    let h : SetHead := { type := 0x0103, epoch := w.epoch, time := w.at_, inst := w.to_, slot := 0, param := w.k, seq := w.at_ / w.len, flags := flags }
    let s := s.emitSet p rg cfg h vs (got.map fun (x : List Nat × Nat) => x.2)
    let s := s.zonesBand p rg vs
    let above := fun (b thr : Nat) => vs.any fun (x : List Int) => decide ((thr : Int) < x.getD b 0)
    let s := if s.on (.CAPEV_CTRL_TrigBand p) && s.rd (.CAPEV_CTRL_BandRange p) == rg.val &&
        above (s.rd (.CAPEV_CTRL_Band p)) (s.rd (.CAPEV_CTRL_Thr p)) then s.capTrigger p w.at_ 2 else s
    if s.pwr = 3 ∧ s.on .WAKE_DAS_Enable = true ∧ s.rd .WAKE_DAS_Port = p.val ∧ s.rd .WAKE_DAS_Range = rg.val then
      s.updPort p fun (q : PortSt) =>
        { q with probe := { q.probe with bandSeen := true, bandHit := q.probe.bandHit || above (s.rd .WAKE_DAS_Band) (s.rd .WAKE_DAS_THR_WakeThr) } }
    else s

/-- A window does not run whole: something ends or begins within it at device time `t` (R159). -/
def BandWinSt.cutAt (w : BandWinSt) (t : Nat) : BandWinSt := { w with part := w.part || (decide (w.at_ < t) && decide (t < w.at_ + w.len)) }

/-- Emit and drop every open band window of a range. A window that a boundary at device time `cut` ends before its own end did not run whole; without one
the end of each window has fallen (R158, R159, R447). DESIGN CHOICE, unsafe: log 45. -/
def State.closeBands (s : State) (p : Fin 4) (rg : Fin 16) (cut : Option Nat) : State :=
  let ws := (s.rangeOf p rg).wins.map fun (w : BandWinSt) => match cut with | some t => w.cutAt t | none => w
  let done := ws.foldl (fun (a : Nat) (w : BandWinSt) => max a (match cut with | some t => min t (w.at_ + w.len) | none => w.at_ + w.len)) 0
  ws.foldl (fun (s : State) (w : BandWinSt) => s.emitBand p rg w)
    (s.updRange p rg fun (g : RangeSt) => { g with wins := [], issued := max g.issued done })

/-! Ranges (R148 – R160) -/

/-- What a range restarts on when it changes (R176). -/
def rangeKey (r : RegFile) (p rg : Nat) : List Nat :=
  [rfRd r (.RANGE_START_Enable p rg), rfRd r (.RANGE_START_Start p rg), rfRd r (.RANGE_COUNT_Count p rg),
   rfRd r (.RANGE_CFG_Dsp p rg), rfRd r (.RANGE_CFG_SpMean p rg), rfRd r (.RANGE_CFG_Product p rg), rfRd r (.RANGE_CFG_DecLog p rg)]

/-- A configuration enables a range of a filtered product. -/
def filteredIn (r : RegFile) (p rg : Nat) : Bool :=
  rfRd r (.RANGE_START_Enable p rg) == 1 && (rfRd r (.RANGE_CFG_Product p rg) == 1 || rfRd r (.RANGE_CFG_Product p rg) == 2)

/-- A filtered range restarts (R156): its counter begins again; open windows did not run whole. -/
def RangeSt.restart (g : RangeSt) (t : Nat) (keep : Bool) : RangeSt :=
  { g with c := 0, firVals := 0, boxAt := [], fromDev := t, stopDev := none,
           wins := g.wins.map fun (w : BandWinSt) => { w.cutAt t with k := if keep then w.k else 0 } }

/-- The range makes a filtered product (R154, R157). DESIGN CHOICE, unsafe: log 113. -/
def RangeSt.filtered (g : RangeSt) : Bool := g.key.getD 5 0 == 1 || g.key.getD 5 0 == 2

/-- A range that starts afresh under a configuration (R176). -/
def RangeSt.fresh (g : RangeSt) (cfg : RegFile) (key : List Nat) (win base t : Nat) : RangeSt :=
  { g with key := key, cfg := cfg, winLen := win, base := base, acc := 0, one := [], posMarks := 0, out := [], marks := [], count := 0, c := 0,
           firVals := 0, boxAt := [], wins := [], fromDev := t, stopDev := none, issued := 0 }

/-- First byte of a range's state in its port's area: the filtered ranges in order. DESIGN CHOICE, unsafe: log 107. -/
def rangeBase (r : RegFile) (p rg : Nat) : Nat :=
  (List.range rg).foldl (fun (a q : Nat) =>
    if filteredIn r p q then a + rfRd r (.RANGE_COUNT_Count p q) * fltSize (rfRd r (.RANGE_CFG_Product p q)) else a) 0

/-- A range's BandWin under a configuration, ns. -/
def bandLen (r : RegFile) (p rg : Nat) : Nat := rfRd r (.RANGE_BAND_BandWin p rg) * 10000000

/-- The range under a configuration that takes effect at device time `t` (R176). -/
def RangeSt.settled (g : RangeSt) (cfg : RegFile) (p : Fin 4) (rg : Fin 16) (t : Nat) : RangeSt :=
  if g.key != rangeKey cfg p rg then g.fresh cfg (rangeKey cfg p rg) (bandLen cfg p rg) (rangeBase cfg p rg) t
  else
    let new := g.winLen != bandLen cfg p rg && g.key.getD 5 0 == 2
    { g with cfg := cfg, base := rangeBase cfg p rg, winLen := bandLen cfg p rg, fromDev := if new then t else g.fromDev,
             issued := if new then 0 else g.issued }

/-- Bring the ranges of a port to a configuration whose boundary lies at device time `t` (R159, R176): a range that changes closes its window and starts
afresh; the state of the others keeps its contents, wherever it now lies. -/
def State.settleRanges (s : State) (p : Fin 4) (cfg : RegFile) (t : Nat) : State :=
  let rgs := List.finRange 16
  let changed := fun (g : RangeSt) (rg : Nat) => g.key != rangeKey cfg p rg
  let s := rgs.foldl (fun (s : State) (rg : Fin 16) =>
    let g := s.rangeOf p rg
    if changed g rg || (g.winLen != bandLen cfg p rg && g.key.getD 5 0 == 2) then s.closeBands p rg (some t) else s) s
  let moved := rgs.filter fun (rg : Fin 16) =>
    let g := s.rangeOf p rg
    !changed g rg && filteredIn cfg p rg && g.base != rangeBase cfg p rg && s.memMode != 3
  let data := moved.map fun (rg : Fin 16) =>
    let product := (s.rangeOf p rg).key.getD 5 0
    (List.range (rfRd cfg (.RANGE_COUNT_Count p rg) * fltSize product / 8)).map fun (k : Nat) =>
      s.fetchWord (reqPort p) (s.dramWord (s.fltAddr p rg product 0 / 8 + k))
  let fresh := rgs.filter fun (rg : Fin 16) => changed (s.rangeOf p rg) rg && filteredIn cfg p rg
  let s := s.updDas p fun (d : DasSt) => { d with ranges := Vector.ofFn fun (rg : Fin 16) => (d.ranges.get rg).settled cfg p rg t }
  let s := (moved.zip data).foldl (fun (s : State) (m : Fin 16 × List (Nat × Bool)) =>
    let a := s.fltAddr p m.1 ((s.rangeOf p m.1).key.getD 5 0) 0 / 8
    m.2.zipIdx.foldl (fun (s : State) (w : (Nat × Bool) × Nat) => s.setWord (s.dramWord (a + w.2)) w.1.1 w.1.2) s) s
  fresh.foldl (fun (s : State) (rg : Fin 16) =>
    s.fltZero p rg (rfRd cfg (.RANGE_CFG_Product p rg)) (rfRd cfg (.RANGE_COUNT_Count p rg)) false) s

/-- The product unit needs the DRAM under a configuration: for the state of a filtered range, or for the capture history (R170, R174). -/
def State.needsDram (s : State) (p : Fin 4) (r : RegFile) : Bool :=
  s.memMode != 3 && ((List.range 16).any (fun (rg : Nat) => filteredIn r p rg) || (s.dasOf p).ranges.toList.any (fun (g : RangeSt) => g.filtered) ||
    rfRd r (.CAPEV_CTRL_Enable p) == 1)

/-- Pass the switching boundaries of a list at which every earlier sample has come. -/
def settleGo (p : Fin 4) : List (Nat × RegFile) → State → State
  | [], s => s.updDas p fun (d : DasSt) => { d with switches := [] }
  | (t, cfg) :: rest, s =>
    if s.deliveredTo p t then settleGo p rest (s.settleRanges p cfg t) else s.updDas p fun (d : DasSt) => { d with switches := (t, cfg) :: rest }

/-- The ranges of a port pass every switching boundary up to which all samples have come (R159, R176). -/
def State.settleDue (s : State) (p : Fin 4) : State :=
  if s.needsDram p s.regs && !s.dramOpen then s else settleGo p (s.dasOf p).switches s

/-- BAND_WINDOW_CLOSE of a range: its window closes if it has ended and holds every value of it. -/
def State.closeBand (s : State) (p : Fin 4) (rg : Fin 16) : State :=
  let s := s.settleDue p
  match (s.rangeOf p rg).wins with
  | [] => s
  | w :: _ => if s.needsDram p s.regs && !s.dramOpen then s else if s.deliveredTo p (w.at_ + w.len) then s.closeBands p rg none else s

/-- rate of R152. -/
def rateOf (d : Int) : Int := asr (d * 205887 + 131072) 18

/-- h[j] of R154. -/
def firTap (r : RegFile) (p j : Nat) : Int :=
  if j % 2 = 0 then rfRdS r (.DEC_FIR_HEven p (j / 2)) else rfRdS r (.DEC_FIR_HOdd p (j / 2))

/-- The FIR of R154; its accumulator is an int32 and wraps. -/
def firOut (r : RegFile) (p : Nat) (hist : List Int) : Int :=
  let acc := toS 32 (ofS 32 (hist.zipIdx.foldl (fun (a : Int) (x : Int × Nat) => a + firTap r p x.2 * x.1) 0))
  satS 16 (asr (toS 32 (ofS 32 (acc + 2 ^ 14))) 15)

/-- One band's biquad (R157): its new state and y. The accumulator is an int64 and wraps. -/
def biquad (r : RegFile) (p rg b : Nat) (st : Int × Int × Int × Int) (x : Int) : (Int × Int × Int × Int) × Int :=
  let k := fun (i : Nat) => rfRdS r (.BAND_COEF_Coef p rg b i)
  let acc := toS 64 (ofS 64 (k 0 * x + k 1 * st.1 + k 2 * st.2.1 - k 3 * st.2.2.1 - k 4 * st.2.2.2))
  let y := satS 32 (asr (toS 64 (ofS 64 (acc + 2 ^ 29))) 30)
  ((x, st.1, y, st.2.2.1), y)

/-- Band window `ws` of a range takes a value (R158), opening at output position 0. -/
def RangeSt.addBand (g : RangeSt) (j ws : Nat) (it : Item) (from_ : Nat) : RangeSt :=
  let wins := if g.wins.isEmpty then
      [{ at_ := ws, len := max g.winLen 1, k := 0, epoch := it.epoch, from_ := from_, to_ := it.at_,
         part := decide (ws < g.fromDev) || match g.stopDev with | some t => decide (t < ws + max g.winLen 1) | none => false }]
    else g.wins
  { g with issued := max g.issued ws, wins := wins.map fun (w : BandWinSt) =>
      { w with k := if j = 0 then w.k + 1 else w.k, epoch := it.epoch, from_ := min w.from_ from_, to_ := max w.to_ it.at_ } }

/-- An output position of a filtered range takes its D (R154): filter state, and an output value with its marks when one is due. -/
def RangeSt.filterPos (g : RangeSt) (r : RegFile) (p R div : Nat) (f : FltPos) (D : Int) (m : Nat) : FltPos × Option (Int × Nat) :=
  let f := { f with box := f.box + D, boxMarks := f.boxMarks ||| m }
  if (g.c + 1) % (R / 2) = 0 then
    let x := satS 16 (roundDiv (f.box * 205887) (2 ^ 18 * (div : Int) * ((R / 2 : Nat) : Int)))
    let f := { f with hist := (x :: f.hist).take 16, histMarks := (f.boxMarks :: f.histMarks).take 16, box := 0, boxMarks := 0 }
    (f, if (g.c + 1) % R = 0 then
        some (firOut r p f.hist, f.histMarks.foldl Nat.lor 0 ||| bnat (decide (g.firVals + 1 < 16)) * mkSettling)
      else none)
  else (f, none)

/-- A value leaves an output position, newest first. -/
def RangeSt.push (g : RangeSt) (v : List Int) (m : Nat) : RangeSt := { g with out := v :: g.out, marks := m :: g.marks }

/-- A decimated value `x` of an output position enters its bands and the window that contains its time; an earlier window has then closed. A boundary that
has fallen before a backward step does not fall again (R157, R158, R447). -/
def State.bandPos (s : State) (p : Fin 4) (rg : Fin 16) (j : Nat) (it : Item) (f : FltPos) (x : Int) (m : Nat) : State :=
  let g := s.rangeOf p rg
  let len := max g.winLen 1
  let ws := max (it.instant / len * len) g.issued
  let st := f.bands.zipIdx.map fun (b : (Int × Int × Int × Int) × Nat) => biquad it.cfg p rg b.2 b.1 x
  let from_ := (g.boxFrom :: g.boxAt).getLastD it.at_
  let later := g.wins.any fun (w : BandWinSt) => w.at_ != ws
  let s := if later then s.closeBands p rg none else s
  let g := s.rangeOf p rg
  let f := if g.wins.isEmpty then { f with sums := fltClear.sums, sumMarks := 0 } else f
  let f := { f with bands := st.map fun (y : (Int × Int × Int × Int) × Int) => y.1,
                    sums := (f.sums.zip st).map fun (v : Nat × (Int × Int × Int × Int) × Int) => min (v.1 + v.2.2.natAbs ^ 2) (2 ^ 64 - 1),
                    sumMarks := f.sumMarks ||| m }
  (s.updRange p rg fun (g : RangeSt) => g.addBand j ws it from_).fltStore p rg 2 j f

/-- One output position of a range is complete (R150 – R160). -/
def State.rangePos (s : State) (p : Fin 4) (rg : Fin 16) (j dsp : Nat) (it : Item) : State :=
  let r := it.cfg
  let product := rfRd r (.RANGE_CFG_Product p rg)
  let mean := rfRd r (.RANGE_CFG_SpMean p rg) == 1
  let g := s.rangeOf p rg
  let value := if mean then g.acc else g.one.getD 0 0
  match product with
  | 0 => s.updRange p rg fun (g : RangeSt) => g.push [if mean then roundDiv g.acc dsp else value] g.posMarks
  | 3 => s.updRange p rg fun (g : RangeSt) => g.push g.one g.posMarks
  | _ =>
    let (f, s) := s.fltLoad p rg product j
    let (f, out) := g.filterPos r p (2 ^ rfRd r (.RANGE_CFG_DecLog p rg)) (if mean then dsp else 1) f value g.posMarks
    match out with
    | none => s.fltStore p rg product j f
    | some (x, m) =>
      if product = 1 then (s.fltStore p rg product j f).updRange p rg fun (g : RangeSt) => g.push [x] m
      else s.bandPos p rg j it f x m

/-- The slot sample of a range is complete: counters advance, and a set leaves when one is due (R148, R154, R161). SampleSeq counts from 0.
DESIGN CHOICE, unsafe: log 131. -/
def State.rangeEnd (s : State) (p : Fin 4) (rg : Fin 16) (it : Item) : State :=
  let r := it.cfg
  let product := rfRd r (.RANGE_CFG_Product p rg)
  let R := 2 ^ rfRd r (.RANGE_CFG_DecLog p rg)
  let g := s.rangeOf p rg
  let first := (g.boxFrom :: g.boxAt).getLastD it.at_
  let flags := if product = 1 then s.spanFlags first it.at_ else s.supplyFlag it.at_ it.at_ ||| s.timeFlags it.at_ it.at_
  let slot := if product = 1 then 0 else it.tone + 8 * it.slot
  let h : SetHead :=
    { type := if product = 0 then 0x0101 else if product = 1 then 0x0102 else 0x0104, epoch := it.epoch, time := it.instant, inst := it.at_, slot := slot,
      param := R, seq := (if product = 1 then g.c else g.count) % 2 ^ 32, flags := flags }
  let due := product = 0 ∨ product = 3 ∨ (product = 1 ∧ (g.c + 1) % R = 0)
  let s := if due then s.emitSet p rg r h g.out.reverse g.marks.reverse else s
  let boxEnd := decide ((product = 1 ∨ product = 2) ∧ (g.c + 1) % (R / 2) = 0)
  s.updRange p rg fun (g : RangeSt) =>
    { g with out := [], marks := [], count := g.count + 1, c := g.c + 1, firVals := g.firVals + bnat boxEnd,
             boxAt := if boxEnd then (g.boxFrom :: g.boxAt).take 16 else g.boxAt }

/-- A range takes an item (R148 – R160). `d` is the step of R152. -/
def State.rangeItem (s : State) (p : Fin 4) (it : Item) (d : Int) (rg : Fin 16) : State :=
  let r := it.cfg
  let product := rfRd r (.RANGE_CFG_Product p rg)
  let start := rfRd r (.RANGE_START_Start p rg)
  let dsp := max 1 (rfRd r (.RANGE_CFG_Dsp p rg))
  let count := rfRd r (.RANGE_COUNT_Count p rg)
  let filtered := product == 1 || product == 2
  if rfRd r (.RANGE_START_Enable p rg) = 0 ∨ it.z < start ∨ start + count * dsp ≤ it.z ∨ (filtered ∧ s.memMode = 3) then s
  else
    let j := (it.z - start) / dsp
    let i := (it.z - start) % dsp
    let v : List Int := if product = 0 then [rateOf d] else if product = 3 then [it.pre, it.pim] else [d]
    let s := s.updRange p rg fun (g : RangeSt) =>
      let g := if i = 0 ∧ j = 0 then
          { g with out := [], marks := [],
                   boxFrom := if filtered && g.c % (2 ^ rfRd r (.RANGE_CFG_DecLog p rg) / 2) != 0 then g.boxFrom else it.at_ }
        else g
      if i = 0 then { g with acc := v.getD 0 0, one := v, posMarks := it.marks }
      else { g with acc := g.acc + v.getD 0 0, posMarks := g.posMarks ||| it.marks }
    if i + 1 < dsp then s
    else
      let s := s.rangePos p rg j dsp it
      if j + 1 < count then s else s.rangeEnd p rg it

/-! Fibre health (R165 – R169) -/

/-- The shot end of R165 from the levels of positions N − 1 down to 0: Ls(z) from the running sum of 16 levels, z falling
from N − 9 to 7. -/
def shotEndGo (thr : Nat) : Nat → Nat → Nat → List Nat → List Nat → Nat
  | 0, _, _, _, _ => 0
  | k + 1, z, sum, lead, tail =>
    if thr ≤ sum / 16 then z
    else match tail with
      | [] => 0
      | v :: tail => shotEndGo thr k (z - 1) (sum + v - lead.headD 0) (lead.drop 1) tail

/-- e_s of R165; `levels` are newest first, position N − 1 at the head. -/
def shotEnd (thr : Nat) (levels : List Nat) : Nat :=
  let n := levels.length
  if n < 16 then 0
  else shotEndGo thr (n - 15) (n - 9) ((levels.take 16).foldl (· + ·) 0) levels (levels.drop 16)

/-- The 0x0A02 record (R168). -/
def State.endRecord (s : State) (p : Fin 4) (it : Item) (kind e prev first from_ marks : Nat) : State :=
  let flags := s.spanFlags from_ it.at_ ||| Nat.land (markFlags marks) 0x7FF
  s.offer 15 (mkRecord 0x0A02 it.epoch flags it.instant
    (le 1 p ++ le 1 kind ++ zeros 2 ++ le 4 e ++ le 4 prev ++ leS 4 (distanceMm it.cfg p it.plan e) ++ le 8 first))

/-- The tracked end after a shot (R166, R167). DESIGN CHOICE, unsafe: log 44. -/
def State.trackEnd (s : State) (p : Fin 4) (it : Item) (es : Nat) : State :=
  let d := s.dasOf p
  let e := s.rd (.END_STATUS_End p)
  if d.initial then
    let s := s.updDas p fun (d : DasSt) => { d with initial := false, near := 0, far := 0, sinceSet := 0 }
    let s := (s.wr (.END_STATUS_End p) es).wr (.END_STATUS_Valid p) 1
    s.endRecord p it 3 es e it.instant it.at_ d.levelMarks
  else
    let d20 := positionsFor it.cfg p 20
    let nearNow := decide (es + d20 < e)
    let farNow := decide (e + d20 < es) && s.on (.END_STATUS_Break p)
    let near := if nearNow then d.near + 1 else 0
    let far := if farNow then d.far + 1 else 0
    let nearFrom := if nearNow ∧ d.near = 0 then it.instant else d.nearFrom
    let farFrom := if farNow ∧ d.far = 0 then it.instant else d.farFrom
    let fresh := (nearNow && d.near == 0) || (farNow && d.far == 0)
    let countX := if fresh then it.at_ else d.countX
    let countMarks := if fresh then d.levelMarks else d.countMarks ||| d.levelMarks
    let since := d.sinceSet + 1
    let s := s.updDas p fun (d : DasSt) =>
      { d with near := near, far := far, nearFrom := nearFrom, farFrom := farFrom, countX := countX, countMarks := countMarks, sinceSet := min since 9 }
    if 3 ≤ near ∧ 8 < since then
      let s := s.updDas p fun (d : DasSt) => { d with near := 0 }
      let s := (s.wr (.END_STATUS_End p) es).wr (.END_STATUS_Break p) 1
      let s := (s.raise 0x0102 p es).endRecord p it 1 es e nearFrom countX countMarks
      if s.on (.CAPEV_CTRL_TrigBreak p) then s.capTrigger p nearFrom 3 else s
    else if 3 ≤ far then
      let s := s.updDas p fun (d : DasSt) => { d with far := 0 }
      let s := (s.wr (.END_STATUS_End p) es).wr (.END_STATUS_Break p) 0
      (s.raise 0x0103 p es).endRecord p it 2 es e farFrom countX countMarks
    else if near = 0 ∧ far = 0 then s.wr (.END_STATUS_End p) ((e : Int) + asr ((es : Int) - e) 4).toNat
    else s

/-- End tracking takes an item of the first slot sample of a shot (R165, R166). -/
def State.endItem (s : State) (p : Fin 4) (it : Item) (n : Nat) : State :=
  if !it.first then s
  else
    let s := if it.init && it.z == 0 then s.updDas p fun (d : DasSt) => { d with initial := true } else s
    let s := s.updDas p fun (d : DasSt) =>
      { d with levels := if it.z = 0 then [it.level] else it.level :: d.levels,
               levelMarks := if it.z = 0 then it.marks else d.levelMarks ||| it.marks }
    if it.z + 1 = n ∧ rfRd it.cfg (.END_CFG_EndEnable p) = 1 then
      s.trackEnd p it (shotEnd (rfRd it.cfg (.END_CFG_EndThr p)) (s.dasOf p).levels)
    else s

/-- The longest time from one shot to the next of a plan, ns (R54, R71). -/
def shotGap (r : RegFile) (p w : Nat) : Nat := let q := planOf r p w; q.shotT + (if q.ext then 1000 else 0)

/-- The backscatter sums take an item (R169). A second that has left is not traced again after a backward step (R447). A trace keeps the TraceDec of its
second's first item. DESIGN CHOICE, unsafe: log 47. -/
def State.traceItem (s : State) (p : Fin 4) (it : Item) (n : Nat) : State :=
  let sec := max (it.instant / 1000000000) (match (s.dasOf p).traceLast with | some l => l + 1 | none => 0)
  let dec := max 1 (rfRd it.cfg (.END_CFG_TraceDec p))
  let ts := (s.dasOf p).traces
  let follows := fun (id : Option Nat) => match id with | some l => it.shotId == l || it.shotId == l + 1 | none => false
  let gap := !follows (s.dasOf p).fused || bit it.marks 6
  let s := if it.first then s.updDas p fun (d : DasSt) => { d with fused := some it.shotId } else s
  let known := ts.any fun (t : TraceSec) => t.sec == sec
  if !known && (it.z != 0 || rfRd it.cfg (.END_CFG_TraceEnable p) == 0) then s
  else
    let ts := if known then ts
      else ts ++ [{ sec := sec, dec := dec, sums := [], n := n, slots := 0, first := it.instant, last := it.instant,
                    firstX := it.at_, lastX := it.at_, marks := 0,
                    gap := gap && decide (sec * 1000000000 + shotGap it.cfg p it.plan ≤ it.instant), lastId := it.shotId, epoch := it.epoch }]
    s.updDas p fun (d : DasSt) =>
      { d with traces := ts.map fun (t : TraceSec) =>
          if t.sec ≠ sec then t
          else
            let t := { t with marks := t.marks ||| it.marks, lastX := it.at_ }
            let t := if it.z ≠ 0 then t
              else { t with slots := t.slots + 1, epoch := it.epoch, n := max t.n n, last := if it.first then it.instant else t.last,
                            gap := t.gap || (it.first && t.lastId != it.shotId && (gap || t.lastId + 1 != it.shotId)), lastId := it.shotId }
            if it.pre = 0 ∧ it.pim = 0 then t
            else
              let q := it.z / t.dec
              let (a, c) := spGet (fun _ => (0, 0)) t.sums q
              { t with sums := spSet (fun _ => (0, 0)) t.sums q (a + it.level, c + 1) } }

/-- The records of a trace, 4,096 bins each (R169). -/
def traceRecords (p end_ flags : Nat) (t : TraceSec) : Nat → Nat → List Nat → List (List Byte)
  | 0, _, _ => []
  | k + 1, b0, vs =>
    let v := vs.take 4096
    mkRecord 0x0A01 t.epoch flags (t.sec * 1000000000)
      (le 1 p ++ le 1 t.dec ++ le 2 v.length ++ le 4 b0 ++ le 4 end_ ++ le 4 t.slots ++ v.flatMap fun (x : Nat) => le 2 x) ::
      (if 4096 < vs.length then traceRecords p end_ flags t k (b0 + 4096) (vs.drop 4096) else [])

/-- BACKSCATTER_TRACE: the trace of a whole second leaves on ring 15 (R169). DESIGN CHOICE, unsafe: log 47. -/
def execBackscatterTrace (p : Fin 4) (s : State) : Out :=
  if !s.locked 1 then .next s else
  let d := s.dasOf p
  let w := (s.ports.get p).probe.slot
  let n := nOf s.regs p w
  let now := s.now / 1000000000
  let idle : TraceSec :=
    { sec := now - 1, dec := max 1 (s.rd (.END_CFG_TraceDec p)), sums := [], n := n, slots := 0, first := 0, last := 0,
      firstX := s.xtBack ((now - 1) * 1000000000), lastX := s.xtBack (now * 1000000000), marks := 0, gap := true, lastId := 0, epoch := s.curEpoch }
  let t := d.traces.headD idle
  let fresh := match d.traceLast with | some l => decide (l < t.sec) | none => true
  let wanted : Bool := !d.traces.isEmpty || (s.on (.END_CFG_TraceEnable p) && !(planOf s.regs p w).tones.isEmpty && n != 0 && decide (0 < now))
  if wanted && fresh && s.power.released && s.deliveredTo p ((t.sec + 1) * 1000000000) then
    let start := t.sec * 1000000000
    let part := t.gap || t.slots == 0 || decide (t.last + shotGap s.regs p w < start + 1000000000)
    let flags := bnat part * 2 ^ 4 ||| s.spanFlags (min t.firstX (s.xtBack start)) (max t.lastX (s.xtBack (start + 999999999))) |||
      Nat.land (markFlags t.marks) 0x7FF ||| bnat (s.on (.END_STATUS_Break p)) * 2 ^ 11
    let vs := (List.range (ceilDiv t.n t.dec)).map fun (q : Nat) =>
      let (a, c) := spGet (fun _ => (0, 0)) t.sums q
      (roundDiv (16 * a) c).toNat
    let s := (traceRecords p (s.rd (.END_STATUS_End p)) flags t (vs.length + 1) 0 vs).foldl (fun (s : State) (b : List Byte) => s.offer 15 b) s
    .next (s.updDas p fun (d : DasSt) => { d with traces := d.traces.drop 1, traceLast := some t.sec })
  else .next s

/-! The item (R144) -/

/-- d of R152: the step from the position's previous fused sample; 0 at a restart. -/
def State.stepOf (s : State) (p : Fin 4) (it : Item) : Int :=
  if bit it.marks 5 then 0
  else match spGet (fun _ => none) (s.dasOf p).prev it.z with
    | none => 0
    | some e => toS 32 (ofS 32 ((it.phi : Int) - e))

/-- Every filtered range restarts: at a restart of the port (R156), or when a failed channel moves the area and the sums of its window are lost with it
(R176; `keep` false). -/
def State.restartRanges (s : State) (p : Fin 4) (t : Nat) (keep : Bool) : State :=
  (List.finRange 16).foldl (fun (s : State) (rg : Fin 16) =>
    let g := s.rangeOf p rg
    if g.filtered && g.key.getD 0 0 == 1 then
      (s.fltZero p rg (g.key.getD 5 0) (g.key.getD 2 0) keep).updRange p rg fun (g : RangeSt) => g.restart t keep
    else s) s

/-- The ranges of a port stop at device time `t`: the band windows that it falls into, open or still to open, do not run whole (R159). -/
def State.stopRanges (s : State) (p : Fin 4) (t : Nat) : State :=
  s.updDas p fun (d : DasSt) =>
    { d with ranges := d.ranges.map fun (g : RangeSt) => { g with stopDev := some t, wins := g.wins.map fun (w : BandWinSt) => w.cutAt t } }

/-- Process an item (R144): the switching boundaries before its shot are passed first. -/
def State.takeItem (s : State) (p : Fin 4) (it : Item) : State :=
  let n := nOf it.cfg p it.plan
  let s := if it.z = 0 then
      let past := (s.dasOf p).switches.filter fun (x : Nat × RegFile) => decide (x.1 ≤ it.instant)
      let s := past.foldl (fun (s : State) (x : Nat × RegFile) => s.settleRanges p x.2 x.1) s
      let s := s.updDas p fun (d : DasSt) => { d with switches := d.switches.filter fun (x : Nat × RegFile) => !decide (x.1 ≤ it.instant) }
      s.settleRanges p it.cfg it.instant
    else s
  let s := if it.opens && it.z == 0 then s.restartRanges p it.instant true else s
  let d := s.stepOf p it
  let s := s.updDas p fun (u : DasSt) => { u with prev := spSet (fun _ => none) u.prev it.z (some it.phi) }
  let s := (List.finRange 16).foldl (fun (s : State) (rg : Fin 16) => s.rangeItem p it d rg) s
  (s.endItem p it n).traceItem p it n

/-- FUSED_ITEM: the oldest item of the chain reaches the product unit, which waits for the DRAM where it needs it (R144, R370). -/
def execFusedItem (p : Fin 4) (s : State) : Out :=
  if !s.locked 1 then .next s else
  match (s.chainOf p).items with
  | [] => .next s
  | it :: rest =>
    if s.needsDram p it.cfg && !s.dramOpen then .next s
    else .next (((s.updChain p fun (c : ChainSt) => { c with items := rest }).takeItem p it).settleDue p)

/-! Load (R174) -/

/-- Θ of a port as a quotient, s⁻¹. -/
def thetaLoad (r : RegFile) (p w : Nat) : Rat :=
  let q := planOf r p w
  (List.range 16).foldl (fun (a : Rat) (g : Nat) =>
    let product := rfRd r (.RANGE_CFG_Product p g)
    if rfRd r (.RANGE_START_Enable p g) = 1 ∧ (product = 1 ∨ product = 2) then
      a + (rfRd r (.RANGE_COUNT_Count p g) : Rat) * (if product = 1 then 2 else 4) * (q.tones.length : Rat) * 1000000000 /
        ((q.shotT : Rat) * (2 ^ rfRd r (.RANGE_CFG_DecLog p g) : Nat))
    else a) 0

end Sys2Proof.Machine
end

