-- ==== Sys2Proof/Machine/Raman.lean ====
section
/-! DEFINITION. The Raman unit of a fibre port: window, accumulation, completion pass, temperature, DTS records
(R177 – R196). -/
namespace Sys2Proof.Machine

/-- Update the Raman unit of a port. -/
def State.updRam (s : State) (p : Fin 4) (f : RamSt → RamSt) : State := s.updPort p fun (q : PortSt) => { q with ram := f q.ram }
/-- The Raman unit of a port. -/
def State.ramOf (s : State) (p : Fin 4) : RamSt := (s.ports.get p).ram

/-! Pairs (R185) -/

/-- A port is the primary of a dual pair. -/
def isPrimary (r : RegFile) (p : Nat) : Bool := p % 2 == 0 && rfRd r (.DTS_CTRL_Dual p) == 1
/-- A port is the secondary of a dual pair. -/
def isSecondary (r : RegFile) (p : Nat) : Bool := p % 2 == 1 && rfRd r (.DTS_CTRL_Dual (p - 1)) == 1
/-- The other port of a pair. -/
def partner (p : Fin 4) : Fin 4 := if p.val % 2 = 0 then fin 3 (p.val + 1) else fin 3 (p.val - 1)
/-- The primary of a port's pair; the port itself without a pair. -/
def primaryOf (r : RegFile) (p : Fin 4) : Fin 4 := if isSecondary r p then partner p else p

/-- Show the shots and the phase of an accumulation in DTS_STATUS. -/
def State.showDts (s : State) (p : Fin 4) : State :=
  let q := s.ports.get p
  let idle := (planOf s.regs p q.probe.slot).m == 0 || q.ram.stopped || !q.probe.running
  let phase :=
    if idle then 0
    else if isPrimary s.regs p then (if q.ram.hand then 2 else 1)
    else if isSecondary s.regs p then (if (s.ramOf (partner p)).hand then 1 else 3)
    else 1
  (s.wr (.DTS_STATUS_Shots p) q.ram.shots).wr (.DTS_STATUS_Phase p) phase

/-! The accumulator (R178, R179) -/

/-- Id of a port's accumulator SRAM (R344). -/
def dtsSram (p : Nat) : Nat := 4 + p

/-- Add to a bin's sums; `o` marks an overrange sample, and `new` says that no set since reset or since a cut has given the bin a temperature. -/
def State.addBin (s : State) (p : Fin 4) (b : Nat) (da ds : Int) (o new : Bool) : State :=
  let ((bs, bad), s) := s.sramLoad (0x10 + p) (dtsSram p) (16 * b) 16
  let a := toS 48 (leAt bs 0 6) + da
  let st := toS 48 (leAt bs 6 6) + ds
  let m := leAt bs 14 2 ||| bnat o
  let last := if new then leS 2 (-32768) else slice bs 12 2
  let s := s.sramWrite (0x10 + p) (dtsSram p) (16 * b) (leS 6 a ++ leS 6 st ++ last ++ le 2 m)
  if bad then s.updRam p fun (g : RamSt) => { g with flags := g.flags ||| 2 ^ 8 } else s

/-- Sums of a list of converted samples. -/
def sumCodes (xs : List Conv) : Int := xs.foldl (fun (a : Int) (x : Conv) => a + x.code) 0

/-- The samples of Raman positions from `lo` up to `hi`, for a window that opens at `open2` half ns (R177). -/
def inPositions (open2 lo hi : Nat) (xs : List Conv) : List Conv :=
  xs.filter fun (x : Conv) => decide (open2 + 8 * lo ≤ x.h) && decide (x.h < open2 + 8 * hi)

/-! Completion pass (R181, R184) -/

/-- T_ref (R184): its value as a sum of m°C and a divisor, and whether the set carries REF_FAULT. DESIGN CHOICE, unsafe: log 48. -/
def State.tref (s : State) (p : Fin 4) (first last : Nat) : Option Int × Nat × Bool :=
  if s.on (.DTS_CTRL_RefSrc p) then
    match (s.ramOf p).refAt with
    | none => (none, 1, true)
    | some t => (some (s.rdS (.REF_TEMP_RefTemp p)), 64, decide (t + s.rd (.REF_AGE_RefAge p) * 1000000000 < s.xt))
  else
    let good := (s.aux.tcs.get (fin 3 (s.rd (.DTS_CTRL_RefTc p)))).good
    let inside := good.filter fun (v : Nat × Int) => decide (first ≤ v.1) && decide (v.1 ≤ last)
    match inside, good with
    | [], [] => (none, 1, true)
    | [], v :: _ => (some v.2, 1000, true)
    | _, _ => (some (inside.foldl (fun (a : Int) (v : Nat × Int) => a + v.2) 0), 1000 * inside.length, false)

/-- End the accumulation counters of a port (R181). -/
def State.clearAcc (s : State) (p : Fin 4) : State :=
  (s.updRam p fun (g : RamSt) => { g with shots := 0, darkA := 0, darkS := 0, flags := 0 }).showDts p

/-! Results (R178, R182 – R187, R192) -/

/-- z_b in half ns of round trip, as R178 gives it: Raman delay, bin centre, origin. -/
def binNs2 (r : RegFile) (p w b : Nat) : Int :=
  let bp := rfRd r (.DTS_CTRL_BinPos p)
  2 * ((rfRd r (.RAMAN_DELAY_RamanDelay p w) : Int) - rfRd r (.RAMAN_ORIGIN_RamanOrigin p)) +
    8 * ((rfRd r (.BIN_START_BinStart p) + b * bp : Nat) : Int) + 4 * bp

/-- Half ns of round trip, `k` of them summed, as metres in binary64: z_b, or the mean of k of them (R178). -/
def metres (r : RegFile) (p : Nat) (ns2 : Int) (k : Nat) : Nat :=
  dquot (ns2 * 299792458 * 10000) (4 * rfRd r (.GEOMETRY_GroupIndex p) * 1000000000 * k)

/-- Sums of a list of bins. -/
def sumBins (xs : List (Int × Int × Bool)) : Int × Int :=
  xs.foldl (fun (a : Int × Int) (x : Int × Int × Bool) => (a.1 + x.1, a.2 + x.2.1)) (0, 0)

/-- Dark-corrected sums of `k` bins (R182). -/
def darkCorrect (r : RegFile) (p k : Nat) (v dark : Int) : Nat :=
  let len := rfRd r (.DARK_LEN_DarkLen p)
  if len = 0 then dint v
  else dsub (dint v) (ddiv (dmul (dint dark) (dint (rfRd r (.DTS_CTRL_BinPos p) * k : Nat))) (dint len))

/-- A value in binary64 is at most zero. -/
def dle0 (a : Nat) : Bool := !dlt (dint 0) a

/-- ln of the corrected ratio, and LOW_SIGNAL (R182). -/
def lnRatio (a st : Nat) : Nat × Bool := if dle0 a || dle0 st then (dint 0, true) else (dln (ddiv a st), false)

/-- The polynomial of R183. -/
def polyTemp (r : RegFile) (p : Nat) (tref : Nat) (x : Nat) : Int :=
  let u := ddiv (dsub tref (dint 25)) (dint 100)
  let t := [3, 2, 1, 0].foldl (fun (t : Nat) (j : Nat) =>
    let pj := [5, 4, 3, 2, 1, 0].foldl (fun (a : Nat) (i : Nat) => dadd (dmul a x) (f32to64 (rfRd r (.POLY_Coef p i j)))) (dint 0)
    dadd (dmul t u) pj) (dint 0)
  clampI (-32767) 32767 (dround (dmul (dint 64) t))

/-- The results of a pass (R182 – R186, R192); `free` stands for LnRatio, AlphaHat and X_RANGE of a bin without a mirror, which the spec
leaves open. -/
def passEntry (p w : Nat) (pass : PassSt) (sums sums2 : List (Int × Int × Bool)) (endNs2 : Option Int) (free : Nat → BitVec 64) (b : Nat) : DtsEntry :=
  let r := pass.cfg
  let q := p + 1
  let refs := (List.range (rfRd r (.REF_BINS_RefBins p))).map fun (k : Nat) => rfRd r (.REF_BINS_RefBin p) + k
  let mirror := rfRd r (.MIRROR_MirrorBin p)
  let bins := pass.bins
  let at1 := fun (i : Nat) => sums.getD i (0, 0, false)
  let at2 := fun (i : Nat) => sums2.getD i (0, 0, false)
  let one := fun (xs : List (Int × Int × Bool)) =>
    let v := sumBins xs
    (darkCorrect r p xs.length v.1 pass.darkA, darkCorrect r p xs.length v.2 pass.darkS)
  let two := fun (xs : List (Int × Int × Bool)) =>
    let v := sumBins xs
    (darkCorrect r q xs.length v.1 pass.dark2A, darkCorrect r q xs.length v.2 pass.dark2S)
  let v := one [at1 b]
  let ref := one (refs.map at1)
  let (lnb, low1) := lnRatio v.1 v.2
  let (lnr, lowR) := lnRatio ref.1 ref.2
  let zb := metres r p (binNs2 r p w b) 1
  let zr := metres r p (refs.foldl (fun (a : Int) (k : Nat) => a + binNs2 r p w k) 0) refs.length
  let dz := dsub zb zr
  let noMirror := pass.dual && (decide (mirror < b) || decide (bins ≤ mirror - b))
  let m := at2 (mirror - b)
  let v2 := two [m]
  let ref2 := two (refs.map fun (k : Nat) => at2 (mirror - k))
  let (lns, low2) := if noMirror then (dint 0, false) else lnRatio v2.1 v2.2
  let (lnsr, lowS) := if pass.dual then lnRatio ref2.1 ref2.2 else (dint 0, false)
  let low := low1 || lowR || (pass.dual && (low2 || lowS))
  let half := dscaled 1 (-1)
  let ln := if pass.dual then dmul half (dadd lnb lns) else lnb
  let x := if pass.dual then dsub ln (dmul half (dadd lnr lnsr))
    else dadd (dsub lnb lnr) (dmul (f32to64 (rfRd r (.ALPHA_Alpha p))) dz)
  let xlo := f32to64 (rfRd r (.X_LO_XLimit p))
  let xhi := f32to64 (rfRd r (.X_HI_XLimit p))
  let x1 := if dlt x xlo then xlo else x
  let x2 := if dlt xhi x1 then xhi else x1
  let range := dlt x xlo || dlt xhi x1
  let near := dlt (if dlt dz (dint 0) then fneg fmt64 dz else dz) (dint 100)
  let ahat := if near then 0x7FC00000
    else d64to32 (ddiv (dsub (dsub lns lnb) (dsub lnsr lnr)) (dmul (dint 2) dz))
  let tref := match pass.tref with | some t => some (dquot t pass.trefN) | none => none
  let temp : Int := if low || noMirror then -32768 else match tref with
    | some t => polyTemp r p t x2
    | none => -32768
  let samples := pass.shots * rfRd r (.DTS_CTRL_BinPos p) * (1 + rfRd r (.FE_CTRL_RamanRate p))
  let stokes := if dle0 v.2 then 0 else satU 32 (dround (ddiv (dmul v.2 (dint 65536)) (dint samples)))
  let beyond := match endNs2 with | some e => decide (e < binNs2 r p w b) | none => false
  let ovr := (at1 b).2.2 || (pass.dual && !noMirror && m.2.2)
  let open_ := free b
  { temp := temp,
    flags := bnat ovr + 2 * bnat low + 4 * bnat (if noMirror then open_.getLsbD 63 else range) + 8 * bnat beyond + 16 * bnat noMirror,
    ln := if noMirror then toS 32 open_.toNat else satS 32 (dround (dmul ln (dint (2 ^ 20)))),
    stokes := stokes,
    alpha := if noMirror && !near then open_.toNat / 2 ^ 32 else ahat }

/-- distance(E) + 2 × Δz in half ns of round trip, on a port with tones whose end is tracked (R192). -/
def State.endNs2 (s : State) (p w : Nat) (r : RegFile) : Option Int :=
  if (planOf r p w).tones.isEmpty || !s.on (.END_STATUS_Valid p) then none
  else some (2 * (rfRd r (.WIN_DELAY_Delay p w) : Int) + 8 * (s.rd (.END_STATUS_End p) + 2) + 4 * gaugeOf r p -
    2 * rfRd r (.FIBRE_ORIGIN_Origin p))

/-- The sums of a list of bins, in order, and whether a bad word was among them. -/
def State.readBins (s : State) (p : Fin 4) (bins : Nat) : List (Int × Int × Bool) × Bool :=
  let got := (List.range bins).map fun (b : Nat) => s.sramRead (0x10 + p) (dtsSram p) (16 * b) 16
  (got.map fun (g : List Byte × Bool) => (toS 48 (leAt g.1 0 6), toS 48 (leAt g.1 6 6), bit (leAt g.1 14 2) 0), got.any fun (g : List Byte × Bool) => g.2)

/-- One update of a bin: LastT is written, or kept, and the sums and the mark word are cleared (R181). -/
def State.clearBin (s : State) (p : Fin 4) (b : Nat) (last : Option Int) : State :=
  let ((bs, _), s) := s.sramLoad (0x10 + p) (dtsSram p) (16 * b) 16
  s.sramWrite (0x10 + p) (dtsSram p) (16 * b) (zeros 12 ++ (match last with | some t => leS 2 t | none => slice bs 12 2) ++ zeros 2)

/-- The visit of a completion pass: the bins in increasing order, each with its result, LastT and cleared sums in one update; then those of the secondary
(R181 – R186, R192). -/
def State.visitPass (s : State) (p : Fin 4) (pass : PassSt) : PassSt × State :=
  let q := partner p
  let (sums, bad) := s.readBins p pass.bins
  let (sums2, bad2) := s.readBins q pass.bins2
  let ctr := s.freeCtr
  let es := (List.range pass.bins).map
    (passEntry p (bnat pass.watch) pass sums sums2 (s.endNs2 p (bnat pass.watch) pass.cfg) fun (b : Nat) => Config.freeWord (ctr + b))
  let old := (List.range pass.bins).map fun (b : Nat) => toS 16 (leNat (s.sramRead (0x10 + p) (dtsSram p) (16 * b + 12) 2).1)
  let s := { s with freeCtr := ctr + pass.bins }
  let s := es.zipIdx.foldl (fun (s : State) (x : DtsEntry × Nat) => s.clearBin p x.2 (some (if pass.cut then -32768 else x.1.temp))) s
  let s := (List.range pass.bins2).foldl (fun (s : State) (b : Nat) => s.clearBin q b none) s
  let ovr := fun (xs : List (Int × Int × Bool)) => xs.map fun (x : Int × Int × Bool) => x.2.2
  ({ pass with seen := some { entries := es, old := old, ovr := ovr sums, ovr2 := ovr sums2 }, flags := pass.flags ||| bnat (bad || bad2) * 2 ^ 8 }, s)

/-- Every pass of a list visits its bins, the oldest first. -/
def visitAll (p : Fin 4) : List PassSt → State → List PassSt × State
  | [], s => ([], s)
  | x :: xs, s =>
    let (x, s) := if x.seen.isSome then (x, s) else s.visitPass p x
    let (xs, s) := visitAll p xs s
    (x :: xs, s)

/-- The passes that wait on a port's bins, its own and its primary's, visit them before anything else is added (R181). -/
def State.visitPasses (s : State) (p : Fin 4) : State :=
  [p, partner p].foldl (fun (s : State) (k : Fin 4) =>
    let (xs, s) := visitAll k (s.ramOf k).passes s
    s.updRam k fun (g : RamSt) => { g with passes := xs }) s

/-- Include a Raman shot in the accumulation (R178 – R180, R182). -/
def State.includeShot (s : State) (p : Fin 4) (shot : Shot) (w : RamanWin) (ra rs : List Conv) : State :=
  let r := shot.cfg
  let binPos := rfRd r (.DTS_CTRL_BinPos p)
  let start := rfRd r (.BIN_START_BinStart p)
  let o2 := 2 * w.openAt
  let s := s.visitPasses p
  let new := (s.ramOf p).shots == 0 && (s.ramOf p).prevD.isNone
  let s := (List.range (rfRd r (.BIN_COUNT_Bins p))).foldl (fun (s : State) (b : Nat) =>
    let lo := start + b * binPos
    let a := inPositions o2 lo (lo + binPos) ra
    let t := inPositions o2 lo (lo + binPos) rs
    s.addBin p b (sumCodes a) (sumCodes t) ((a ++ t).any fun (x : Conv) => x.ovr) new) s
  let ds := rfRd r (.DARK_START_DarkStart p)
  let de := ds + rfRd r (.DARK_LEN_DarkLen p)
  let cold := (ra ++ rs).any fun (x : Conv) => x.cold
  let clip := (inPositions o2 ds de (ra ++ rs)).any fun (x : Conv) => x.ovr
  s.updRam p fun (g : RamSt) =>
    { g with shots := g.shots + 1, darkA := g.darkA + sumCodes (inPositions o2 ds de ra), darkS := g.darkS + sumCodes (inPositions o2 ds de rs),
             first := if g.shots = 0 then shot.dev else g.first, last := shot.dev,
             firstX := if g.shots = 0 then shot.at_ else g.firstX, lastX := shot.at_, flags := g.flags ||| bnat cold * 2 ^ 6 ||| bnat clip * 2 }

/-- Start the completion pass of a port or of a pair whose primary it is (R181, R184, R185). With `cut` the set is partial and
LastT is dropped (R188). -/
def State.startPass (s : State) (p : Fin 4) (cut : Bool) : State :=
  let q := partner p
  let pair := isPrimary s.regs p
  let s := s.visitPasses p
  let dual := pair && decide (0 < (s.ramOf q).shots)
  let bins := s.rd (.BIN_COUNT_Bins p)
  let g := s.ramOf p
  let g2 := s.ramOf q
  let last := if dual then g2.last else g.last
  let lastX := if dual then g2.lastX else g.lastX
  let (tref, trefN, fault) := s.tref p g.first last
  let cal := fun (k : Fin 4) => match (s.feOf k).calRam with | some t => decide (g.firstX < t ∧ t ≤ lastX) | none => false
  let flags := g.flags ||| (if pair then g2.flags else 0) ||| bnat cut * 2 ^ 4 ||| bnat fault * 2 ^ 11 |||
    bnat (cal p || (dual && cal q)) * 2 ^ 7 ||| s.spanFlags g.firstX lastX
  let pass : PassSt :=
    { darkA := g.darkA, darkS := g.darkS, dark2A := g2.darkA, dark2S := g2.darkS, seen := none, bins := bins,
      bins2 := if dual then s.rd (.BIN_COUNT_Bins q) else 0, shots := g.shots,
      shots2 := if dual then g2.shots else 0, dual := dual, tref := tref, trefN := trefN, flags := flags,
      epoch := s.fnEpoch (fnPort p), firstT := g.first, lastT := last, startD := s.now, prevD := g.prevD, cut := cut,
      watch := (s.ports.get p).probe.slot == 1, cfg := s.regs }
  let s := s.updRam p fun (g : RamSt) => { g with passes := g.passes ++ [pass], prevD := if cut then none else some s.now, hand := false }
  let s := s.clearAcc p
  if pair then s.clearAcc q else s

/-- No bin of a port has a last temperature any more (R179, R188); where no set has given one, the first shot to come writes that. -/
def State.dropTemps (s : State) (p : Fin 4) : State :=
  if (s.ramOf p).prevD.isNone then s
  else (List.range (s.rd (.BIN_COUNT_Bins p))).foldl (fun (s : State) (b : Nat) =>
    s.sramWrite (0x10 + p) (dtsSram p) (16 * b + 12) (leS 2 (-32768))) s

/-- End the accumulation of a port, or of its pair, early (R188). Without an included shot nothing is emitted, and LastT of every bin becomes −32,768. A shot
whose window is open then is included nowhere and counts in no SKIP_COUNT. DESIGN CHOICE, unsafe: log 48. -/
def State.cutAcc (s : State) (p : Fin 4) : State :=
  let m := primaryOf s.regs p
  let s := s.visitPasses m
  let stray := fun (q : PortSt) => { q with rwin := q.rwin.map fun (w : RamanWin) => { w with stray := true } }
  let s := s.updPort m stray
  let s := if isPrimary s.regs m then s.updPort (partner m) stray else s
  if 0 < (s.ramOf m).shots then s.startPass m true
  else
    let s := ((s.dropTemps m).updRam m fun (g : RamSt) => { g with prevD := none, hand := false }).clearAcc m
    if isPrimary s.regs m then s.clearAcc (partner m) else s

/-- RAMAN_WINDOW_OPEN: the Raman window opens RamanDelay after RTRIG (R67). -/
def execRamanWindowOpen (p : Fin 4) (s : State) : Out :=
  match (s.ports.get p).rwin with
  | none => .next s
  | some w =>
    if !w.opened && s.due w.openAt then
      .next ((s.lastWindow p w.closeAt).updPort p fun (q : PortSt) => { q with rwin := some { w with opened := true } })
    else .next s

/-- An excluded Raman shot (R180); `gap` marks one lost to a clock loss (R191). -/
def State.skipShot (s : State) (p : Fin 4) (gap : Bool) : State :=
  (s.inc (.SKIP_COUNT_Skipped p) 1).updRam p fun (g : RamSt) => { g with flags := g.flags ||| 2 ^ 12 ||| bnat gap * 2 ^ 3 }

/-- The N-th shot is in: the pass starts, or a primary hands over to its secondary (R181, R185). -/
def State.accDone (s : State) (p : Fin 4) : State :=
  let s := s.showDts p
  if (s.ramOf p).shots < 2 ^ s.rd (.DTS_CTRL_AccLog p) then s
  else if isPrimary s.regs p then (s.updRam p fun (g : RamSt) => { g with hand := true }).showDts p |>.showDts (partner p)
  else if isSecondary s.regs p then (s.startPass (partner p) false).showDts p
  else s.startPass p false

/-- RAMAN_WINDOW_CLOSE: `ra` and `rs` are the samples whose instants lie in the window, after `ramanPre` samples before it (R91, R94, R106, R180). -/
def execRamanWindowClose (p : Fin 4) (ra rs : List Sample) (s : State) : Out :=
  let q := s.ports.get p
  match (if q.rcut.isSome then q.rcut else q.rwin) with
  | none => .next s
  | some w =>
    if !w.opened || !s.due w.closeAt then .next s
    else
      let drop := fun (s : State) => s.updPort p fun (q : PortSt) =>
        (if q.rcut.isSome then { q with rcut := none } else { q with rwin := none } : PortSt).dropShots
      match q.shots.find? fun (h : Shot) => h.id == w.shot with
      | none => .next (drop s)
      | some shot =>
        if w.dead && w.stray then .next (drop s)
        else if w.dead then .next ((drop s).skipShot p true)
        else
          let cfg := fun (_ : Nat) => shot.cfg
          let half := if rfRd shot.cfg (.FE_CTRL_RamanRate p) = 1 then 4 else 8
          let bounds := s.gridBounds p
          let h0 := gridFrom bounds half (2 * w.openAt)
          let grid := gridRun bounds (fun (_ : Nat) => half) (2 * (w.closeAt - w.openAt) / half + 1 + bounds.length) h0
          let n := ramanPre half + (grid.filter fun (h : Nat) => decide (h < 2 * w.closeAt)).length
          if ra.length ≠ n ∨ rs.length ≠ n then .next s
          else
            let ca := s.convRam p cfg 4 (ramanPre half) (ramanHs bounds (fun (_ : Nat) => half) h0 ra)
            let cs := s.convRam p cfg 5 (ramanPre half) (ramanHs bounds (fun (_ : Nat) => half) h0 rs)
            let s := (s.countOvr p 2 ca (.OVR_CNT_R_RA p)).countOvr p 3 cs (.OVR_CNT_R_RS p)
            let s := ((s.capTake p ca).capTake p cs)
            let s := drop (s.capClose p true)
            if w.stray then .next s
            else if (ca ++ cs).any fun (x : Conv) => x.invalid then .next (s.skipShot p false)
            else .next ((s.includeShot p shot w ca cs).accDone p)

/-! Records (R193, R194) -/

/-- The records of a DTS set (R193, R194). -/
def dtsRecords (p : Nat) (pass : PassSt) (tref : Int) (seq : Nat) : Nat → Nat → List DtsEntry → List (List Byte)
  | 0, _, _ => []
  | k + 1, b0, es =>
    if es.isEmpty then []
    else
      let r := pass.cfg
      let n := max 1 (rfRd r (.DTS_CTRL_RecBins p))
      let e := es.take n
      let any := fun (i : Nat) => e.any fun (x : DtsEntry) => bit x.flags i
      let refs := (List.range (rfRd r (.REF_BINS_RefBins p))).map fun (k : Nat) => rfRd r (.REF_BINS_RefBin p) + k
      let clip := match pass.seen with
        | some v => refs.any fun (b : Nat) => v.ovr.getD b false || (pass.dual && v.ovr2.getD (rfRd r (.MIRROR_MirrorBin p) - b) false)
        | none => false
      let flags := pass.flags ||| bnat (any 0 || clip) * 2 ||| bnat (any 3) * 2 ^ 5
      mkRecord (if pass.dual then 0x0202 else 0x0201) pass.epoch flags pass.firstT
        (le 1 p ++ le 1 (bnat pass.dual) ++ le 1 (rfRd r (.DTS_CTRL_BinPos p)) ++ le 1 (rfRd r (.FE_CTRL_RamanRate p)) ++ le 4 b0 ++
          le 2 e.length ++ leS 2 tref ++ le 4 pass.shots ++ le 4 pass.shots2 ++ le 4 seq ++ le 8 pass.lastT ++
          e.flatMap fun (x : DtsEntry) => leS 2 x.temp ++ le 2 x.flags ++ leS 4 x.ln ++ le 4 x.stokes ++
            (if pass.dual then le 4 x.alpha else [])) ::
        dtsRecords p pass tref seq k (b0 + n) (es.drop n)

/-- The bins that rise faster than RiseThr (R196). DESIGN CHOICE, unsafe: log 49. -/
def State.risen (s : State) (pass : PassSt) (es : List DtsEntry) (old : List Int) : Bool :=
  match pass.prevD with
  | none => false
  | some t =>
    (es.zip old).any fun (x : DtsEntry × Int) =>
      x.1.temp != -32768 && x.2 != -32768 &&
        decide ((s.rd .WAKE_DTS_RiseThr : Int) * ((pass.startD - t : Nat) : Int) < (x.1.temp - x.2) * 60000000000)

/-- The completion pass of a port has visited every bin: results, LastT, records, alarm (R181 – R194). Answers whether a bin
wakes the device (R196). The first set since reset that carries REF_FAULT raises DTS_REF_FAULT though no set came before it (R184).
DESIGN CHOICE, unsafe: log 48. -/
def State.finishPass (s : State) (p : Fin 4) (pass : PassSt) : Bool × State :=
  let (pass, s) := if pass.seen.isSome then (pass, s) else s.visitPass p pass
  let (es, old) := match pass.seen with | some v => (v.entries, v.old) | none => ([], [])
  let tref : Int := match pass.tref with
    | some t => satS 16 (roundDiv (t * 64) pass.trefN)
    | none => -32768
  let seq := s.rd (.DTS_SEQ_AccSeq p)
  let s := (dtsRecords p pass tref seq es.length 0 es).foldl (fun (s : State) (b : List Byte) => s.offer 4 b) s
  let s := s.wr (.DTS_SEQ_AccSeq p) (seq + 1)
  let fault := bit pass.flags 11
  let s := if fault && !s.on (.DTS_STATUS_RefFault p) then s.raise 0x0105 p 0 else s
  let s := s.wrB (.DTS_STATUS_RefFault p) fault
  let s := s.updRam p fun (g : RamSt) => { g with temps := es.map fun (e : DtsEntry) => e.temp, setAt := some s.xt }
  (pass.watch && s.on .WAKE_DTS_Enable && s.risen pass es old, s)

end Sys2Proof.Machine
end

