-- ==== Sys2Proof/Machine/AuxConv.lean ====
section
/-! DEFINITION. The auxiliary converter and the zone outputs (R197 – R207, R546). -/
namespace Sys2Proof.Machine

/-- Update the auxiliary converter. -/
def State.updAux (s : State) (f : AuxSt → AuxSt) : State := { s with aux := f s.aux }
/-- Update a thermocouple input. -/
def State.updTc (s : State) (k : Fin 4) (f : TcSt → TcSt) : State :=
  s.updAux fun (a : AuxSt) => { a with tcs := vupd a.tcs k f }

/-! Tables (R200) -/

/-- X[i] of a table. -/
def tblX (r : RegFile) (t i : Nat) : Int := rfRdS r (.TBL_X_Point t i)
/-- Y[i] of a table. -/
def tblY (r : RegFile) (t i : Nat) : Int := rfRdS r (.TBL_Y_Point t i)

/-- The largest i below n with X[i] ≤ v; 0 when there is none. -/
def segOf (r : RegFile) (t : Nat) (v : Int) : Nat → Nat
  | 0 => 0
  | i + 1 => if tblX r t i ≤ v then i else segOf r t v i

/-- pwl of R200: the value, and whether it clamped. -/
def pwl (r : RegFile) (t : Nat) (v : Int) : Int × Bool :=
  let n := rfRd r (.TBL_SEG_Segments t)
  if v < tblX r t 0 then (tblY r t 0, true)
  else if tblX r t n < v then (tblY r t n, true)
  else
    let i := segOf r t v n
    let num := (v - tblX r t i) * (tblY r t (i + 1) - tblY r t i)
    (toS 32 (ofS 32 (tblY r t i + roundDiv num (tblX r t (i + 1) - tblX r t i))), false)

/-! Scans (R197, R202) -/

/-- Length of a slot of a scan, ns. -/
def slotLen (r : RegFile) : Nat := 1000000000 / (5 * max 1 (rfRd r .AUX_CTRL_AuxRate))

/-- The 0x0203 record (R202). -/
def State.tcRecord (s : State) (c : ScanRec) : List Byte :=
  mkRecord 0x0203 c.epoch (s.timeFlags c.at_ s.xt ||| s.supplyFlag c.at_ s.xt) c.dev
    (le 1 c.enabled ++ le 1 (c.open_ + 16 * c.oot) ++ le 1 (bnat c.cjOot) ++ zeros 1 ++ le 4 c.seq ++ leS 4 c.cj ++
      c.temp.flatMap (fun (v : Int) => leS 4 v) ++ c.volt.flatMap (fun (v : Int) => leS 4 v) ++ zeros 4)

/-- Emit the records of scans whose last value has been released, oldest first. -/
def flushScans : List ScanRec → State → State
  | [], s => s.updAux fun (a : AuxSt) => { a with recs := [] }
  | c :: cs, s =>
    if c.waiting.isEmpty then flushScans cs (s.offer 4 (s.tcRecord c))
    else s.updAux fun (a : AuxSt) => { a with recs := c :: cs }

/-- Change the record of a scan and drop an input from those it waits for. -/
def State.noteScan (s : State) (seq input : Nat) (f : ScanRec → ScanRec) : State :=
  flushScans (s.aux.recs.map fun (c : ScanRec) =>
    if c.seq = seq ∧ c.waiting.contains input then
      let c := f c
      { c with waiting := c.waiting.filter fun (i : Nat) => i != input }
    else c) s

/-- The converter starts: in ACTIVE and SENTINEL (R203). -/
def State.auxStart (s : State) : State :=
  if s.aux.running then s
  else (s.updAux fun (a : AuxSt) => { a with running := true, active := false, nextAt := s.xt, base := s.xt, count := 0 }).wr .AUX_STATUS_Running 1

/-- The converter stops: in QUIESCENT, SUSPEND and HOLD (R203). Conversions not yet released are dropped, and so are the records of scans that still
wait for a value. DESIGN CHOICE, unsafe: log 136. -/
def State.auxStop (s : State) : State :=
  ((s.updAux fun (a : AuxSt) =>
    { a with running := false, active := false, recs := [],
             tcs := a.tcs.map fun (t : TcSt) => { t with conv := none, pulsed := false, done := false, mark := false } }).wr
    .AUX_STATUS_Running 0).takeAllEpochs fnAux s.now

/-- A disabled input keeps no conversion; its values stay out of the records that waited for it. -/
def State.dropTc (s : State) (k : Fin 4) : State :=
  match (s.aux.tcs.get k).conv with
  | none => s.updTc k fun (t : TcSt) => { t with mark := false }
  | some c => (s.updTc k fun (t : TcSt) => { t with conv := none, mark := false }).noteScan c.scan k fun (r : ScanRec) => r

/-- AUX_SCAN_START: a scan begins, AuxRate times per second, and the converter switches epoch (R197). The D-th scan is counted
from reset, by ScanSeq + 1 modulo D, not from the epoch that set D (R202); Volt of an input that is not enabled is 0. DESIGN CHOICE, unsafe: log 50. -/
def execAuxScanStart (s : State) : Out :=
  if !s.aux.running || !s.due s.aux.nextAt then .next s
  else
    let s := s.takeEpoch fnAux s.now
    let en := s.rd .AUX_CTRL_TcEnable
    let s := (List.finRange 4).foldl (fun (s : State) (k : Fin 4) =>
      let s := s.updTc k fun (t : TcSt) => { t with pulsed := false, done := false }
      if bit en k then s else s.dropTc k) s
    let at_ := s.aux.nextAt
    let seq := s.aux.seq
    let div := s.rd .AUX_CTRL_TcRecDiv
    let rate := max 1 (s.rd .AUX_CTRL_AuxRate)
    let same := rfRd s.aux.cfg .AUX_CTRL_AuxRate == rate && s.aux.active
    let base := if same then s.aux.base else at_
    let count := if same then s.aux.count + 1 else 1
    let rec_ : ScanRec :=
      { seq := seq, dev := s.devAt at_, at_ := at_, epoch := s.fnEpoch fnAux, enabled := en,
        waiting := ((List.range 4).filter fun (k : Nat) => bit en k) ++ [4], open_ := 0, oot := 0, cjOot := false, cj := 0,
        temp := List.replicate 4 (-2147483648), volt := List.replicate 4 0 }
    .next (s.updAux fun (a : AuxSt) =>
      { a with scanAt := at_, scanDev := s.devAt at_, nextAt := base + count * 1000000000 / rate, base := base, count := count, seq := seq + 1, active := true,
               cjDone := false, cfg := s.regs, recs := if div ≠ 0 ∧ (seq + 1) % div = 0 then a.recs ++ [rec_] else a.recs })

/-- Keep the good values that a running accumulation can still use, and the latest. -/
def State.pruneGood (s : State) (xs : List (Nat × Int)) : List (Nat × Int) :=
  let from_ := (List.finRange 4).foldl (fun (m : Nat) (p : Fin 4) => if (s.ramOf p).shots = 0 then m else min m (s.ramOf p).first) (2 ^ 64)
  match xs with
  | [] => []
  | v :: vs => v :: vs.filter fun (x : Nat × Int) => decide (from_ ≤ x.1)

/-- Release a conversion (R199, R201): `late` is the mark of the pulse after it. -/
def State.releaseTc (s : State) (k : Fin 4) (c : TcConv) (late : Bool) : State :=
  let open_ := c.openBefore || late
  let r := c.cfg
  let v := roundDiv (c.code * 125) 8
  let comp := bit (rfRd r .AUX_CTRL_CjComp) k
  let (cjv, o1) := if comp then pwl r 4 (s.rdS .CJ_VALUE_Value) else (0, false)
  let (t, o2) := pwl r (rfRd r .TC_TABLE_Table / 2 ^ (2 * k.val) % 4) (v + cjv)
  let oot := o1 || o2
  let was := bit (s.rd .AUX_STATUS_Open) k
  let s := (s.wr .AUX_STATUS_Open (setBit (s.rd .AUX_STATUS_Open) k open_)).wr .AUX_STATUS_OutOfTable (setBit (s.rd .AUX_STATUS_OutOfTable) k oot)
  let s := s.wrS (.TC_VOLT_Volt k) v
  let s := if open_ then s else s.wrS (.TC_VALUE_Value k) t
  let s := s.updTc k fun (q : TcSt) =>
    { q with conv := none, at_ := if open_ then q.at_ else some s.xt, good := if open_ || oot then q.good else s.pruneGood ((c.mid, t) :: q.good) }
  let s := if open_ && !was then s.raise 0x0106 k 0 else if was && !open_ then s.raise 0x0107 k 0 else s
  s.noteScan c.scan k fun (x : ScanRec) =>
    { x with open_ := setBit x.open_ k open_, oot := setBit x.oot k oot, volt := x.volt.set k v,
             temp := x.temp.set k (if open_ then -2147483648 else t) }

/-- BURNOUT_PULSE_END: the pulse of input k ends; `rise` is the input voltage at its end less that just before it, nV (R199). -/
def execBurnoutPulseEnd (k : Fin 4) (rise : Int) (s : State) : Out :=
  let a := s.aux
  let t := a.tcs.get k
  let at_ := a.scanAt + k.val * slotLen a.cfg + 200000
  if !a.active || t.pulsed || !bit (rfRd a.cfg .AUX_CTRL_TcEnable) k || !s.due at_ then .next s
  else
    let mark := decide (50000000 < rise)
    let s := s.updTc k fun (t : TcSt) => { t with pulsed := true, mark := mark }
    .next (match t.conv with
      | some c => s.releaseTc k c mark
      | none => s)

/-- AUX_CONVERSION_END: the conversion of slot 0 – 3, a thermocouple code, or of slot 4, the cold-junction sensor in m°C, ends
(R197, R198, R201). AUX_STATUS.CjOutOfTable and CjStatus follow the clamping of table 4 even while no CjComp bit is set. DESIGN CHOICE, unsafe: log 50. -/
def execAuxConversionEnd (slot : Fin 5) (value : BitVec 32) (s : State) : Out :=
  let a := s.aux
  let len := slotLen a.cfg
  let at_ := a.scanAt + slot.val * len
  if !a.active || !s.due (at_ + len) then .next s
  else if slot.val = 4 then
    if a.cjDone then .next s
    else
      let cj := value.toInt + rfRdS a.cfg .CJ_OFFSET_CjOffset
      let oot := (pwl a.cfg 4 cj).2
      let s := ((s.updAux fun (a : AuxSt) => { a with cjDone := true }).wrS .CJ_VALUE_Value cj).wrB .AUX_STATUS_CjOutOfTable oot
      .next (s.noteScan (a.seq - 1) 4 fun (x : ScanRec) => { x with cj := cj, cjOot := oot })
  else
    let k : Fin 4 := fin 3 slot.val
    let t := a.tcs.get k
    if t.done || !t.pulsed then .next s
    else
      let mid := at_ + 500000 + (len - 500000) / 2
      .next (s.updTc k fun (t : TcSt) =>
        { t with done := true, conv := some { code := toS 24 value.toNat, mid := s.devAt mid, openBefore := t.mark, scan := a.seq - 1, cfg := a.cfg } })

/-! Zone outputs (R204 – R206) -/

/-- The source value of a zone, or none when the source is lost (R205, R206); a secondary's zone sources are unused (R187). -/
def State.zoneSource (s : State) (z : Fin 8) : Option Int :=
  let late := fun (t : Option Nat) => match t with
    | some t => decide (t + s.rd (.ZONE_TIMEOUT_Timeout z) * 100000000 < s.xt)
    | none => true
  let first := s.rd (.ZONE_FIRST_Index z)
  let n := s.rd (.ZONE_LAST_Index z) + 1 - first
  let p : Fin 4 := fin 3 (s.rd (.ZONE_CFG_Port z))
  match s.rd (.ZONE_CFG_Source z) with
  | 1 =>
    let g := s.ramOf p
    if late g.setAt || isSecondary s.regs p then none
    else match ((g.temps.drop first).take n).filter fun (t : Int) => t != -32768 with
      | [] => none
      | t :: ts => some (ts.foldl max t)
  | 2 =>
    let r := s.rd (.ZONE_CFG_Range z)
    let q := s.zone.zones.get z
    if late q.at_ || !s.on (.RANGE_START_Enable p r) || s.rd (.RANGE_CFG_Product p r) != 2 then none
    else match q.most with
      | some v => some v
      | none => match q.value with
        | some v => some v
        | none => none
  | 3 =>
    let k : Fin 4 := fin 3 (s.rd (.ZONE_CFG_Tc z))
    if late (s.aux.tcs.get k).at_ || bit (s.rd .AUX_STATUS_Open) k || !bit (s.rd .AUX_CTRL_TcEnable) k then none
    else some (s.rdS (.TC_VALUE_Value k))
  | _ => none

/-- The code of a zone for a source value (R204). -/
def State.zoneCode (s : State) (z : Fin 8) (v : Int) : Nat :=
  let lo := s.rdS (.ZONE_LO_Level z)
  let hi := s.rdS (.ZONE_HI_Level z)
  (clampI 3277 62259 (6554 + roundDiv ((v - lo) * 52428) (hi - lo))).toNat

/-- Every zone goes to fault level: HOLD, QUIESCENT (R206). -/
def State.zonesFault (s : State) : State :=
  (List.finRange 8).foldl (fun (s : State) (z : Fin 8) => (s.wr (.ZONE_OUT_Code z) 2621).wr (.ZONE_OUT_Lost z) 1) s

/-- One zone takes its source value and drives a new code (R204, R205). -/
def State.zoneUpdate (s : State) (z : Fin 8) : State :=
  let src := s.zoneSource z
  let s := match src with
    | some v => (s.wr (.ZONE_OUT_Code z) (s.zoneCode z v)).wr (.ZONE_OUT_Lost z) 0
    | none => (s.wr (.ZONE_OUT_Code z) 2621).wr (.ZONE_OUT_Lost z) 1
  { s with zone := { s.zone with zones := vupd s.zone.zones z fun (q : ZoneSt) =>
    { q with most := none, value := match q.most with | some v => some v | none => q.value } } }

/-- V_RATIO is below 2.25 V: every zone drives 0 V with Lost = 1, and the alarm is raised once (R546). -/
def State.ratioLow (s : State) : State :=
  if s.zone.low then s
  else
    let s := { s with zone := { s.zone with low := true } }
    ((List.finRange 8).foldl (fun (s : State) (z : Fin 8) => s.wr (.ZONE_OUT_Lost z) 1) s).raise 0x0709 0 0

/-- ZONE_UPDATE: at each multiple of 100 ms of device time every zone drives a new code; `mv` is V_RATIO in mV (R205, R546). -/
def execZoneUpdate (mv : Nat) (s : State) : Out :=
  let k := s.now / 100000000
  let fresh := match s.zone.last with | some l => decide (l < k) | none => true
  if !fresh || s.pwr == 0 || s.pwr == 5 then .next s
  else
    let s := { s with zone := { s.zone with last := some k, low := s.zone.low && decide (mv < 2350) } }
    if mv < 2250 then .next s.ratioLow
    else if s.zone.low then .next s
    else if s.pwr = 1 ∨ s.pwr = 4 then .next s.zonesFault
    else .next ((List.finRange 8).foldl (fun (s : State) (z : Fin 8) => s.zoneUpdate z) s)

/-- VRATIO_LOW: V_RATIO is below 2.25 V: every zone drives 0 V with Lost = 1 (R546). -/
def execVratioLow (s : State) : Out := .next s.ratioLow

/-- A zone's voltage as a fraction of V_RATIO, in 1/65,536, or none for high impedance (R204, R206, R546). -/
def State.zoneDrive (s : State) (z : Fin 8) : Option Nat :=
  if s.pwr = 5 ∨ s.power.off = true then none else if s.zone.low then some 0 else some (s.rd (.ZONE_OUT_Code z))

/-- A change of a zone's settings discards its held band maximum (R206); `old` are the registers before. -/
def State.zoneSwitched (s : State) (old : RegFile) : State :=
  (List.finRange 8).foldl (fun (s : State) (z : Fin 8) =>
    let same := (List.range 6).all fun (i : Nat) => rfWord old (0x200100 + 0x20 * z.val + 4 * i) == rfWord s.regs (0x200100 + 0x20 * z.val + 4 * i)
    if same then s
    else { s with zone := { s.zone with zones := vupd s.zone.zones z fun (_ : ZoneSt) => ⟨none, none, none⟩ } }) s

end Sys2Proof.Machine
end

