-- ==== Sys2Proof/Machine/Time.lean ====
section
/-! DEFINITION. The time base: the crystal tick, discipline, steps and slews, holdover, PPS_OUT, SYNC_OUT and the ring 13
records of time (R438 – R456). -/
namespace Sys2Proof.Machine

/-- Update the time base. -/
def State.updTime (s : State) (f : TimeSt → TimeSt) : State := { s with time := f s.time }

/-- TimeSrc in force (R441). -/
def State.timeSrc (s : State) : Nat := s.rd .TIME_CFG_TimeSrc

/-- The ageing slope in use, LSB 0.001 ppb/day (R449). -/
def State.ageSlope (s : State) : Int :=
  if s.on .TIME_CFG_AgeSrc || decide (s.rd .AGE_DAYS_Value < 3) then s.rdS .AGE_SLOPE_Slope else s.rdS .AGE_LEARNED_Value

/-- PPS_OUT is held low (R452). -/
def State.ppsHeld (s : State) : Bool :=
  s.on .TIME_CFG_PpsOutGate && (s.rd .TIME_STATE_State != 3 || s.time.pendStep.isSome)

/-- The level of PPS_OUT (R452). -/
def State.ppsOutLevel (s : State) : Bool := s.time.ppsOut && s.on .TIME_CFG_PpsOutEn && !s.ppsHeld

/-- The stretches in which records carry TIME_HOLDOVER, kept at each tick (R51, R441). -/
def TimeSt.noteLow (t : TimeSt) (low : Bool) (xt : Nat) : TimeSt :=
  match low, t.lowFrom with
  | true, none => { t with lowFrom := some xt }
  | false, some a => { t with lowFrom := none, lowSpans := ((a, xt) :: t.lowSpans).take 32 }
  | _, _ => t

/-- A change of σ's course is logged: from the present tick it starts at σ and changes by `rate` at each tick (R214, R439). -/
def TimeSt.noteSig (t : TimeSt) (rate : Int) : TimeSt := { t with sigLog := ((t.ticks, t.sig48, rate) :: t.sigLog).take 64 }

/-- c of the ageing model at a value of Λ (R448). Seconds since t_h are counted on Λ, which goes on through a reset and SUSPEND (R450).
DESIGN CHOICE, unsafe: log 82. -/
def State.agedCorr (s : State) (lam : Nat) : Nat :=
  let secs := ddiv (dint (asr ((lam : Int) - s.time.holdLam) 48)) (ddec 1000000000 0)
  let a := ddiv (dint s.ageSlope) (dint 1000000000000)
  dadd s.time.holdCorr (ddiv (dmul a secs) (dint 86400))

/-- CYCLES counts the CORE cycles of a core that runs or waits: 30 of 1.2 GHz to a crystal tick. -/
def State.countCycles (s : State) : State :=
  (List.range 16).foldl (fun (s : State) (n : Nat) =>
    if s.rd (.CORE_STATUS_State n) = 1 ∨ s.rd (.CORE_STATUS_State n) = 2 then s.inc64 (.CYCLES_LO_Cycles n) 30 else s) s

/-- One crystal tick (R439): Λ advances by inc, σ by the slew in progress; in FREE, ACQUIRING and HOLDOVER c follows the
ageing model (R448). Where the crystal does not count as running, 25 ns pass on AON only (R450). -/
def State.tick (s : State) : State :=
  if !s.xtal.running then { s with xtal := { s.xtal with aonNow := s.xtal.aonNow + 25 } } else
  let t := s.time
  let st := s.rd .TIME_STATE_State
  let ds : Int := if 0 ≤ t.slewLeft then min t.slewRate t.slewLeft else max t.slewRate t.slewLeft
  let ds := if t.slewLeft = 0 then 0 else ds
  let lam := t.lam48 + (incOf t.corr).toNat
  let corr := if st = 2 ∨ st = 3 then t.corr else s.agedCorr lam
  let t := t.noteLow s.timeLow s.xt
  let t := if ds = (match t.sigLog with | [] => 0 | e :: _ => e.2.2) then t else t.noteSig ds
  let out := s.ppsOutLevel
  let s := if s.locked 1 then s.countCycles else s
  { s with time := { t with ticks := t.ticks + 1, lam48 := lam, sig48 := t.sig48 + ds,
                            slewLeft := t.slewLeft - ds, corr := corr, ppsOut := out },
           xtal := { s.xtal with aonNow := s.xtal.aonNow + 25 } }

/-- FREQ_CORR: c with LSB 2^-48 (R443). -/
def State.freqCorr (s : State) : Int := dround (dmul s.time.corr (dint (2 ^ 48)))

/-- The 0x0903 record of a device time (R455). -/
def State.timeRecord (s : State) (at_ : Nat) : List Byte :=
  mkRecord 0x0903 s.curEpoch (s.timeFlags s.xt s.xt) at_
    (le 1 (s.rd .TIME_STATE_State) ++ le 1 (s.rd .TIME_STATE_Labelled) ++ zeros 2 ++ le 4 (s.rd .PHASE_ERR_Err) ++
      leS 8 s.freqCorr ++ leS 4 s.ageSlope ++ le 2 (s.rd .AGE_DAYS_Value) ++ zeros 2 ++ le 8 (s.rd64 .HOLD_START_LO_Time))

/-- Emit the 0x0903 record now; on a multiple of TimeRecSec it stands for that multiple's too, and carries its time (R455). -/
def State.emitTime (s : State) : State :=
  let n := s.rd .TIME_CFG_TimeRecSec * 1000000000
  let hit := decide (n ≠ 0 ∧ s.now % n < 25)
  let s := if hit then s.updTime fun t => { t with recLast := some (s.now / n) } else s
  if s.power.released then s.offer 13 (s.timeRecord (if hit then s.now / n * n else s.now)) else s

/-- Change the state of the time base (R441, R448, R449, R455). -/
def State.setTimeState (s : State) (st : Nat) : State :=
  let was := s.rd .TIME_STATE_State
  if was = st then s
  else
    let good := fun (k : Nat) => k == 2 || k == 3
    let s := s.updTime fun t =>
      { t with refFrom := if good st then (if good was then t.refFrom else some s.xt) else none,
               corrLog := if good st && !good was then [(s.xt, t.corr)] else t.corrLog,
               dayFrom := if st = 3 then some (s.now, s.xt) else none,
               disciplinedOnce := t.disciplinedOnce || st == 3 }
    let s := s.wr .TIME_STATE_State st
    let s := if st = 4 then s.wr64 .HOLD_START_LO_Time s.now else s
    let s := if st = 3 then s.raise 0x0604 s.timeSrc (s.rd .TIME_STATE_Labelled) else s
    s.emitTime

/-- The exact sum of c over a stretch of the crystal count, scaled by 2^1074 (binary64's smallest step), ns. -/
def corrSum : List (Nat × Nat) → Nat → Nat → Int
  | [], _, _ => 0
  | (f, c) :: log, lo, hi =>
    let a := max f lo
    let part : Int := match fdecode fmt64 c with
      | .fin neg m e => falign neg m e (-1074) * ((hi - a : Nat) : Int)
      | _ => 0
    if f ≤ lo then part else part + corrSum log lo (min hi a)

/-- The mean of c over a stretch of the crystal count, rounded once to binary64. -/
def State.meanCorr (s : State) (lo hi : Nat) : Nat :=
  if hi ≤ lo then s.time.corr
  else
    let v := corrSum s.time.corrLog lo hi
    froundQ fmt64 (decide (v < 0)) v.natAbs (hi - lo) (-1074) false

/-- Set c, and keep what the means of R448 and R449 need. -/
def State.setCorr (s : State) (c : Nat) : State :=
  let lim := match s.time.dayFrom with
    | some (_, x) => min x (s.xt - 600000000000)
    | none => s.xt - 600000000000
  let old := s.time.corrLog.filter fun (p : Nat × Nat) => decide (p.1 ≤ lim)
  let new := s.time.corrLog.filter fun (p : Nat × Nat) => !decide (p.1 ≤ lim)
  s.updTime fun t => { t with corr := c, corrLog := (s.xt, c) :: (new ++ old.take 1) }

/-- Loss of the reference: HOLDOVER (R448, R451). -/
def State.enterHoldover (s : State) : State :=
  let lo := match s.time.refFrom with
    | some f => max f (s.xt - 600000000000)
    | none => s.xt
  let hold := s.meanCorr lo s.xt
  (s.updTime fun t => { t with holdCorr := hold, holdLam := t.lam48 }).setTimeState 4

/-- The reference is lost: 1 REF10M, 2 PPS_IN (R442, R448, R456). -/
def State.refLost (s : State) (which : Nat) : State :=
  let st := s.rd .TIME_STATE_State
  if st = 2 ∨ st = 3 then (s.enterHoldover).raise 0x0603 which 0 else s

/-- TimeSrc uses PPS_IN for phase (R441). -/
def State.usesPps (s : State) : Bool := s.timeSrc == 1 || s.timeSrc == 2

/-- TimeSrc uses REF10M (R441). -/
def State.usesRef (s : State) : Bool := s.timeSrc == 2 || s.timeSrc == 3

/-- A valid result of a frequency channel: period P24, LSB 2^-24 ns of the crystal (R443). Qualifies and loses REF10M
(R442). -/
def State.freqResult (s : State) (channel P24 : Nat) : State :=
  let tnom := if s.timeSrc = 1 then ddec 1000000000 0 else dint 100
  let y := dsub (ddiv tnom (ddiv (dint P24) (dint 16777216))) (dint 1)
  let big := dlt (ddec 50 6) (if dlt y (dint 0) then fneg fmt64 y else y)
  let follow := fun (s : State) =>
    let st := s.rd .TIME_STATE_State
    if st = 2 ∨ st = 3 then
      s.setCorr (dadd s.time.corr (ddiv (dsub y s.time.corr) (dint (2 ^ s.rd .TIME_CFG_FreqShift : Nat))))
    else s
  if channel = 3 then (if s.timeSrc = 1 then follow s else s)
  else if channel = 2 && s.usesRef then
    if big then
      let s := s.updTime fun t => { t with refSince := none, refQual := false }
      s.refLost 1
    else
      let since := s.time.refSince.getD s.xt
      let qual := s.time.refQual || decide (since + 1000000000 ≤ s.xt)
      let s := s.updTime fun t => { t with refSince := some since, refQual := qual }
      let s := if qual && s.timeSrc == 3 && s.rd .TIME_STATE_State != 2 then s.setTimeState 2 else s
      follow s
  else s

/-- A result of channel 2 that is not valid ends the 1 s of valid ones that qualifies REF10M (R442). -/
def State.refInvalid (s : State) : State := s.updTime fun t => { t with refSince := none }

/-- Channel 2 becomes Stale (R442). -/
def State.refStale (s : State) : State :=
  if s.usesRef then
    let s := s.updTime fun t => { t with refSince := none, refQual := false }
    s.refLost 1
  else s

/-- Close a phase error ε, LSB 2^-48 ns: a slew up to 1 µs, else a step (R444 – R446). `cause` is the step's (R455).
DESIGN CHOICE, unsafe: log 103. -/
def State.closeError (s : State) (eps : Int) (cause : Nat) : State :=
  if eps.natAbs ≤ 1000 * 2 ^ 48 then
    let span : Int := s.rd .TIME_CFG_SlewTime * 100000000
    let lim : Int := 25 * 2 ^ 48 / 100000
    let r := clampI (-lim) lim (tdiv (-eps * 25) span)
    let r := if r = 0 then (if eps < 0 then 1 else -1) else r
    (s.updTime fun t => { t with slewRate := r, slewLeft := -eps }).wrB .TIME_STATE_Slewing (decide (eps ≠ 0))
  else if s.time.pendStep.isSome then s
  else
    let w := ceilDiv (s.now + 10000000) 1000000000 * 1000000000
    s.updTime fun t => { t with pendStep := some ⟨w, eps, cause⟩ }

/-- The second that an accepted PPS edge at Λ and D marks, and whether the label applies with it: the label's, for the first edge at least
100 ms after the arm; after a label the last edge's second with the whole seconds of Λ since, at least 1; before any label the nearest to D
(R444). DEDUCED, unsafe: log 102. -/
def State.ppsSecond (s : State) (lam : Nat) (d48 : Int) : Nat × Bool :=
  let next : Nat := match s.time.second with
    | some (q, l) => q + max 1 (roundDiv ((lam : Int) - l) (10 ^ 9 * 2 ^ 48)).toNat
    | none => (roundDiv (d48 - s.rdS .PPS_DELAY_PpsDelay * 2 ^ 48) (10 ^ 9 * 2 ^ 48)).toNat
  match s.time.armed with
  | some (lab, at_) => if at_ + 100000000 ≤ s.xt then (lab, true) else (next, false)
  | none => (next, false)

/-- The second of an accepted edge is kept, once a label rules it (R444). -/
def State.keepSecond (s : State) (lam sec : Nat) (labelled : Bool) : State :=
  if labelled then (s.updTime fun t => { t with armed := none, second := some (sec, lam) }).wr .TIME_STATE_Labelled 1
  else s.updTime fun t => { t with second := t.second.map fun (_ : Nat × Nat) => (sec, lam) }

/-- An accepted PPS edge: qualification, ε, acquisition and closing (R442, R444). DEDUCED, unsafe: log 102. -/
def State.ppsAccepted (s : State) (lam : Nat) (d48 : Int) : State :=
  let run := if s.time.ppsLast.isSome then s.time.ppsRun + 1 else 0
  let s := s.updTime fun t => { t with ppsLast := some lam, ppsRun := run, ppsQual := t.ppsQual || decide (4 ≤ run) }
  let (sec, labelled) := s.ppsSecond lam d48
  let s := s.keepSecond lam sec labelled
  let eps := d48 - (sec : Int) * 10 ^ 9 * 2 ^ 48 - s.rdS .PPS_DELAY_PpsDelay * 2 ^ 48
  let s := s.wrS .PHASE_ERR_Err (satS 32 (roundDiv eps (2 ^ 41)))
  if s.usesPps && s.time.ppsQual && (s.timeSrc == 1 || s.time.refQual) then
    let was := s.rd .TIME_STATE_State
    let cause := if labelled then 3 else if was = 3 then 4 else if s.time.disciplinedOnce then 2 else 1
    (s.closeError eps cause).setTimeState 3
  else s

/-- Count one more under a key, a new key last. -/
def countIn (k : Nat) : List (Nat × Nat) → List (Nat × Nat)
  | [] => [(k, 1)]
  | (q, n) :: xs => if q = k then (q, n + 1) :: xs else (q, n) :: countIn k xs

/-- An edge of PPS_IN of the active polarity, at `off` / 128 ns after the present tick (R442, R444). Answers whether channel 3 takes it. -/
def State.ppsEdge (s : State) (off : Nat) : State × Bool :=
  let adv := (incOf s.time.corr * (off : Int) / 3200).toNat
  let lam := s.time.lam48 + adv
  let d48 := s.now48 + adv
  let us : Nat := 1000 * 2 ^ 48
  let ok := match s.time.ppsLast with
    | none => true
    | some p => decide (p + 1000000 * us ≤ lam + us) && decide (lam ≤ p + 1000001 * us)
  if ok then (s.ppsAccepted lam d48, true)
  else
    let sec := (asr d48 48).toNat / 1000000000
    let s := (s.inc .TIME_COUNT_PpsRejected 1).updTime fun t => { t with rejected := countIn sec t.rejected }
    let s := if s.time.ppsQual then s else s.updTime fun t => { t with ppsRun := 0, ppsLast := some lam }
    (s, false)

/-- PPS_LOSS_TIMEOUT: no accepted PPS edge within 1.1 s loses PPS_IN (R442). -/
def execPpsLossTimeout (s : State) : Out :=
  match s.time.ppsLast with
  | none => .next s
  | some p =>
    if p + 1100000000 * 2 ^ 48 ≤ s.time.lam48 then
      let s := s.updTime fun t => { t with ppsLast := none, ppsRun := 0, ppsQual := false }
      .next (if s.usesPps then s.refLost 2 else s)
    else .next s

/-- PPS_REJECTED_REPORT: at the close of a second in which an edge was rejected, the oldest not yet reported (R442, R456). -/
def execPpsRejectedReport (s : State) : Out :=
  match s.time.rejected with
  | [] => .next s
  | (sec, n) :: rest =>
    if sec < s.now / 1000000000 then .next ((s.raise 0x0606 n 0).updTime fun t => { t with rejected := rest }) else .next s

/-- The 0x0902 record (R455). -/
def State.stepRecord (s : State) (p : PendingStep) : List Byte :=
  let step := asr (-p.eps48) 16
  let time := (asr ((p.w : Int) * 2 ^ 48 - p.eps48) 48).toNat
  mkRecord 0x0902 s.curEpoch (s.timeFlags s.xt s.xt) time
    (le 1 p.cause ++ le 1 s.timeSrc ++ zeros 2 ++ le 4 (ofS 32 step) ++ leS 8 (asr step 32) ++ le 8 p.w ++ zeros 8)

/-- The edges of SDRV on a clock that jumps by `d`, LSB 2^-24 ns (R233). -/
def ScanSt.shiftDrv (c : ScanSt) (d : Int) : ScanSt :=
  { c with drvAt := c.drvAt.map (fun (t : Int) => t + d), drvRise := c.drvRise + d }

/-- SDRV in linear mode runs on through a jump of device time by `d`, LSB 2^-24 ns (R233, R446). DESIGN CHOICE, unsafe: log 69. -/
def State.shiftSdrv (s : State) (d : Int) : State :=
  let shift := fun (k : Fin 2) =>
    let c := s.lidar.scans.get k
    if s.on (.SCAN_CTRL_Mode k) then c.shiftDrv d else c
  { s with lidar := { s.lidar with scans := Vector.ofFn shift } }

/-- TIME_STEP: at W device time steps by −ε (R446). DESIGN CHOICE, unsafe: log 101. -/
def execTimeStep (s : State) : Out :=
  match s.time.pendStep with
  | none => .next s
  | some p =>
    if p.w ≤ s.now then
      let gate := s.on .TIME_CFG_PpsOutGate
      let s := s.updTime fun t => 
        { t with sig48 := t.sig48 - p.eps48, pendStep := none, steps := (s.xt :: t.steps).take 32,
                 ppsOutSec := if gate then some (max (p.w / 1000000000) (t.ppsOutSec.getD 0)) else t.ppsOutSec }
      let s := s.updTime fun t => t.noteSig (match t.sigLog with | [] => 0 | e :: _ => e.2.2)
      let s := (s.shiftSdrv (asr (-p.eps48) 24)).offer 13 (s.stepRecord p)
      let s := (List.range 16).foldl (fun (s : State) (k : Nat) =>
        s.wr (.INT_PENDING_Sources k) (Nat.lor (s.rd (.INT_PENDING_Sources k)) 0x8000)) s
      let s := s.raise 0x0605 (ofS 32 (satS 32 (roundDiv (-p.eps48) (2 ^ 48)))) p.cause
      .next (s.inc .TIME_COUNT_Steps 1)
    else .next s

/-- SLEW_COMPLETE: the change of σ has reached −ε and the slew ends (R445). -/
def execSlewComplete (s : State) : Out :=
  if s.time.slewLeft = 0 then .next ((s.updTime fun t => { t with slewRate := 0 }).wr .TIME_STATE_Slewing 0) else .next s

/-- Least-squares slope of daily means against their start, LSB 0.001 ppb/day, rounded (R449). -/
def learnedSlope (ms : List (Nat × Nat)) : Int :=
  let n : Int := ms.length
  let pts : List (Int × Int) := ms.map fun (p : Nat × Nat) =>
    ((p.1 : Int), match fdecode fmt64 p.2 with | .fin neg m e => falign neg m e (-1074) | _ => 0)
  let sx := pts.foldl (fun (a : Int) (p : Int × Int) => a + p.1) 0
  let sy := pts.foldl (fun (a : Int) (p : Int × Int) => a + p.2) 0
  let sxx := pts.foldl (fun (a : Int) (p : Int × Int) => a + p.1 * p.1) 0
  let sxy := pts.foldl (fun (a : Int) (p : Int × Int) => a + p.1 * p.2) 0
  satS 32 (roundDiv ((n * sxy - sx * sy) * 86400000000000 * 10 ^ 12) ((n * sxx - sx * sx) * 2 ^ 1074))

/-- DAILY_MEAN: 86,400 s of uninterrupted DISCIPLINED state give a mean of c, and the slope is fitted again (R449). -/
def execDailyMean (s : State) : Out :=
  match s.time.dayFrom with
  | none => .next s
  | some (d, x) =>
    if s.rd .TIME_STATE_State = 3 ∧ d + 86400000000000 ≤ s.now then
      let m := s.meanCorr x s.xt
      let ms := ((d, m) :: s.time.means).take 30
      let s := s.updTime fun t => { t with means := ms, dayFrom := some (s.now, s.xt) }
      let s := s.wr .AGE_DAYS_Value ms.length
      .next (if 3 ≤ ms.length then s.wrS .AGE_LEARNED_Value (learnedSlope ms) else s)
    else .next s

/-- A whole multiple of `n` ns of device time falls at the present tick or was passed by a step: its count, if it has not
been issued (R447). -/
def State.crossing (s : State) (n phase : Nat) (last : Option Nat) : Option Nat :=
  if n = 0 ∨ s.now < phase then none
  else
    let k := (s.now - phase) / n
    let before := (asr (s.now48 - incOf s.time.corr) 48).toNat
    let crossed := decide (before < phase) || decide ((before - phase) / n < k)
    match last with
    | none => if crossed then some k else none
    | some l => if l < k then some k else none

/-- PPS_OUT_RISE: PPS_OUT rises at a whole second of device time (R452). -/
def execPpsOutRise (s : State) : Out :=
  if !s.on .TIME_CFG_PpsOutEn then .next (s.updTime fun t => { t with ppsOutSec := none })
  else match s.crossing 1000000000 0 s.time.ppsOutSec with
    | none => .next s
    | some k => .next (s.updTime fun t => { t with ppsOutSec := some k, ppsOut := !s.ppsHeld })

/-- PPS_OUT_FALL: 100 ms after it rose (R452). -/
def execPpsOutFall (s : State) : Out :=
  match s.time.ppsOutSec with
  | some k => if k * 1000000000 + 100000000 ≤ s.now then .next (s.updTime fun t => { t with ppsOut := false }) else .next s
  | none => .next s

/-- A SYNC_OUT pulse begins (R453). -/
def State.syncPulse (s : State) : State :=
  s.updTime fun t => { t with syncEnd := s.xt + s.rd .SYNC_OUT_CFG_SyncWidth * 10 }

/-- The level of SYNC_OUT (R453). -/
def State.syncOutLevel (s : State) : Bool :=
  let src := s.rd .SYNC_OUT_CFG_Source
  if src = 0 then false
  else if src = 3 then s.ppsOutLevel
  else decide (s.xt < s.time.syncEnd) != s.on .SYNC_OUT_CFG_SyncLow

/-- TIME_STATE_RECORD: a 0x0903 record at each multiple of TimeRecSec seconds of device time (R455). -/
def execTimeStateRecord (s : State) : Out :=
  let n := s.rd .TIME_CFG_TimeRecSec * 1000000000
  match s.crossing n 0 s.time.recLast with
  | none => .next s
  | some k => if s.power.released then .next ((s.updTime fun t => { t with recLast := some k }).offer 13 (s.timeRecord (k * n))) else .next s

/-- What a change of the time registers does at T_c (R441, R451); `was` is TimeSrc before. -/
def State.timeSwitched (s : State) (was : Nat) : State :=
  let src := s.timeSrc
  if was = src then s
  else
    let s := s.updTime fun t => { t with ppsLast := none, ppsRun := 0, ppsQual := false, refSince := none, refQual := false }
    let st := s.rd .TIME_STATE_State
    if st = 2 ∨ st = 3 then s.enterHoldover
    else if st = 0 ∧ src ≠ 0 then s.setTimeState 1
    else if st = 1 ∧ src = 0 then s.setTimeState 0
    else s

end Sys2Proof.Machine
end

