-- ==== Sys2Proof/Machine/Probe.lean ====
section
/-! DEFINITION. The shot timer of a fibre port: boundaries, launches, gates, plan changes, starts and stops, clock losses
(R53 – R77, R111). -/
namespace Sys2Proof.Machine

/-- Update the shot timer of a port. -/
def State.updProbe (s : State) (p : Fin 4) (f : ProbeSt → ProbeSt) : State :=
  s.updPort p fun (q : PortSt) => { q with probe := f q.probe }
/-- The shot timer of a port. -/
def State.probeOf (s : State) (p : Fin 4) : ProbeSt := (s.ports.get p).probe

/-! Registers that show the running plan -/

/-- Show the running plan of a port (R64, R79, R123, R133, R174). -/
def State.showPlan (s : State) (p : Fin 4) : State :=
  let w := (s.probeOf p).slot
  let q := planOf s.regs p w
  let s := (s.wr (.PLAN_STATUS_Tail p) q.tail).wr (.PLAN_LOAD_Load p) (satN 11 (q.load * 1000 / 2000000000).floor.toNat)
  let s := (s.wr (.CHAIN_STATUS_Positions p) (if q.tones.isEmpty then 0 else nOf s.regs p w)).wr (.CHAIN_STATUS_Slots p) q.slotCount
  (s.wr (.PROD_STATUS_Theta p) (satN 11 (thetaLoad s.regs p w / 10000).floor.toNat)).showDts p

/-- Power the slices that a port's plan needs from an instant on, keep those that an accepted commit still to come needs, and power the others down
(R111). -/
def State.setSlices (s : State) (p : Fin 4) (at_ : Nat) : State :=
  let need := Nat.lor (slicesFor s.regs p (s.probeOf p).slot) (s.slicesLater p)
  if need = 0 then s.planPowerDown p at_
  else
    let s := s.powerUp p at_ need
    (s.updFe p fun (f : FeSt) => f.keepSlices at_ need).showSlices p

/-! Plan changes (R72) -/

/-- Byte offset of a port's plan slot. -/
def planBase (p w : Nat) : Nat := 0x100000 + 0x10000 * p + 0x100 * w

/-- A plan change between two register files (R72). -/
def planChanges (old new : RegFile) (p w : Nat) : Bool :=
  let b := planBase p w
  let differ := fun (a : Nat) => rfWord old a != rfWord new a
  let tones := max (rfRd old (.PLAN_CTRL_ToneCount p w)) (rfRd new (.PLAN_CTRL_ToneCount p w))
  [0x0, 0x4, 0x8, 0xC, 0x10, 0x14].any (fun (o : Nat) => differ (b + o)) ||
    (List.range (min tones 8)).any fun (k : Nat) => (List.range 4).any fun (i : Nat) => differ (b + 0x40 + 0x10 * k + 4 * i)

/-- A change that is a plan change for the Raman unit only (R72). -/
def ramanPlanChanges (old new : RegFile) (p w : Nat) : Bool :=
  rfRd old (.RAMAN_TRIG_RamanM p w) != rfRd new (.RAMAN_TRIG_RamanM p w) ||
    rfRd old (.RAMAN_DELAY_RamanDelay p w) != rfRd new (.RAMAN_DELAY_RamanDelay p w)

/-- A change that ends the port's accumulation (R188). -/
def dtsChanges (old new : RegFile) (p : Nat) : Bool :=
  let f := fun (x : Fld) => rfRd old x != rfRd new x
  f (.DTS_RANGE_RamanPos p) || f (.BIN_START_BinStart p) || f (.BIN_COUNT_Bins p) || f (.DTS_CTRL_BinPos p) ||
    f (.DARK_START_DarkStart p) || f (.DARK_LEN_DarkLen p) || f (.REF_BINS_RefBin p) || f (.REF_BINS_RefBins p) ||
    f (.DTS_CTRL_AccLog p) || f (.FE_CTRL_RamanRate p) || f (.DTS_CTRL_Dual p) || f (.MIRROR_MirrorBin p)

/-- Every open window of the old plan closes at the boundary; a window of a launched tone that has not opened leaves its slot
sample without data (R73, R140). -/
def State.cutWindows (s : State) (p : Fin 4) (at_ : Nat) : State :=
  let q := s.ports.get p
  let unopened := q.wins.filter fun (w : ToneWin) => !w.opened && !w.dead
  let s := s.updPort p fun (q : PortSt) =>
    { q with wins := (q.wins.filter fun (w : ToneWin) => w.opened || w.dead).map fun (w : ToneWin) =>
        { w with cut := some (min at_ (w.cut.getD w.closeAt)) }, fe := { q.fe with lastWin := q.fe.lastWin.map (min at_) } }
  unopened.foldl (fun (s : State) (w : ToneWin) =>
    match q.shots.find? fun (h : Shot) => h.id == w.shot with
    | some shot => s.pushSlot p shot w [] []
    | none => s) s

/-- The Raman window of the old plan closes at the boundary and its shot is not included; the samples of one that is open still come (R73, R109). -/
def State.cutRaman (s : State) (p : Fin 4) (at_ : Nat) : State :=
  match (s.ports.get p).rwin with
  | none => s
  | some w =>
    let cut := if w.opened && !w.dead then some { w with closeAt := min w.closeAt at_, stray := true } else none
    (s.updPort p fun (q : PortSt) =>
      { q with rwin := none, rcut := cut, fe := { q.fe with lastWin := q.fe.lastWin.map (min at_) } }).skipShot p false

/-! Launch (R53 – R55, R62, R65 – R67) -/

/-- RTRIG may be asserted by a port at a boundary: its turn in a pair (R185), not aborted (R190), no synthetic fibre (R531). -/
def State.ramanTurn (s : State) (p : Fin 4) (at_ : Nat) : Bool :=
  let r := s.regs
  let q := partner p
  let gap := (planOf r p (s.probeOf p).slot).m * (planOf r p (s.probeOf p).slot).shotT
  let clear := match (s.ramOf q).lastTrig with | some t => decide (t + gap ≤ at_) | none => true
  let turn := if isPrimary r p then !(s.ramOf p).hand && clear
    else if isSecondary r p then (s.ramOf q).hand && clear
    else true
  !(s.ramOf p).stopped && rfRd r (.FIBRE_TEST_Mode p) != 3 && turn

/-- The gate intervals of a shot (R65). -/
def gatesOf (q : Plan) (at_ : Nat) : List (Nat × Nat) :=
  q.tones.map fun (t : Tone) => (at_ + t.off - q.lead, at_ + t.off + t.dur + q.lag)

/-- Shot `at_` is launched: tones, gates, RTRIG and the Raman window (R54, R60, R62, R65 – R67). A shot during a loss of the sample
clock launches nothing (R77, R113). -/
def State.launchShot (s : State) (p : Fin 4) (at_ : Nat) : State :=
  let b := s.probeOf p
  let plan := planOf s.regs p b.slot
  let lost := !s.sampling
  let n := if b.fresh then 0 else b.index
  let t0 := if b.fresh then at_ else b.t0
  let (s, calStep) := s.applyTrims p at_ (plan.m == 0 || n % plan.m == 0)
  let shot : Shot :=
    { id := b.launched, n := n, at_ := at_, dev := s.devAt at_, t0 := t0, epoch := s.fnEpoch (fnPort p), slot := b.slot, calStep := calStep,
      restart := b.fresh || b.reopen || b.lostShots, gap := b.lostShots, cfg := s.regs }
  let s := (if lost then s else s.capResume p at_).addBound p at_
  let tones := if lost then [] else plan.tones.zipIdx
  let silent := rfRd s.regs (.FIBRE_TEST_Mode p) == 3
  let trig := plan.m != 0 && n % plan.m == 0 && s.ramanTurn p at_
  let rw : Option RamanWin := if trig then
      some { shot := b.launched, openAt := at_ + plan.rDelay, closeAt := at_ + plan.rDelay + 4 * rfRd s.regs (.DTS_RANGE_RamanPos p), opened := false,
             dead := lost, stray := false }
    else none
  let s := s.updProbe p fun (b : ProbeSt) =>
    { b with index := n + 1, t0 := t0, fresh := false, launched := b.launched + 1, muted := lost, reopen := b.reopen && lost,
             lostShots := lost && (b.lostShots || !plan.tones.isEmpty),
             launches := b.launches ++ tones.map fun (t : Tone × Nat) => (b.launched, t.2, at_ + t.1.off),
             gates := if lost || silent then [] else (b.gates.filter fun (g : Nat × Nat) => decide (at_ < g.2)) ++ gatesOf plan at_,
             rtrig := b.rtrig || trig, rtrigEnd := if trig then at_ + plan.rWidth else b.rtrigEnd,
             burstLeft := b.burstLeft - 1,
             bounds := if b.slot = 1 ∧ b.burstLeft ≤ 1 then []
               else if plan.ext then b.bounds.drop 1 else [at_ + plan.shotT] }
  let s := s.updPort p fun (q : PortSt) =>
    { q with shots := shot :: q.shots, rwin := match rw with | some w => some w | none => q.rwin }
  let s := if trig then s.updRam p fun (g : RamSt) => { g with lastTrig := some at_ } else s
  let s := if lost then s else s.inc64 (.SHOT_COUNT_LO_Shots p) 1
  if s.rd .SYNC_OUT_CFG_Source = 2 ∧ s.rd .SYNC_OUT_CFG_SyncPort = p.val then s.syncPulse else s

/-- The end of a code's emission, ns: o_k + D_k after the boundary (R58, R76). -/
def codeEnd (p : Fin 4) (c : Shot × Nat) : Nat :=
  match (planOf c.1.cfg p c.1.slot).tones[c.2]? with
  | some t => c.1.at_ + t.off + t.dur
  | none => 0

/-- The DAC sample of a port's probe synthesiser at an instant, quarter ns of the crystal count: the sum over the codes being emitted; 0 outside
every code, and while a test path keeps the output silent. A code of ±4,095 drives ±0.5 V differential into 100 Ω (R60, R61, R527, R530). -/
def State.dacCode (s : State) (p : Fin 4) (at4 : Nat) : Int :=
  (s.probeOf p).codes.foldl (fun (a : Int) (c : Shot × Nat) =>
    let m := rfRd c.1.cfg (.FIBRE_TEST_Mode p)
    if m = 1 ∨ m = 3 then a else a + codeSample p c at4) 0

/-- Tone k launches: its window is planned and its code begins (R53, R60, R62). -/
def State.launchTone (s : State) (p : Fin 4) (k : Nat) : State :=
  let b := s.probeOf p
  match b.launches.find? fun (l : Nat × Nat × Nat) => l.2.1 == k && s.due l.2.2 with
  | none => s
  | some (id, _, t) =>
    let s := s.updProbe p fun (b : ProbeSt) => { b with launches := b.launches.filter fun (l : Nat × Nat × Nat) => l.1 != id || l.2.1 != k }
    match (s.ports.get p).shots.find? fun (h : Shot) => h.id == id with
    | none => s
    | some shot =>
      let plan := planOf shot.cfg p shot.slot
      let w : ToneWin :=
        { shot := id, tone := k, openAt := t + plan.delay, closeAt := t + plan.delay + plan.winLen, opened := false, cut := none, at_ := t, instant := s.devAt t,
          dead := false }
      let s := s.updProbe p fun (b : ProbeSt) =>
        { b with codes := (shot, k) :: b.codes.filter fun (c : Shot × Nat) => decide (s.xt < codeEnd p c) }
      s.updPort p fun (q : PortSt) => { q with wins := q.wins ++ [w] }

/-- TONE_LAUNCH: tone k launches o_k after the boundary (R53, R54). -/
def execToneLaunch (p : Fin 4) (k : Fin 8) (s : State) : Out := .next (s.launchTone p k)

/-! Start, stop, external start (R68, R70, R71, R74 – R76, R111, R139) -/

/-- The gate intervals of launches of a port that are cancelled (R65, R73). -/
def State.cancelledGates (s : State) (p : Fin 4) : List (Nat × Nat) :=
  (s.probeOf p).launches.filterMap fun (l : Nat × Nat × Nat) =>
    match (s.ports.get p).shots.find? fun (h : Shot) => h.id == l.1 with
    | none => none
    | some h =>
      let q := planOf h.cfg p h.slot
      q.tones[l.2.1]?.map fun (t : Tone) => (l.2.2 - q.lead, l.2.2 + t.dur + q.lag)

/-- The launches still to come of the shot in progress are cancelled, and their gate intervals with them. -/
def State.cancelLaunches (s : State) (p : Fin 4) : State :=
  let off := s.cancelledGates p
  s.updProbe p fun (b : ProbeSt) => { b with launches := [], gates := b.gates.filter fun (g : Nat × Nat) => !off.contains g }

/-- Two plans differ by a plan change of the port or of its Raman unit (R72). -/
def planDiffers (a b : Plan) : Bool := { a with lead := 0, lag := 0, rWidth := 0 } != { b with lead := 0, lag := 0, rWidth := 0 }

/-- A port runs from an instant: its shot 0 launches there, or it waits for an event, or it is idle (R68, R70, R75). A different plan ends the accumulation
(R188). -/
def State.runPort (s : State) (p : Fin 4) (slot at_ : Nat) : State :=
  let q := planOf s.regs p slot
  let s := if planDiffers q (planOf s.regs p (s.probeOf p).slot) then s.cutAcc p else s
  let s := s.updProbe p fun (b : ProbeSt) =>
    { b with running := true, slot := slot, fresh := true, reopen := true, lastEvent := none, launches := [],
             waitFrom := if q.ext && !q.idle then some at_ else none, bounds := if q.idle || q.ext then [] else [at_] }
  let s := if q.tones.isEmpty then (s.endSeries p).buildSeries p s.regs slot else s
  (s.setSlices p at_).showPlan p

/-- A port takes an epoch at an instant: an accumulation that it ends, its own or its pair's, ends before; the units that process earlier samples later keep the
configuration from before (R37, R38, R185, R188). -/
def State.takePortEpoch (s : State) (p : Fin 4) (at_ : Nat) (e : EpochRec) : State :=
  let old := s.regs
  let new := rfOverlay old (ownedBy (fnPort p) e.changes)
  let w := (s.probeOf p).slot
  let s := if planChanges old new p w || ramanPlanChanges old new p w || dtsChanges old new p then s.cutAcc p else s
  let s := if rfRd old (.DTS_CTRL_Dual p) != rfRd new (.DTS_CTRL_Dual p) then s.cutAcc (partner p) else s
  let was := (at_, s.fnEpoch (fnPort p), old)
  let s := (s.takeEpoch (fnPort p) (s.devAt at_)).updFe p fun (f : FeSt) => { f with cfgs := f.cfgs.drop (f.cfgs.length - 7) ++ [was] }
  s.updDas p fun (d : DasSt) => { d with switches := d.switches ++ [(s.devAt at_, s.regs)] }

/-- Take every epoch that a port waits in; the first argument bounds their number. -/
def takePortGo (p : Fin 4) (at_ : Nat) : Nat → State → State
  | 0, s => s
  | k + 1, s => match s.nextEpochOf (fnPort p) with
    | none => s
    | some e => takePortGo p at_ k (s.takePortEpoch p at_ e)

/-- A port that launches no shots takes every epoch it waits in (R37, R558). -/
def State.takePortEpochs (s : State) (p : Fin 4) (at_ : Nat) : State := takePortGo p at_ s.epoch.queue.length s

/-- A port stops launching (R76): windows already open run to their close; its epochs are taken at once (R558). -/
def State.haltPort (s : State) (p : Fin 4) : State :=
  let missed := match (s.ports.get p).rwin with | some w => !w.opened | none => false
  let s := (if missed then s.skipShot p false else s).cutAcc p
  let s := s.updPort p fun (q : PortSt) =>
    { q with wins := q.wins.filter fun (w : ToneWin) => w.opened, rwin := q.rwin.filter fun (w : RamanWin) => w.opened }
  let s := (s.cancelLaunches p).updProbe p fun (b : ProbeSt) =>
    { b with running := false, bounds := [], waitFrom := none, reopen := true,
             gates := b.gates.filter fun (g : Nat × Nat) => decide (g.1 ≤ s.xt) }
  let s := ((s.stopRanges p s.now).capEnd p).capAbort p
  let s := s.takePortEpochs p s.xt
  (s.planPowerDown p s.xt).showPlan p

/-- The last records of a halted port: its series ends and the items on their way are processed (R139, R143). -/
def drainGo (p : Fin 4) : Nat → State → State
  | 0, s => s
  | k + 1, s =>
    match (s.chainOf p).items with
    | [] => s
    | it :: rest => drainGo p k ((s.updChain p fun (c : ChainSt) => { c with items := rest }).takeItem p it)

/-- End the series of a halted port and deliver what is left. -/
def State.drainPort (s : State) (p : Fin 4) : State :=
  let s := s.endSeries p
  (drainGo p (s.chainOf p).items.length s).settleDue p

/-- A halted port has no open window and nothing left to fuse, and the DRAM can take what it still has to deliver (R370). -/
def State.portQuiet (s : State) (p : Fin 4) : Bool :=
  let q := s.ports.get p
  q.wins.isEmpty && q.rwin.isNone && q.rcut.isNone && q.chain.queue.isEmpty &&
    ((q.chain.items.isEmpty && q.chain.held.isEmpty) || !s.needsDram p s.regs || s.dramOpen)

/-- An event paces a port: its boundary falls ExtDelay later (R70). -/
def State.acceptEvent (s : State) (p : Fin 4) (t : Nat) : State :=
  let d := (planOf s.regs p (s.probeOf p).slot).extDelay
  s.updProbe p fun (b : ProbeSt) => { b with lastEvent := some t, waitFrom := none, bounds := b.bounds ++ [t + d] }

/-- A pulse on SYNC_IN of a width, ns, ends at an instant: accepted, early or not qualifying (R69 – R71). -/
def State.syncEvent (s : State) (p : Fin 4) (width t : Nat) : State :=
  let b := s.probeOf p
  let q := planOf s.regs p b.slot
  let burstOver := b.slot == 1 && b.burstLeft == 0
  if !b.running || !q.ext || q.idle || burstOver || width < q.extMin || q.extMax < width then s
  else match b.waitFrom, b.lastEvent with
    | some _, _ => s.acceptEvent p t
    | none, some l =>
      if l + q.shotT ≤ t + 1000 then s.acceptEvent p t else s.inc (.SYNC_COUNT_Early p) 1
    | none, none => s

/-- EXT_EVENT_TIMEOUT: no event within T_shot + 1 µs of the last, or of the start of the wait (R71, R75). -/
def execExtEventTimeout (p : Fin 4) (s : State) : Out :=
  let b := s.probeOf p
  let q := planOf s.regs p b.slot
  let from_ := match b.waitFrom with | some t => some t | none => b.lastEvent
  match from_ with
  | none => .next s
  | some t =>
    let at_ := t + q.shotT + 1000
    if b.running && q.ext && !q.idle && s.due at_ && !(b.slot == 1 && b.burstLeft == 0) then
      .next ((s.acceptEvent p at_).inc (.SYNC_COUNT_Missed p) 1)
    else .next s

/-! Boundary (R37, R73, R74) -/

/-- A port takes its next epoch at a boundary: what ends, what is cut, and whether shot 0 launches there (R37, R73, R74, R188). -/
def State.switchPort (s : State) (p : Fin 4) (at_ : Nat) : State × Bool :=
  match s.nextEpochOf (fnPort p) with
  | none => (s, true)
  | some e =>
    let old := s.regs
    let new := rfOverlay old (ownedBy (fnPort p) e.changes)
    let w := (s.probeOf p).slot
    let pc := planChanges old new p w
    let rc := pc || ramanPlanChanges old new p w
    let s := if pc then s.cutWindows p at_ else s
    let s := if rc then s.cutRaman p at_ else s
    let s := if pc then s.cancelLaunches p else s
    let s := s.takePortEpoch p at_ e
    let series := pc || fingerprint old p w != fingerprint new p w
    let q := planOf s.regs p w
    let wait := pc && q.ext && !q.idle && !(planOf old p w).ext
    let s := s.updProbe p fun (b : ProbeSt) =>
      { b with fresh := b.fresh || pc, reopen := b.reopen || series, waitFrom := if wait then some at_ else if q.idle then none else b.waitFrom,
               lastEvent := if wait || q.idle || !q.ext then none else b.lastEvent, bounds := if wait || q.idle then [] else b.bounds }
    let s := if series then s.updChain p fun (c : ChainSt) => { c with ending := some (s.probeOf p).launched } else s
    let s := s.setSlices p at_
    let s := if q.idle then s.takePortEpochs p at_ else s
    (((s.showPlan p).finishSeries p).settleDue p, !wait && !q.idle)

/-! Gates and RTRIG (R65, R66) -/

/-- The register file a port's next shot will run under, as far as it is known (R37, R558). DESIGN CHOICE, unsafe: log 51. -/
def State.nextRegs (s : State) (p : Fin 4) (at_ : Nat) : RegFile :=
  match s.nextEpochOf (fnPort p), s.epoch.sched with
  | some e, _ => rfOverlay s.regs (ownedBy (fnPort p) e.changes)
  | none, some c => if c.tc ≤ s.devAt at_ then rfOverlay s.regs (ownedBy (fnPort p) c.changes) else s.regs
  | none, none => s.regs

/-- A port that does not launch shots yet launches its shot 0 at a known instant: a burst in its lead (R81), the wake epoch (R86), 3.0 ms after the device
left QUIESCENT (R477), or the T_c of a scheduled commit that gives an idle port a plan (R37, R68). Answers that instant and the plan. DESIGN CHOICE, unsafe: log 51. -/
def State.coming (s : State) (p : Fin 4) : Option (Nat × Plan) :=
  let b := s.probeOf p
  let main := fun (at_ : Nat) (r : RegFile) =>
    let q := planOf r p 0
    if b.hostStopped || q.ext || q.idle || rfRd r (.FIBRE_TEST_Mode p) == 3 then none else some (at_, q)
  let burst := s.power.sentinelAt + s.rd .WATCH_PERIOD_Lead * 100000 + s.power.burst * s.rd .WATCH_PERIOD_Period * 1000000
  match s.power.wakeAt with
  | some t => main (t + s.rd .WATCH_PERIOD_Lead * 100000) s.regs
  | none =>
    if s.pwr = 3 ∧ s.power.trans.isNone ∧ s.power.phase = 1 then
      if bit (s.rd .WATCH_CTRL_Ports) p && !b.hostStopped && rfRd s.regs (.FIBRE_TEST_Mode p) != 3 then some (burst, planOf s.regs p 1) else none
    else if (s.pwr = 4 ∧ s.power.trans = some (4, 2)) ∨ (s.pwr = 2 ∧ s.power.trans.isNone = true ∧ s.power.marked ≠ []) then
      if b.running then none else main (s.power.leftAt + 3000000) s.regs
    else if b.running && (planOf s.regs p b.slot).idle then
      match s.epoch.sched with
      | some c => main (s.xtOf c.tc) (rfOverlay s.regs (ownedBy (fnPort p) c.changes))
      | none => none
    else none

/-- The gate intervals known: those of shots launched, and those of the next (R65). After a loss of the sample clock PGATE stays inactive until the loop
has locked again (R77). -/
def State.gatesKnown (s : State) (p : Fin 4) : List (Nat × Nat) :=
  let b := s.probeOf p
  if !s.sampling then []
  else
    let gates := if b.muted then [] else b.gates
    match b.bounds with
    | [] => gates ++ match s.coming p with | some (t, q) => gatesOf q t | none => []
    | t :: _ =>
      let r := s.nextRegs p t
      if rfRd r (.FIBRE_TEST_Mode p) = 3 then gates else gates ++ gatesOf (planOf r p b.slot) t

/-- PGATE_OPEN: PGATE becomes active PgateLead before a launch (R65). -/
def execPgateOpen (p : Fin 4) (s : State) : Out :=
  let end_ := s.xt + 25
  if (s.gatesKnown p).any fun (g : Nat × Nat) => decide (g.1 < end_) && decide (s.xt < g.2) then
    .next (s.updProbe p fun (b : ProbeSt) => { b with pgate := true })
  else .next s

/-- PGATE_CLOSE: PGATE becomes inactive when the last open interval has ended (R65). -/
def execPgateClose (p : Fin 4) (s : State) : Out :=
  let end_ := s.xt + 25
  if (s.gatesKnown p).any fun (g : Nat × Nat) => decide (g.1 < end_) && decide (end_ ≤ g.2) then .next s
  else .next (s.updProbe p fun (b : ProbeSt) => { b with pgate := false, gates := b.gates.filter fun (g : Nat × Nat) => decide (end_ ≤ g.2) })

/-- RTRIG_RELEASE: RTRIG returns inactive after RamanWidth (R66). -/
def execRtrigRelease (p : Fin 4) (s : State) : Out :=
  let b := s.probeOf p
  if b.rtrig && s.due b.rtrigEnd then .next (s.updProbe p fun (b : ProbeSt) => { b with rtrig := false }) else .next s

/-! Clock losses (R77, R113, R139, R143, R191, R433, R434) -/

/-- The sample clock or PLL-B is lost: every sample of the shots in progress is discarded, and they produce no slot samples (R113, R140). In progress are the
shots with windows or launches still to come, and the shot whose period runs. -/
def State.discardShots (s : State) (p : Fin 4) : State :=
  let q := s.ports.get p
  let newest := if q.probe.running then q.shots.head?.map fun (h : Shot) => h.id else none
  let going := fun (id : Nat) => q.under id || newest == some id
  let hit := !q.wins.isEmpty || !q.probe.launches.isEmpty || match newest, q.shots.head? with
    | some _, some h => !(planOf h.cfg p h.slot).tones.isEmpty
    | _, _ => false
  let s := s.updPort p fun (q : PortSt) =>
    { q with wins := (q.wins.filter fun (w : ToneWin) => w.opened).map fun (w : ToneWin) => { w with dead := true },
             rwin := q.rwin.map fun (w : RamanWin) => { w with dead := true } }
  let s := s.updChain p fun (c : ChainSt) =>
    { c with queue := c.queue.filter fun (w : SlotWin) => !going w.shot.id,
             fadedNow := if c.queue.head?.any fun (w : SlotWin) => going w.shot.id then 0 else c.fadedNow,
             items := c.items.filter fun (i : Item) => !going i.shotId,
             held := c.held.filter fun (h : Nat × Option Item) => match h.2 with | some i => !going i.shotId | none => true }
  let s := (s.cancelLaunches p).updProbe p fun (b : ProbeSt) => { b with lostShots := b.lostShots || hit }
  (s.capClose p false).capClose p true

/-- Loss of the sample clock: also no emission, and PGATE inactive (R77, R113). -/
def State.mutePort (s : State) (p : Fin 4) : State :=
  ((s.discardShots p).capGap p).updProbe p fun (b : ProbeSt) => { b with codes := [], gates := [], pgate := false, muted := true }

/-- PLL-B has locked again: the grid goes on at its first instant at least 10 µs later, and the index counts the instants that passed. With an external
start the instants are those of the events, which were accepted all along (R71, R434). -/
def State.regrid (s : State) (p : Fin 4) : State :=
  let b := s.probeOf p
  let q := planOf s.regs p b.slot
  let from_ := s.xt + 10000
  let (k, bounds) := if q.ext then
      let late := b.bounds.filter fun (t : Nat) => decide (from_ ≤ t)
      (b.bounds.length - late.length, late)
    else match b.bounds with
      | [] => (0, [])
      | t :: _ => let k := if from_ ≤ t then 0 else ceilDiv (from_ - t) q.shotT; (k, [t + k * q.shotT])
  s.updProbe p fun (b : ProbeSt) =>
    { b with bounds := bounds, index := b.index + k, burstLeft := b.burstLeft - (if b.slot = 1 then k else 0),
             lostShots := b.lostShots || (decide (0 < k) && !q.tones.isEmpty) }

end Sys2Proof.Machine
end

