-- ==== Sys2Proof/Machine/Lanes.lean ====
section
/-! DEFINITION. Timing lanes, stamps, regression channels, scan ports and SDRV (R208 – R234, R264, R265). -/
namespace Sys2Proof.Machine

/-! Emitter ports: what an edge or a fit may end (R241, R249, R263 – R265) -/

/-- The pins of a port go idle; its line and diagnostic firings end (R241). -/
def State.idlePort (s : State) (e : Fin 8) : State :=
  s.updE e fun (q : EPort) => { q with byp := 0xFFFF, pchg := false, fire := false, line := none, diags := [] }

/-- A port becomes FAULTED: 1 SHORT, 2 OPEN, 3 STRING (R263, R265). -/
def State.faultPort (s : State) (e : Fin 8) (cause pins : Nat) : State :=
  ((((s.idlePort e).updE e fun (q : EPort) => { q with back := false }).wr (.PORT_STATE_State e) 3).wr (.PORT_STATE_Cause e) cause).wr
    (.PORT_STATE_Pins e) pins

/-- Segment k of a string is declared open; with AutoBypass the port resumes at the next frame sync (R265, R266). -/
def State.segmentOpen (s : State) (e : Fin 8) (k : Nat) : State :=
  let s := s.raise 0x0208 e k
  if s.on .EMT_CTRL_AutoBypass then
    (s.wr (.PORT_OPEN_Open e) (Nat.lor (s.rd (.PORT_OPEN_Open e)) (2 ^ k))).updE e fun (q : EPort) => { q with back := true }
  else s.faultPort e 2 0

/-- The result of an isolation sequence (R265). -/
def State.isoResult (s : State) (e : Fin 8) : State :=
  let q := s.ep e
  let string := fun (s : State) => ((s.raise 0x0208 e 0xFF).faultPort e 3 0)
  let clear := fun (s : State) => s.updE e fun (q : EPort) => { q with isoGot := [], isoRuns := 0 }
  match q.isoGot with
  | [k] => (clear s).segmentOpen e k
  | [] => string (clear s)
  | _ => if q.isoRuns = 0 then s.updE e fun (q : EPort) => { q with isoGot := [], isoRuns := 1 } else string (clear s)

/-- Update the shots of a port with a shot index. -/
def State.updShot (s : State) (e : Fin 8) (n : Nat) (f : EShot → EShot) : State :=
  s.updE e fun (q : EPort) => { q with shots := q.shots.map fun (h : EShot) => if h.n == n then f h else h }

/-- Set a segment's count of low-duty misses. -/
def State.setLow (s : State) (e : Fin 8) (k v : Nat) : State :=
  s.updE e fun (q : EPort) => { q with low := vupd q.low (fin 15 k) fun (_ : Nat) => v }

/-- A diagnostic firing of an isolation sequence. -/
def isIso (d : Option (Bool × Nat)) : Bool := match d with | some (true, _) => true | _ => false

/-- The isolation sequence is over when its last firing has been searched and none is planned; one that was cut short gives no result
(R261, R265). -/
def State.isoCheck (s : State) (e : Fin 8) : State :=
  let q := s.ep e
  if q.diags.any (fun (x : ELine) => isIso x.diag) || q.shots.any (fun (h : EShot) => isIso h.diag && !h.searched) ||
      (match q.line with | some x => isIso x.diag | none => false) then s
  else if q.isoCut then s.updE e fun (q : EPort) => { q with isoGot := [], isoCut := false }
  else s.isoResult e

/-- A shot's measured start is known: the stops that waited are delivered (R216, R218). -/
def State.setStart (s : State) (e : Fin 8) (h : EShot) (st : Nat) : State :=
  let s := s.updShot e h.n fun (h : EShot) => { h with st := some st, searched := true, stops := [] }
  let s := h.stops.foldl (fun (s : State) (q : Nat × Nat) => s.deliverStop e h st q.1 q.2) s
  match h.diag with
  | none => s.wr (.PORT_STATE_Misses e) 0
  | some (true, k) => (s.updE e fun (q : EPort) => { q with isoGot := q.isoGot ++ [k] }).isoCheck e
  | some (false, k) => s.setLow e k 0

/-- A shot has no start: its stops are discarded and the sequencer is told (R217, R264 – R266). -/
def State.noStart (s : State) (e : Fin 8) (h : EShot) : State :=
  let s := (s.updShot e h.n fun (h : EShot) => { h with searched := true, stops := [] }).inc (.START_STAT_Missed e) 1
  match h.diag with
  | none =>
    let m := min 3 (s.rd (.PORT_STATE_Misses e) + 1)
    let s := s.wr (.PORT_STATE_Misses e) m
    if m = 3 ∧ s.rd (.PORT_STATE_State e) = 1 then s.wr (.PORT_STATE_State e) 2 else s
  | some (true, _) => s.isoCheck e
  | some (false, k) =>
    let m := (s.ep e).low.get (fin 15 k) + 1
    if 3 ≤ m then (s.setLow e k 0).segmentOpen e k else s.setLow e k m

/-- START_SEARCH_END: 40 ns after t_p the start search of a shot ends (R216, R217). -/
def execStartSearchEnd (e : Fin 8) (s : State) : Out :=
  match (s.ep e).shots.find? fun (h : EShot) => !h.searched && s.dueU (h.tp + 5120) with
  | some h => .next (s.noStart e h)
  | none => .next s

/-! Regression channels (R224 – R227) -/

/-- P̂ of a channel, LSB 2^-24 ns: the latest valid period, or Nominal (R224). -/
def State.period (s : State) (c : Fin 16) : Nat :=
  if (s.lidar.chans.get c).fitted then s.rd64 (.REG_PERIOD_LO_Period c) else s.rd (.REG_NOM_Nominal c) * 2 ^ 24

/-- Index an edge of a channel's source at instant t of its timescale, 1/128 ns (R224, R225). DESIGN CHOICE, unsafe: log 111. -/
def State.regEdge (s : State) (c : Fin 16) (t : Nat) : State :=
  if !s.on (.REG_CFG_Enable c) then s
  else
    let n := s.rd (.REG_CFG_Gate c)
    let sliding := s.on (.REG_CFG_Sliding c)
    let p := s.period c
    let step : Int := match (s.lidar.chans.get c).gate with
      | [] => 1
      | (_, t0) :: _ => roundDiv (((t : Int) - t0) * 2 ^ 17) p
    let s := s.updChannel c fun (g : RegChan) => { g with since := s.xt }
    if step ≤ 0 then (s.updChannel c fun (g : RegChan) => { g with dups := g.dups + 1 }).inc (.REG_REJECT_TOTAL_Total c) 1
    else s.updChannel c fun (g : RegChan) =>
      let i := match g.gate with | [] => 0 | (i0, _) :: _ => i0 + step.toNat
      let gate := ((i, t) :: g.gate).take n
      if gate.length < n then { g with gate := gate }
      else { g with gate := if sliding then gate else [], fits := g.fits ++ [(gate, g.dups)], dups := 0 }

/-- A fit of R225: edges used, P24, a24; none when den = 0. -/
def fitGate (es : List (Int × Int)) : Option (Int × Int) :=
  let n : Int := es.length
  let si := es.foldl (fun (a : Int) (q : Int × Int) => a + q.1) 0
  let sii := es.foldl (fun (a : Int) (q : Int × Int) => a + q.1 * q.1) 0
  let st := es.foldl (fun (a : Int) (q : Int × Int) => a + q.2) 0
  let sit := es.foldl (fun (a : Int) (q : Int × Int) => a + q.1 * q.2) 0
  let den := n * sii - si * si
  if den = 0 then none
  else
    let p24 := tdiv ((n * sit - si * st) * 2 ^ 17) den
    some (p24, tdiv (st * 2 ^ 17 - p24 * si) n)

/-- Residual of R225, LSB 2^-24 ns. -/
def residual (f : Int × Int) (q : Int × Int) : Int := q.2 * 2 ^ 17 - (f.2 + f.1 * q.1)

/-- A result of R225 and R226. -/
structure RegFit where
  valid : Bool
  used : Nat
  rejected : Nat
  p24 : Int
  phase24 : Int        -- fitted instant of the gate's last index, LSB 2^-24 ns of the channel's timescale
  jitter : Nat
deriving DecidableEq, Repr

/-- Fit a full gate, newest edge first (R225, R226). -/
def regFit (gate : List (Nat × Nat)) (dups limit n : Nat) : RegFit :=
  let es := gate.reverse
  match es with
  | [] => ⟨false, 0, dups, 0, 0, 0⟩
  | (i0, t0) :: _ =>
    let rel := es.map fun (q : Nat × Nat) => ((q.1 : Int) - i0, (q.2 : Int) - t0)
    let last : Int := match gate with | (i, _) :: _ => (i : Int) - i0 | [] => 0
    match fitGate rel with
    | none => ⟨false, rel.length, dups, 0, 0, 0⟩
    | some f =>
      let kept := if limit = 0 then rel else rel.filter fun (q : Int × Int) => decide ((residual f q).natAbs ≤ limit * 2 ^ 17)
      let out := rel.length - kept.length
      match fitGate kept with
      | none => ⟨false, kept.length, out + dups, 0, 0, 0⟩
      | some g =>
        let sum := kept.foldl (fun (a : Nat) (q : Int × Int) => a + (residual g q).natAbs * (residual g q).natAbs) 0
        ⟨decide (max 8 (n / 2) ≤ kept.length), kept.length, out + dups, g.1, (t0 : Int) * 2 ^ 17 + g.2 + g.1 * last,
          isqrt (sum / ((kept.length - 2) * 2 ^ 28))⟩

/-! Scan lines (R228 – R231) -/

/-- Firing instant of angle index j of a line, LSB 1/64 ns of the lane timescale: in resonant mode by binary64 operations, with k′ = 0 and
m counted from T_k (R229), in linear mode by the exact quotient (R230). DESIGN CHOICE, unsafe: log 111. -/
def ScanLine.fireAt (x : ScanLine) (j : Nat) : Int :=
  let den : Int := (x.steps : Int) - 1
  if x.linear then
    let num : Int := (x.ua : Int) * den + ((x.ub : Int) - x.ua) * j
    roundDiv (x.tk * 65536 * den + x.p24 * (x.q * 65536 * den + num)) (65536 * den * 2 ^ 18)
  else
    let a := dscaled x.amp (-16)
    let aj := dadd (fneg fmt64 a) (ddiv (dmul (dmul (dint 2) a) (dint j)) (dint den))
    let arc := ddiv (dasin aj) (dmul (dint 2) piD)
    let psi := if x.q % 2 = 0 then dadd (dint (x.q / 2)) arc else dsub (dadd (dint ((x.q - 1) / 2)) (dscaled 1 (-1))) arc
    let turn := dsub psi (dscaled x.phase (-16))
    dround (dmul (dadd (dscaled x.tk (-24)) (dmul (dscaled x.p24 (-24)) turn)) (dint 64))

/-- The scan line that follows an instant of the lane timescale (LSB 2^-24 ns), from the latest valid fit (R228, R230, R231). -/
def State.lineAfter (s : State) (k : Fin 2) (after : Int) : Option ScanLine :=
  let c := s.lidar.scans.get k
  let linear := s.on (.SCAN_CTRL_Mode k)
  let halves := s.rd (.SCAN_CTRL_Halves k)
  let phase := s.rd (.SCAN_GEOM_SyncPhase k)
  let p : Int := c.p24
  if c.p24 = 0 then none
  else
    let q0 : Int := if linear then (after - c.tk).fdiv p + 1
      else ((after - c.tk) * 262144 + (4 * phase + 65536) * p).fdiv (131072 * p) + 1
    let chosen := fun (q : Int) => linear || bit halves (q % 2).toNat
    let q := if chosen q0 then q0 else q0 + 1
    if !chosen q then none
    else some { no := c.lines, start := 0, q := q, tk := c.tk, p24 := c.p24, linear := linear, amp := s.rd (.SCAN_GEOM_Amp k), phase := phase, drv := s.rd (.SCAN_DRV_DrvPhase k),
                steps := s.rd (.SCAN_CTRL_Steps k), ua := s.rd (.SCAN_SWEEP_SweepStart k), ub := s.rd (.SCAN_SWEEP_SweepEnd k) }

/-- The instant at which a computed line begins: its own, or in linear mode that of its sync edge (R230, R231). DESIGN CHOICE, safe: log 60. -/
def State.lineBegins (s : State) (k : Fin 2) (x : ScanLine) : Option Nat :=
  let c := s.lidar.scans.get k
  if x.linear then
    match c.lastSync, c.cur with
    | some t, some y => if y.start < t then some t else none
    | some t, none => if s.xuOf24 (x.tk + x.p24 * (x.q - 1)) + x.p24 / 2 ^ 18 < t then some t else none
    | none, _ => none
  else some (s.xuOf24 x.begins)

/-- LINE_EVENT: a line begins, the instants of the next are computed, and a frame event may issue; without a running consumer they are
discarded (R231, R234). -/
def execLineEvent (k : Fin 2) (s : State) : Out :=
  let c := s.lidar.scans.get k
  match c.next with
  | none => .next s
  | some x =>
    match s.lineBegins k x with
    | none => .next s
    | some t =>
      if !s.dueU t || !s.on (.SCAN_STATUS_Locked k) then .next s
      else
        let x := { x with start := t, no := c.lines }
        let next := s.lineAfter k (s.lam24 t + (x.p24 / 4 : Nat))
        let s := s.updScan k fun (c : ScanSt) => { c with cur := some x, next := next, lines := c.lines + 1 }
        if s.rd .EMT_CTRL_FrameSrc = k.val ∧ s.lidarRuns = true then
          let keep := if s.on .EMT_STATUS_InFrame then s.ctl.scan else []
          let event := x.no % max 1 (s.rd (.SCAN_DRV_FrameDiv k)) == 0
          .next (s.updCtl fun (c : EmtSt) => { c with scan := keep ++ [x], syncs := if event then c.syncs ++ [t] else c.syncs })
        else .next s

/-! Lock (R232) -/

/-- No shot of a port's line that has not fired fires: the line ends after the shot or the pre-charge under way, and its point, which has not had
its shots, is abandoned (R232). DESIGN CHOICE, unsafe: log 66. -/
def State.cutLine (s : State) (e : Fin 8) : State :=
  match (s.ep e).line with
  | none => s
  | some x =>
    if x.diag.isSome || x.fires.isEmpty then s
    else
      let ends := x.off.isNone && !(s.ep e).pchg
      (s.abandon e fun (p : PointSt) => some p.seq != x.point).updE e fun (q : EPort) =>
        { q with line := if ends then none else some { x with fires := [] } }

/-- A scan port has left LOCKED: the frame that it paces ends at once, and no later firing follows (R232, R249). -/
def State.unpace (s : State) (k : Fin 2) : State :=
  if s.rd .EMT_CTRL_FrameSrc = k.val then
    let s := (List.finRange 8).foldl (fun (s : State) (e : Fin 8) => s.cutLine e) s
    (s.endFrame s.xu).updCtl fun (c : EmtSt) => { c with syncs := [], scan := [] }
  else s

/-- A scan port leaves LOCKED: 1 no edge, 2 frequency, 3 jitter (R232, R249). -/
def State.loseScan (s : State) (k : Fin 2) (cause : Nat) : State :=
  let s := s.updScan k fun (c : ScanSt) => { c with good := 0, bad := 0, next := none, cur := none, lines := 0 }
  ((((s.wr (.SCAN_STATUS_Locked k) 0).wr (.SCAN_STATUS_Lost k) 1).inc (.SCAN_STATUS_Losses k) 1).raise 0x0201 k cause).unpace k

/-- A scan port returns to SEARCH without a loss: SCAN_LOST is not raised, and Lost and Losses stay as they are (R235). DESIGN CHOICE, unsafe: log 140. -/
def State.searchScan (s : State) (k : Fin 2) : State :=
  ((s.updScan k fun (c : ScanSt) => { c with good := 0, bad := 0, next := none, cur := none, lines := 0 }).wr (.SCAN_STATUS_Locked k) 0).unpace k

/-- A result of a scan port's channel (R232). -/
def State.scanResult (s : State) (k : Fin 2) (f : RegFit) : State :=
  if !s.on (.SCAN_CTRL_Enable k) then s
  else
    let locked := s.on (.SCAN_STATUS_Locked k)
    if !f.valid then (if locked then s else s.updScan k fun (c : ScanSt) => { c with good := 0 })
    else
      let one : Int := 1000000000 * 2 ^ 24
      let freq := decide ((s.rd (.SCAN_FREQ_FMin k) : Int) * f.p24 ≤ one) && decide (one ≤ s.rd (.SCAN_FREQ_FMax k) * f.p24)
      let jit := decide (f.jitter ≤ s.rd (.SCAN_LIMIT_JitLimit k) * 1024)
      let s := s.updScan k fun (c : ScanSt) => { c with tk := f.phase24, p24 := f.p24.toNat }
      if !locked then
        let s := s.updScan k fun (c : ScanSt) => { c with good := if freq && jit then c.good + 1 else 0 }
        if 4 ≤ (s.lidar.scans.get k).good then
          let s := (s.updScan k fun (c : ScanSt) => { c with good := 0, bad := 0, lines := 0, cur := none, lockP := c.p24 }).wr (.SCAN_STATUS_Locked k) 1
          let line := s.lineAfter k (s.lam24 s.xu)
          s.updScan k fun (c : ScanSt) => { c with next := line }
        else s
      else if !freq then s.loseScan k 2
      else if !jit && (s.lidar.scans.get k).bad == 1 then s.loseScan k 3
      else s.updScan k fun (c : ScanSt) => { c with bad := bnat (!jit), lockP := c.p24 }

/-- SYNC_EDGE_TIMEOUT: no sync edge within 1.5 × P̂ of the previous one (R232); the engine is frozen without PLL-D (R431). -/
def execSyncEdgeTimeout (k : Fin 2) (s : State) : Out :=
  let c := s.lidar.scans.get k
  match c.lastSync with
  | none => .next s
  | some t =>
    if s.locked 3 && s.on (.SCAN_STATUS_Locked k) && s.dueU (s.xuOfLam (s.lamAt t + (c.p24 * 3 / 2 : Nat) * 2 ^ 24)) then .next (s.loseScan k 1) else .next s

/-- A channel of the time base: 2 and 3, which no loop affects (R26, R433). -/
def timeChannel (c : Fin 16) : Bool := c.val == 2 || c.val == 3

/-- A channel has its clock: PLL-D's, or for those of the time base the crystal's (R431, R433). DEDUCED, unsafe: log 142. -/
def State.channelRuns (s : State) (c : Fin 16) : Bool := timeChannel c || s.locked 3

/-- The phase of a result, LSB 2^-24 ns: on the crystal count for channels 2 and 3, else in device time, with σ as it stood at that
instant (R214, R225, R439). -/
def State.fitPhase (s : State) (c : Fin 16) (phase24 : Int) : Int :=
  if timeChannel c then phase24 else phase24 + asr (s.sigAt (s.xuOf24 phase24 / 3200)) 24

/-- REGRESSION_FIT: a full gate is fitted and its result goes to the registers, the time base or a scan port (R225 – R227, R431). An
outlier that stays in a sliding gate is counted at every fit that rejects it (R226). DESIGN CHOICE, unsafe: log 139. -/
def execRegressionFit (c : Fin 16) (s : State) : Out :=
  match (s.lidar.chans.get c).fits with
  | [] => .next s
  | (gate, dups) :: rest =>
    if !s.channelRuns c then .next s
    else
      let f := regFit gate dups (s.rd (.REG_LIMIT_Limit c)) (s.rd (.REG_CFG_Gate c))
      let out := gate.length - f.used
      let s := (s.updChannel c fun (g : RegChan) => { g with fits := rest }).inc (.REG_REJECT_TOTAL_Total c) out
      let s := ((s.wrB (.REG_STATUS_Valid c) f.valid).wr (.REG_STATUS_Used c) f.used).wr (.REG_STATUS_Rejected c) (satN 13 f.rejected)
      let s := if !f.valid then s
        else
          let ph := s.fitPhase c f.phase24
          let s := (s.wr (.REG_STATUS_Stale c) 0).updChannel c fun (g : RegChan) => { g with fitted := true }
          let s := (s.wr64 (.REG_PERIOD_LO_Period c) (ofS 64 f.p24)).wr64 (.REG_PHASE_LO_Phase c) (ofS 64 (asr ph 24))
          (s.wr (.REG_PHASE_FRAC_Frac c) ((ph % 2 ^ 24).toNat * 256)).wr (.REG_JITTER_Jitter c) (satN 32 f.jitter)
      if c.val < 2 then .next (s.scanResult (fin 1 c) f)
      else if f.valid && timeChannel c then .next (s.freqResult c f.p24.toNat)
      else .next (if c.val = 2 then s.refInvalid else s)

/-- GATE_STALE: no edge for 4 × P̂ empties the gate, also one filled in part since it was last emptied (R227, R442). -/
def execGateStale (c : Fin 16) (s : State) : Out :=
  let g := s.lidar.chans.get c
  if s.on (.REG_CFG_Enable c) && (!s.on (.REG_STATUS_Stale c) || !g.gate.isEmpty) && s.channelRuns c && s.due (g.since + ceilDiv (4 * s.period c) (2 ^ 24)) then
    let s := (s.updChannel c fun (g : RegChan) => { g with gate := [], dups := 0 }).wr (.REG_STATUS_Stale c) 1
    .next (if c.val = 2 then s.refStale else s)
  else .next s

/-- REF10M_EDGE: an edge of REF10M `sub` / 128 ns after the present tick is indexed into channel 2; no loop affects the time base
(R208, R214, R224, R433). DEDUCED, unsafe: log 142. -/
def execRef10mEdge (sub : Fin 3200) (s : State) : Out := .next (s.regEdge 2 (s.xu + sub))

/-- PPS_EDGE: an edge of PPS_IN; one of the active polarity is accepted or rejected, and an accepted one reaches channel 3; no loop
affects the time base (R208, R224, R433, R442, R444). DEDUCED, unsafe: log 142. -/
def execPpsEdge (edge : PpsEdge) (s : State) : Out :=
  if edge.falling != s.on .TIME_CFG_PpsInFalling then .next s
  else
    let (s, taken) := s.ppsEdge edge.sub
    .next (if taken then s.regEdge 3 (s.xu + edge.sub) else s)

/-! Lane edges (R209 – R222) -/

/-- The comparator's output for an input above its reference, µV (R209, R210). DESIGN CHOICE, unsafe: log 56. -/
def compOut (r : RegFile) (l : Nat) (was : Bool) (uv : Int) : Bool :=
  let th : Int := rfRd r (.LANE_CFG_Threshold l) * 600000
  let hy : Int := rfRd r (.LANE_CFG_Hyst l) * 10240000
  let v := uv * 1024
  if rfRd r (.LANE_CFG_Falling l) = 0 then (if th < v then true else if v < th - hy then false else was)
  else (if v < th then true else if th + hy < v then false else was)

/-- The registers under which a shot is timed (R291). -/
def State.shotCfg (s : State) (e : Fin 8) (h : EShot) : RegFile :=
  match (s.ep e).points.find? fun (p : PointSt) => some p.seq == h.point with
  | some p => p.cfg
  | none => s.regs

/-- A lane's stops are replaced by the synthetic returns, under a register file (R291, R532). -/
def synLane (r : RegFile) (l : Nat) : Bool := decide (l < 256) && bit (rfWord r 0x720110).toNat (l / 16)

/-- A lane accepts an edge under a register file: it is enabled, and the hold-off has run out (R211). -/
def State.laneTakes (s : State) (r : RegFile) (l x : Nat) : Bool :=
  rfRd r (.LANE_CFG_Enable l) == 1 && match (s.lane l).hold with
    | some h => decide (h + 512 * rfRd r (.LANE_CFG_HoldOff l) ≤ x)
    | none => true

/-- The shots that an edge of a lane is tested against: those of every port that the lane times, and whose epoch's settings accept it
(R218, R291). DEDUCED, unsafe: log 124. -/
def State.edgeShots (s : State) (l x : Nat) : List (Fin 8 × EShot) :=
  (List.finRange 8).flatMap fun (e : Fin 8) => ((s.ep e).shots.filter fun (h : EShot) =>
    let r := s.shotCfg e h
    (if l < 256 then rfRd r (.LANE_CFG_Emitter l) == e.val else l == 256 + e.val) && s.laneTakes r l x).map fun (h : EShot) => (e, h)

/-- An accepted edge of a return lane against one shot: its pre-fire window, and its acceptance window (R218, R220). Answers
whether the edge lies in the shot's window. -/
def State.edgeOnShot (s : State) (e : Fin 8) (l x : Nat) (h : EShot) : State × Bool :=
  let r := s.shotCfg e h
  let pf := 128 * rfRd r .TL_CTRL_PreFire
  let s := if h.tp ≤ x + pf ∧ x < h.tp then
      s.markShot e h.point l fun (y : LanePt) =>
        { y with pre := y.pre.map fun (q : Nat × Nat) => if q.1 == h.s then (q.1, q.2 + 1) else q }
    else s
  if x < h.tp then (s, false)
  else
    let stamp := (s.spanU h.tp x).toNat
    if stamp < 128 * rfRd r (.LANE_WIN_Open l) ∨ 128 * rfRd r (.LANE_WIN_Close l) ≤ stamp then (s, false)
    else if synLane r l then (s, true)
    else match h.st, h.searched with
      | some st, _ => (s.deliverStop e h st l stamp, true)
      | none, true => (s, true)
      | none, false => (s.updShot e h.n fun (h : EShot) => { h with stops := h.stops ++ [(l, stamp)] }, true)

/-- An edge against shots of ports. -/
def edgeGo (l x : Nat) : List (Fin 8 × EShot) → State → State × Bool
  | [], s => (s, false)
  | h :: hs, s =>
    let (s, a) := s.edgeOnShot h.1 l x h.2
    let (s, b) := edgeGo l x hs s
    (s, a || b)

/-- Edges collected towards a lane's bin-width table from its own input (R524). -/
def State.collect (s : State) (l : Nat) : State :=
  let y := s.lane l
  let src := s.rd .CAL_CFG_TdcSrc
  if y.tdc.due && y.ready.isNone && (src == 0 || (src == 2 && !y.inner)) then
    s.updLane l fun (y : LaneSt) => { y with count := min (y.count + 1) (2 ^ 18) }
  else s

/-- A lane edge at a crystal instant: suppressed by the hold-off, or accepted and stamped (R211, R216, R218, R222, R224, R291). -/
def State.laneEdge (s : State) (l x : Nat) : State :=
  let y := s.lane l
  let blind := match y.blind with | some (a, b) => decide (a ≤ x) && decide (x < b) | none => false
  let here := s.laneTakes s.regs l x
  let shots := s.edgeShots l x
  if blind || !(here || !shots.isEmpty) then
    if blind || !s.on (.LANE_CFG_Enable l) then s else s.inc (.LANE_CNT_B_HoldSup l) 1
  else
    let s := s.updLane l fun (y : LaneSt) =>
      { y with hold := some x, edges := x :: y.edges.filter fun (t : Nat) => decide (x < t + 128 * 2048) }
    let s := (List.finRange 16).foldl (fun (s : State) (c : Fin 16) =>
      if here ∧ c.val ≠ 2 ∧ c.val ≠ 3 ∧ s.rd (.REG_CFG_Source c) = l then s.regEdge c (s.lamU x) else s) s
    if l < 256 then
      let (s, inside) := edgeGo l x shots s
      if inside then s else (s.inc (.LANE_CNT_A_Outside l) 1).collect l
    else if l < 264 then
      let fits := fun (q : Fin 8 × EShot) => !q.2.searched && decide (640 ≤ s.spanU q.2.tp x) && decide (s.spanU q.2.tp x < 5120)
      match shots.find? fits with
      | some q => (s.setStart q.1 q.2 (s.spanU q.2.tp x).toNat).collect l
      | none => (s.inc (.LANE_CNT_A_Outside l) 1).collect l
    else (s.updScan (fin 1 (l - 264)) fun (c : ScanSt) => { c with lastSync := some x }).collect l

/-- The fine part, 1/128 ns, that a lane's bin-width table gives an interpolator code: within the tap's part of the nanosecond, at a place that
the spec leaves open; open as a whole before the first table (R213). -/
def fineOf (ws : List Nat) (code : Nat) : Nat :=
  if ws = [] then Config.tapPlace [] code % 128
  else
    let a := (ws.take code).foldl (fun (a w : Nat) => a + w) 0
    let b := a + ws.getD code 0
    min 127 (a / 256 + Config.tapPlace ws code % max 1 (ceilDiv b 256 - a / 256))

/-- A lane's pin is disconnected by a test path (R527). -/
def State.pinOff (s : State) (l : Nat) : Bool :=
  if l < 256 then bit (s.rd .LANE_TEST_Inject) (l / 16)
  else if l < 264 then
    bit (s.rd .LANE_TEST_FireStart) (l - 256) ||
      (lanesOf s.regs (l - 256)).any fun (k : Nat) => bit (s.rd .LANE_TEST_Inject) (k / 16)
  else false

/-- LANE_EDGE: the input of a lane reaches `uv` µV above its reference at a place of the present tick; a rise of the
comparator's output is a lane edge. Where a test path disconnects the pin, the lane's next injected pulse takes its place (R209 – R211, R213, R527). DESIGN CHOICE, unsafe: log 39. -/
def execLaneEdge (l : Fin 266) (place : EdgePlace) (uv : Int) (s : State) : Out :=
  if !s.locked 3 then .next s
  else if s.pinOff l then
    match (s.lane l).inject with
    | [] => .next s
    | x :: rest =>
      if s.dueU x then .next ((s.updLane l fun (y : LaneSt) => { y with inject := rest }).laneEdge l x) else .next s
  else
    let was := s.on (.LANE_TRIM_Level l)
    let out := compOut s.regs l was uv
    let s := (s.updLane l fun (y : LaneSt) => { y with level := uv }).wrB (.LANE_TRIM_Level l) out
    .next (if out && !was then s.laneEdge l (s.xu + 128 * place.ns + fineOf (s.lane l).table place.code) else s)

/-- What a write of TL_CLEAR does. -/
def State.clearLanes (s : State) : State :=
  let s := (List.range 266).foldl (fun (s : State) (l : Nat) =>
    (((s.wr (.LANE_CNT_A_PreStart l) 0).wr (.LANE_CNT_A_Outside l) 0).wr (.LANE_CNT_B_HoldSup l) 0).wr (.LANE_CNT_B_Drop l) 0) s
  (List.range 8).foldl (fun (s : State) (e : Nat) => s.wr (.START_STAT_Missed e) 0) s

/-- What a change of channel registers does at T_c; a channel that is switched on or off counts as not fitted yet (R224, R235).
DESIGN CHOICE, unsafe: log 138. -/
def State.channelsSwitched (s : State) (old : RegFile) : State :=
  (List.finRange 16).foldl (fun (s : State) (c : Fin 16) =>
    let f := fun (x : Fld) => rfRd old x != s.rd x
    let on := s.on (.REG_CFG_Enable c)
    if f (.REG_CFG_Source c) || f (.REG_CFG_Gate c) || f (.REG_NOM_Nominal c) || f (.REG_CFG_Sliding c) || f (.REG_CFG_Enable c) then
      let fresh := f (.REG_CFG_Enable c)
      s.updChannel c fun (g : RegChan) =>
        { g with gate := [], dups := 0, fits := if on then g.fits else [], fitted := g.fitted && !fresh, since := s.xt }
    else s) s

/-! SDRV (R233) -/

/-- Period of SDRV by its mode and state, LSB 2^-24 ns, and the instant nearest to `about` at which it should rise, if its
phase is ruled; in LOCKED with the DrvPhase and SyncPhase of the line in progress (R233, R235). DESIGN CHOICE, unsafe: log 69. -/
def State.drvTarget (s : State) (k : Fin 2) (about : Int) : Nat × Option Int :=
  let c := s.lidar.scans.get k
  let nom := 256000000000 * 2 ^ 24 / max 1 (s.rd (.SCAN_NOM_NomFreq k))
  if s.on (.SCAN_CTRL_Mode k) || c.lockP == 0 then (nom, none)
  else if s.on (.SCAN_STATUS_Locked k) then
    let p : Int := c.p24
    let (drv, sync) := match c.cur, c.next with
      | some x, _ => (x.drv, x.phase)
      | none, some x => (x.drv, x.phase)
      | none, none => (s.rd (.SCAN_DRV_DrvPhase k), s.rd (.SCAN_GEOM_SyncPhase k))
    let at_ := c.tk + tdiv (p * ((drv : Int) - sync)) 65536
    (c.p24, some (at_ + p * roundDiv (about - at_) p))
  else (c.lockP, none)

/-- Round to 1/64 ns, the placement of SDRV's edges. -/
def place24 (v : Int) : Int := roundDiv v (2 ^ 18) * 2 ^ 18

/-- The clock of SDRV at the end of the running tick: device time in linear mode, else the lane timescale. -/
def State.drvNow (s : State) (k : Fin 2) : Int :=
  asr (s.time.lam48 + incOf s.time.corr + (if s.on (.SCAN_CTRL_Mode k) then s.time.sig48 else 0)) 24

/-- Within 1/256 of a period of it, LSB 2^-24 ns. -/
def drvClamp (p : Nat) (want : Int) : Nat := (clampI ((p : Int) - (p / 256 : Nat)) ((p : Int) + (p / 256 : Nat)) want).toNat

/-- The period that begins with a rise of SDRV at `t`, with what of a phase change falls into it: the period first moves to its target by at
most 1/256 of itself, and from there the phase by at most 1/256 of a period (R233). -/
def State.drvNext (s : State) (k : Fin 2) (t : Int) : Nat × Nat :=
  let c := s.lidar.scans.get k
  let (p, ideal) := s.drvTarget k (t + (s.drvTarget k t).1)
  let base := drvClamp c.drvP p
  match ideal with
  | some v => if base = p then (base, drvClamp base (v - t)) else (base, base)
  | none => (base, base)

/-- SDRV_EDGE: SDRV toggles; a change of period or phase is spread, at most 1/256 of a period for each (R233). -/
def execSdrvEdge (k : Fin 2) (s : State) : Out :=
  let c := s.lidar.scans.get k
  if !s.on (.SCAN_CTRL_SdrvEnable k) || !s.locked 3 then .next (s.updScan k fun (c : ScanSt) => { c with sdrv := false, drvAt := none })
  else
    let now := s.drvNow k
    let rise := fun (s : State) (t : Int) (base span : Nat) => s.updScan k fun (c : ScanSt) =>
      { c with sdrv := true, drvRise := t, drvP := base, drvSpan := span, drvAt := some (place24 (t + (span / 2 : Nat))) }
    match c.drvAt with
    | none =>
      let p := (s.drvTarget k now).1
      .next (rise s (place24 now) p p)
    | some t =>
      if now < t then .next s
      else if c.sdrv then .next (s.updScan k fun (c : ScanSt) => { c with sdrv := false, drvAt := some (place24 (c.drvRise + c.drvSpan)) })
      else
        let t := c.drvRise + c.drvSpan
        let q := s.drvNext k t
        .next (rise s t q.1 q.2)

end Sys2Proof.Machine
end

