-- ==== Sys2Proof/Machine/LaneCal.lean ====
section
/-! DEFINITION. Calibration in the frame blankings: bin-width tables and threshold trims of the timing lanes, and when an
item falls due (R222, R517, R519, R524 – R526). -/
namespace Sys2Proof.Machine

/-! When an item falls due (R517) -/

/-- An item falls due; a trigger that comes while it is due is absorbed (R517). -/
def CalSt.fall (c : CalSt) (now : Nat) (cmd : Bool) : CalSt :=
  if c.due then { c with cmd := c.cmd || cmd } else { c with due := true, since := now, retry := none, cmd := cmd }
/-- Interval, or a failed unit's wait, is over (R517, R519). -/
def CalSt.expired (c : CalSt) (now interval : Nat) : Bool :=
  match c.retry with
  | some t => decide (t < now + 25)
  | none => match c.at_ with
    | some t => interval != 0 && decide (t + interval * 60000000000 < now + 25)
    | none => false
/-- A result has been applied. -/
def CalSt.applied (c : CalSt) (now : Nat) (temp : Int) : CalSt :=
  { c with due := false, running := false, at_ := some now, temp := temp, retry := none, cmd := false }
/-- A result was refused: the unit falls due again after one Interval, or 60 s (R519). -/
def CalSt.failed (c : CalSt) (now interval : Nat) : CalSt :=
  { c with due := false, running := false, retry := some (now + (if interval = 0 then 60000000000 else interval * 60000000000)), cmd := false }
/-- The temperature has moved more than DeltaT since the last applied calibration (R517). -/
def CalSt.moved (c : CalSt) (temp : Int) (delta : Nat) : Bool := c.at_.isSome && decide (delta * 64 < (temp - c.temp).natAbs)

/-- CAL_FAILED of an item (R519, R536). -/
def State.calFailed (s : State) (item unit : Nat) : State := (s.inc .CAL_STATUS_Failures 1).raise 0x0801 item unit

/-- The lanes that are enabled. -/
def State.enabledLanes (s : State) : List Nat := (List.range 266).filter fun (l : Nat) => s.on (.LANE_CFG_Enable l)

/-- A lane's table falls due: its collection begins (R524). -/
def State.tdcDue (s : State) (l : Nat) (cmd : Bool) : State :=
  (s.updLane l fun (y : LaneSt) =>
    if y.tdc.due then { y with tdc := y.tdc.fall s.xt cmd }
    else { y with tdc := y.tdc.fall s.xt cmd, count := 0, countFrom := s.xt, inner := false }).beginPulse l s.xu
/-- A lane's threshold trim falls due. -/
def State.thrDue (s : State) (l : Nat) (cmd : Bool) : State :=
  s.updLane l fun (y : LaneSt) => { y with thr := y.thr.fall s.xt cmd }

/-! Bin-width tables (R524, R525) -/

/-- Widths of a table, LSB 1/256 of an LSB, within the limits of R519. -/
def tableOk (ws : List Nat) : Bool :=
  let sum := ws.foldl (fun (a b : Nat) => a + b) 0
  ws.all (fun (w : Nat) => decide (64 ≤ w) && decide (w ≤ 1024)) && decide (32768 * 98 ≤ sum * 100) && decide (sum * 100 ≤ 32768 * 102)

/-- TDC_TABLE_READY: 2^18 edges of a lane have given the tap widths `widths`; a collection with a supply warning in it is discarded (R519,
R524). -/
def execTdcTableReady (l : Fin 266) (widths : List Nat) (s : State) : Out :=
  let t := s.endPulse l s.xu
  let y := t.lane l
  if !y.tdc.due || y.ready.isSome || y.count < 2 ^ 18 then .next s
  else
    let s := t
    if s.supplyFlag y.countFrom s.xt != 0 then
      .next (s.updLane l fun (y : LaneSt) => { y with count := 0, countFrom := s.xt })
    else if tableOk widths then .next (s.updLane l fun (y : LaneSt) => { y with ready := some widths, readyAt := s.xt })
    else .next ((s.updLane l fun (y : LaneSt) => { y with tdc := y.tdc.failed s.xt (s.rd .CAL_CFG_Interval), count := 0 }).calFailed 3 l)

/-- TDC_SOURCE_SWITCH: a lane that has not collected its edges within 10 s turns to the internal pulses (R524).
DESIGN CHOICE, unsafe: log 68. -/
def execTdcSourceSwitch (l : Fin 266) (s : State) : Out :=
  let y := s.lane l
  if y.tdc.due && !y.inner && s.rd .CAL_CFG_TdcSrc == 2 && decide (y.count < 2 ^ 18) && s.due (y.countFrom + 10000000000) then
    .next ((s.updLane l fun (y : LaneSt) => { y with inner := true, count := 0 }).beginPulse l s.xu)
  else .next s

/-- A ready table takes effect at an instant (R516, R525). -/
def State.applyTable (s : State) (l at_ : Nat) : State :=
  match (s.lane l).ready with
  | none => s
  | some ws =>
    (s.updLane l fun (y : LaneSt) =>
      { y with ready := none, loadAt := none, table := ws, count := 0, tdc := y.tdc.applied s.xt (s.rdS .DIE_TEMP_Temp) }).stepTable l at_

/-- A lane may take its ready table in this blanking: it has taken no step in it (R525). -/
def State.tableFree (s : State) (y : LaneSt) : Bool := y.ready.isSome && y.loadAt.isNone && y.stepped != s.ctl.blankNo

/-- TDC_TABLE_LOAD: a ready table loads in the last 2 µs of a blanking of at least 2 µs, for which the lane is blind, and takes effect at
the frame boundary; a due threshold trim of the lane goes first (R516, R525). -/
def execTdcTableLoad (l : Fin 266) (s : State) : Out :=
  match s.nextSync with
  | none => .next s
  | some t =>
    if s.tableFree (s.lane l) && !(s.lane l).thr.due && s.locked 3 && !s.on .EMT_STATUS_InFrame && decide (s.ctl.blankFrom + 256000 ≤ t) && s.dueU (t - 256000) &&
        decide (s.xu < t) then
      .next ((s.updLane l fun (y : LaneSt) => { y with loadAt := some t, stepped := s.ctl.blankNo }).blindLane l (t - 256000) t)
    else .next s

/-- Tables that found no blanking within 1 s load at a frame sync, for 2 µs from it (R525). -/
def State.lateTables (s : State) (t : Nat) : State :=
  s.lidar.lanes.foldl (fun (s : State) (q : Nat × LaneSt) =>
    let y := s.lane q.1
    if s.tableFree y && decide (y.readyAt + 1000000000 ≤ s.xt) then
      ((s.updLane q.1 fun (y : LaneSt) => { y with stepped := s.ctl.blankNo }).applyTable q.1 t).blindLane q.1 t (t + 256000)
    else s) s

/-! Threshold trims (R526) -/

/-- A threshold trim ends at an instant with the trim found: discarded under a supply warning, refused, or in force from now (R516, R519,
R526). -/
def State.endTrim (s : State) (l a b : Nat) (steps : Int) : State :=
  let s := s.updLane l fun (y : LaneSt) => { y with trim := none }
  if s.supplyFlag (a / 128) (b / 128) != 0 then s
  else if -128 < steps ∧ steps < 127 then
    (s.updLane l fun (y : LaneSt) => { y with thr := y.thr.applied s.xt (s.rdS .DIE_TEMP_Temp) }).wrS (.LANE_TRIM_ThrTrim l) steps
  else (s.updLane l fun (y : LaneSt) => { y with thr := y.thr.failed s.xt (s.rd .CAL_CFG_Interval) }).calFailed 4 l

/-- What of a lane's calibration has reached its instant by `x` takes effect: a table at its frame boundary, a trim at its end (R516). -/
def State.settleLane (s : State) (l x : Nat) : State :=
  let s := match (s.lane l).loadAt with
    | some t => if t ≤ x then s.applyTable l t else s
    | none => s
  match (s.lane l).trim with
  | some (a, b, steps) => if b ≤ x then s.endTrim l a b steps else s
  | none => s
/-- The same on every lane. -/
def State.settleLanes (s : State) (x : Nat) : State :=
  s.lidar.lanes.foldl (fun (s : State) (q : Nat × LaneSt) => s.settleLane q.1 x) s

end Sys2Proof.Machine
end

