-- ==== Sys2Proof/Machine/Emit.lean ====
section
/-! DEFINITION. Emitter strings, frame memory and line scan (R238 – R269). -/
namespace Sys2Proof.Machine

/-! Frame memory (R242 – R245, R269) -/

/-- A frame-memory line (R242). -/
structure FLine where
  enable : Nat
  shots : Nat
  ctrl : Nat
  pad : Nat
  at_ : Nat
  seed : Nat
  loopCount : Nat
  loopStart : Nat
  idxStep : Int
  bypass : List Nat
deriving DecidableEq, Repr

/-- Decode a line's 32 bytes (R242). -/
def FLine.of (b : List Byte) : FLine :=
  { enable := leAt b 0 1, shots := leAt b 1 1 + 1, ctrl := leAt b 2 1, pad := leAt b 3 1, at_ := leAt b 4 4, seed := leAt b 8 2,
    loopCount := leAt b 10 2, loopStart := leAt b 12 2, idxStep := toS 16 (leAt b 14 2),
    bypass := (List.range 8).map fun (e : Nat) => leAt b (16 + 2 * e) 2 }
/-- TimeMode. -/
def FLine.timeMode (x : FLine) : Bool := bit x.ctrl 0
/-- NextLine. -/
def FLine.nextLine (x : FLine) : Bool := bit x.ctrl 1
/-- LoopEnd. -/
def FLine.loopEnd (x : FLine) : Bool := bit x.ctrl 2
/-- FrameEnd. -/
def FLine.frameEnd (x : FLine) : Bool := bit x.ctrl 3
/-- j of a TimeMode 0 line. -/
def FLine.j (x : FLine) : Nat := x.at_ % 4096

/-- A line of a bank of the frame memory. -/
def State.fline (s : State) (bank n : Nat) : FLine := FLine.of (s.sramRead 0x23 26 (131072 * bank + 32 * n) 32).1
/-- Number of the active bank. -/
def State.activeBank (s : State) : Nat := s.rd .EMT_BANK_Active

/-- The program's lines up to its end: the first FrameEnd line, or line 4,095 (R244). -/
def progGo (s : State) (bank : Nat) : Nat → Nat → List FLine
  | 0, _ => []
  | k + 1, n =>
    let x := s.fline bank n
    if x.frameEnd then [x] else x :: progGo s bank k (n + 1)
/-- The program of a bank. -/
def State.program (s : State) (bank : Nat) : List FLine := progGo s bank 4096 0

/-- A LoopEnd line whose loop runs forward or holds another LoopEnd line (R244). -/
def badLoop (xs : List FLine) (n : Nat) (x : FLine) : Bool :=
  let a := x.loopStart % 4096
  x.loopEnd && (decide (n < a) || ((xs.drop a).take (n - a)).any FLine.loopEnd)
/-- A line with a zero field that is not zero, or NextLine with TimeMode 1 (R242, R244). -/
def badField (x : FLine) : Bool :=
  decide (16 ≤ x.ctrl) || x.pad != 0 || (!x.timeMode && decide (4096 ≤ x.at_)) || (x.nextLine && x.timeMode) ||
    (if x.loopEnd then decide (4096 ≤ x.loopStart) else x.loopCount != 0 || x.loopStart != 0 || x.idxStep != 0)

/-- Validation of a bank under a register file: the first applicable error of R244, 0 for none. DESIGN CHOICE, unsafe: log 59. -/
def State.bankError (s : State) (r : RegFile) (bank : Nat) : Nat :=
  let xs := s.program bank
  let src := rfRd r .EMT_CTRL_FrameSrc
  let steps := if src < 2 then rfRd r (.SCAN_CTRL_Steps src) else 0
  if xs.zipIdx.any fun (q : FLine × Nat) => badLoop xs q.2 q.1 then 2
  else if xs.any fun (x : FLine) => !x.timeMode && decide (steps ≤ x.j) then 3
  else if xs.any badField then 4
  else 0

/-- The write of EMT_BANK.Swap = 1: validation of the idle bank begins (R244). -/
def State.swapBank (s : State) : State :=
  if s.on .EMT_BANK_Waiting then s.wr .EMT_BANK_Error 5
  else if s.ctl.validFrom.isSome then s
  else s.updCtl fun (c : EmtSt) => { c with validFrom := some s.xt }

/-- BANK_VALIDATION_DONE: the bank waits for frame sync, or Error says why not (R244). -/
def execBankValidationDone (s : State) : Out :=
  match s.ctl.validFrom with
  | none => .next s
  | some _ =>
    let err := s.bankError s.regs (1 - s.activeBank)
    .next (((s.updCtl fun (c : EmtSt) => { c with validFrom := none }).wr .EMT_BANK_Error err).wrB .EMT_BANK_Waiting (err == 0))

/-- First byte, in the frame memory, of a window address (R243). -/
def State.windowByte (s : State) (addr : Nat) (active : Bool) : Nat :=
  131072 * (if active then s.activeBank else 1 - s.activeBank) + 65536 * s.rd .EMT_BANK_Page + addr % 65536
/-- A read of the frame-memory window: its word, and whether it reads uncorrectable (R243). -/
def State.windowRead (s : State) (addr : Nat) : Word × Bool :=
  let (b, bad) := s.sramRead 0x30 26 (s.windowByte addr (s.on .EMT_BANK_ReadActive)) 4
  (BitVec.ofNat 32 (leNat b), bad)
/-- A write of the frame-memory window; none where it is refused (R243, R244). -/
def State.windowWrite (s : State) (addr : Nat) (data : Word) : Option State :=
  if s.on .EMT_BANK_ReadActive || s.on .EMT_BANK_Waiting || s.ctl.validFrom.isSome then none
  else some (s.sramWrite 0x30 26 (s.windowByte addr false) (le 4 data.toNat))

/-! Ports (R241, R253 – R258) -/

/-- Pre-charge and settle time before t_L, 1/128 ns (R252). -/
def preTime (r : RegFile) : Nat := 128 * (rfRd r .EMT_TIMING_Settle + rfRd r .EMT_TIMING_PchgWidth)
/-- MinIvl of a port, 1/128 ns (R253). -/
def minIvl (r : RegFile) (e : Nat) : Nat := 128 * (rfRd r (.PORT_TIMING_ShotIvl e) - rfRd r (.PORT_TIMING_DitherSpan e))

/-- The dither of a shot, 1/64 ns (R256). -/
def ditherOf (r : RegFile) (e n seed : Nat) : Nat :=
  let span64 := rfRd r (.PORT_TIMING_DitherSpan e) * 64
  let key := mix32 (rfRd r .DEVICE_ID_ArrayId * 2 ^ 16 + rfRd r .DEVICE_ID_DeviceId * 8 + e)
  let v := mix32 (Nat.xor key (mix32 (Nat.xor (n % 2 ^ 32) (seed * 2 ^ 16))))
  v / 256 * span64 / 2 ^ 24

/-- Exposure count of a segment: firings in the present millisecond of device time and the 99 before it (R257). -/
def State.exposure (s : State) (e : Fin 8) (k : Nat) : Nat :=
  let ms := s.now / 1000000
  (s.ep e).expo.foldl (fun (a : Nat) (q : Nat × Nat) => if q.1 % 16 = k ∧ ms < q.1 / 16 + 100 then a + q.2 else a) 0

/-- Segments of a mask that `n` more firings would take past ExpLimit (R258). -/
def State.overExposed (s : State) (e : Fin 8) (mask n : Nat) : List Nat :=
  (List.range 16).filter fun (k : Nat) => bit mask k && decide (s.rd .EXP_LIMIT_ExpLimit < s.exposure e k + n)

/-- A port is quiet: no line and no diagnostic firing under way. -/
def State.portIdle (s : State) (e : Fin 8) : Bool := (s.ep e).line.isNone && (s.ep e).diags.isEmpty
/-- Every port is quiet. -/
def State.allIdle (s : State) : Bool := (List.finRange 8).all fun (e : Fin 8) => s.portIdle e

/-- The program has ended once its last line is complete on every port (R247). -/
def State.frameOver (s : State) : State :=
  if s.ctl.pc = 4096 ∧ s.allIdle = true then s.endFrame s.xu else s

/-- A line is complete for a port (R252). -/
def State.lineDone (s : State) (e : Fin 8) : State := (s.updE e fun (q : EPort) => { q with line := none }).frameOver

/-- Raise LINE_LATE once per epoch and port (R253). -/
def State.lineLate (s : State) (e : Fin 8) (line : Nat) : State :=
  let ep := s.fnEpoch fnLidar
  let s := s.inc (.PORT_CNT_A_Late e) 1
  if (s.ep e).lateEpoch = some ep then s
  else (s.updE e fun (q : EPort) => { q with lateEpoch := some ep }).raise 0x0203 e line

/-- Suppress segments for a line (R258). -/
def suppress (e : Fin 8) : List Nat → State → State
  | [], s => s
  | k :: ks, s =>
    let ep := s.fnEpoch fnLidar
    let s := s.inc (.PORT_CNT_A_Suppressed e) 1
    if (s.ep e).expEpoch.contains (k, ep) then suppress e ks s
    else
      suppress e ks ((s.updE e fun (q : EPort) =>
        { q with expEpoch := (k, ep) :: q.expEpoch.filter fun (x : Nat × Nat) => x.1 != k }).raise 0x0204 e k)

/-- A sample of STAT: STAGE_FAULT at each change from inactive to active (R260). -/
def State.sampleStat (s : State) (e : Fin 8) (pin : Bool) : State :=
  let act := pin != s.on (.PORT_TIMING_StatLow e)
  let was := (s.ep e).statWas
  let s := s.updE e fun (q : EPort) => { q with statWas := act }
  if act && !was then s.raise 0x0205 e 0 else s

/-- What a line gives to every port that fires it. -/
structure LineExec where
  num : Nat
  pass : Nat
  angle : Nat
  tL : Nat
  step1 : Nat
  ok : Bool            -- j′ in range and its instants released
  x : FLine

/-- Step 1 of a line on a port that fires it: pattern, planned instants, point and banks (R252, R255, R258, R271 – R273). -/
def State.fireLine (s : State) (e : Fin 8) (q : LineExec) : State :=
  let r := s.regs
  let test := bit (s.rd .LANE_TEST_FireStart) e
  let n := q.x.shots
  let pat := Nat.lor (q.x.bypass.getD e 0xFFFF) (s.rd (.PORT_OPEN_Open e))
  let hot := s.overExposed e (0xFFFF - pat) n
  let s := suppress e hot s
  let pat := hot.foldl (fun (a k : Nat) => Nat.lor a (2 ^ k)) pat
  let mask := 0xFFFF - pat
  let n0 := s.rd64 (.PORT_SHOTS_LO_Shots e)
  let fires := if mask = 0 then [] else (List.range n).map fun (k : Nat) =>
    q.tL + 128 * k * s.rd (.PORT_TIMING_ShotIvl e) + 2 * ditherOf r e (n0 + k) q.x.seed
  let width := 32 * s.rd .EMT_TIMING_FireWidth
  let fall := q.tL - 128 * s.rd .EMT_TIMING_Settle
  let seq := s.rd (.PT_POINTS_Points e)
  let fired := mask != 0
  let line : ELine :=
    { tL := q.tL, pre := q.step1, fall := fall, fires := fires, off := none, width := width, byp := pat, shot := 0,
      point := if fired then some seq else none, diag := none, begun := true }
  let s := s.updE e fun (p : EPort) =>
    { p with line := some line, pchg := !test, byp := if test then 0xFFFF else pat, fire := false,
             busy := match fires.getLast? with | some t => t + width | none => fall,
             lastFire := match fires.getLast? with | some t => some t | none => p.lastFire }
  if !fired then s
  else
    let (s, got, without) := takeBanks ((lanesOf r e).filter fun (l : Nat) => belongs r l e mask) s
    let pt : PointSt :=
      { seq := seq, line := q.num, pass := q.pass, angle := q.angle, mask := mask, n := n, tL := q.tL, dev := s.devAtU q.tL,
        frame := s.rd .FRAME_COUNT_Frames, shot0 := n0, shots := [], exposure := !hot.isEmpty, supply := s.railLow,
        noBank := without, lanes := got, epoch := s.fnEpoch fnLidar, cfg := r }
    (s.updE e fun (p : EPort) => { p with points := p.points ++ [pt] }).wr (.PT_POINTS_Points e) (seq + 1)

/-- No line may start: a rail is below its warning level, or firing has not resumed (R261). -/
def State.lineHeld (s : State) : Bool := s.railLow || s.ctl.supplyHold

/-- No diagnostic firing may start: no line may, or firing waits for the first frame sync after a loss of PLL-D (R261, R268). -/
def State.diagHeld (s : State) : Bool := s.lineHeld || s.ctl.clockHold

/-- The diagnostic firings of a port that have not started are left out; an isolation sequence so cut short gives no result (R261, R265,
R266). -/
def EPort.cutDiags (p : EPort) : EPort :=
  { p with diags := [], isoCut := p.isoCut || p.diags.any fun (x : ELine) => isIso x.diag }

/-- Step 1 of a line on one of its ports: the port fires or skips the line (R253, R260, R261, R264). -/
def State.portLine (s : State) (q : LineExec) (e : Fin 8) : State :=
  if !bit q.x.enable e || !portIn s.regs e || s.rd (.PORT_STATE_State e) != 1 then s
  else if (s.ep e).statWas then s.inc (.PORT_CNT_B_StageFault e) 1
  else if s.lineHeld then
    (s.inc (.PORT_CNT_A_Late e) 1).updCtl fun (c : EmtSt) => { c with supplyHold := true }
  else
    let p := s.ep e
    let first := q.tL + 2 * ditherOf s.regs e (s.rd64 (.PORT_SHOTS_LO_Shots e)) q.x.seed
    let close := match p.lastFire with | some t => decide (first < t + minIvl s.regs e) | none => false
    if !q.ok || p.line.isSome || decide (q.step1 ≤ p.busy) || decide (q.step1 < s.ctl.resolved + 128000) || close then s.lineLate e q.num
    else s.fireLine e q

/-! Frames (R246 – R251) -/

/-- The LoopEnd line whose loop encloses line n, with its number. -/
def enclosing (xs : List FLine) (n : Nat) : Option (FLine × Nat) :=
  match xs.zipIdx.find? fun (q : FLine × Nat) => decide (n ≤ q.2) && q.1.loopEnd with
  | some (x, k) => if x.loopStart % 4096 ≤ n then some (x, k) else none
  | none => none

/-- The pass counter of a LoopEnd line (R251). -/
def State.passOf (s : State) (n : Nat) : Nat := spGet (fun _ => 0) s.ctl.loops n

/-- Execution continues after a line (R247, R251). -/
def State.advance (s : State) (x : FLine) (n : Nat) : State :=
  let done := x.frameEnd || n == 4095
  if x.loopEnd && decide (s.passOf n < x.loopCount) then
    s.updCtl fun (c : EmtSt) => { c with loops := spSet (fun _ => 0) c.loops n (s.passOf n + 1), pc := x.loopStart % 4096, first := false, advanced := false }
  else
    (s.updCtl fun (c : EmtSt) =>
      { c with loops := spSet (fun _ => 0) c.loops n 0, pc := if done then 4096 else n + 1, first := false, advanced := false }).frameOver

/-- A port that is enabled, not stopped and tested runs, also one whose open segment is bypassed from now on (R263, R265, R267). -/
def State.resumePort (s : State) (e : Fin 8) : State :=
  let p := s.ep e
  if portIn s.regs e && !p.stopped && p.tested && (s.rd (.PORT_STATE_State e) == 0 || p.back) then
    (((s.updE e fun (p : EPort) => { p with back := false }).wr (.PORT_STATE_State e) 1).wr (.PORT_STATE_Cause e) 0).wr (.PORT_STATE_Misses e) 0
  else s

/-- What a change of lidar registers does at the engine's line boundary (R235). A port that the epoch enables runs from this line on; a
FAULTED one stays so (R263). -/
def State.lidarSwitched (s : State) (old : RegFile) : State :=
  let f := fun (x : Fld) => rfRd old x != s.rd x
  let s := (List.finRange 2).foldl (fun (s : State) (k : Fin 2) =>
    let turn := f (.SCAN_CTRL_Mode k)
    let s := if turn then s.updScan k fun (c : ScanSt) => c.shiftDrv (asr (if s.on (.SCAN_CTRL_Mode k) then s.time.sig48 else -s.time.sig48) 24)
      else s
    if turn || f (.SCAN_NOM_NomFreq k) || f (.SCAN_FREQ_FMin k) || f (.SCAN_FREQ_FMax k) || (f (.SCAN_CTRL_Enable k) && !s.on (.SCAN_CTRL_Enable k)) then
      s.searchScan k
    else s) s
  let s := if f .EMT_CTRL_FrameSrc || f .EMT_FRAME_PERIOD_Time || f .EMT_FRAME_PHASE_Time then
      s.updCtl fun (c : EmtSt) => { c with syncs := if f .EMT_CTRL_FrameSrc then [] else c.syncs, syncLast := none }
    else s
  let s := if anyPort old then s else s.dropSyncs
  (List.finRange 8).foldl (fun (s : State) (e : Fin 8) =>
    let st := s.rd (.PORT_STATE_State e)
    if !portIn s.regs e && st != 0 && st != 3 then (s.idlePort e).wr (.PORT_STATE_State e) 0
    else if portIn s.regs e && !portIn old e && s.on .EMT_STATUS_InFrame then s.resumePort e
    else s) s

/-- The lidar engine's line boundary (R37). DESIGN CHOICE, unsafe: log 61. -/
def State.lidarBoundary (s : State) (at_ : Nat) : State :=
  match s.nextEpochOf fnLidar with
  | none => s
  | some _ => (s.takeEpoch fnLidar (s.devAtU at_)).lidarSwitched s.regs

/-- A frame sync that is due: its instant, and the controller that has taken it (R246, R447). -/
def State.frameDue (s : State) : Option (Nat × State) :=
  if s.rd .EMT_CTRL_FrameSrc = 2 then
    let n := s.rd .EMT_FRAME_PERIOD_Time * 1000
    let ph := s.rd .EMT_FRAME_PHASE_Time * 1000
    match s.crossing n ph s.ctl.syncLast with
    | some k => some (s.xuOfDev (k * n + ph), s.updCtl fun (c : EmtSt) => { c with syncLast := some k })
    | none => none
  else match s.ctl.syncs with
    | t :: rest => if s.dueU t then some (t, s.updCtl fun (c : EmtSt) => { c with syncs := rest }) else none
    | [] => none

/-- A line that has not started and that a port would fire remains in the running frame (R248). -/
def State.portLeft (s : State) (e : Nat) : Bool :=
  let xs := s.program s.activeBank
  let from_ := match enclosing xs s.ctl.pc with
    | some (x, k) => if s.passOf k < x.loopCount then x.loopStart % 4096 else s.ctl.pc
    | none => s.ctl.pc
  decide (s.ctl.pc < 4096) && (xs.drop from_).any fun (x : FLine) => bit x.enable e

/-- A frame sync during a running program ends the frame, and the new one begins with a blanking of zero (R248). -/
def State.overrun (s : State) (t : Nat) : State :=
  if !s.on .EMT_STATUS_InFrame then s
  else
    let s := (List.range 8).foldl (fun (s : State) (e : Nat) =>
      if portIn s.regs e && s.portLeft e then s.inc (.PORT_CNT_B_Overrun e) 1 else s) s
    let ep := s.fnEpoch fnLidar
    let s := if s.ctl.overEpoch = some ep then s
      else (s.updCtl fun (c : EmtSt) => { c with overEpoch := some ep }).raise 0x0202 0 (s.rd .FRAME_COUNT_Frames)
    s.endFrameNow t

/-- A waiting bank becomes active (R245). -/
def State.swapNow (s : State) : State :=
  if s.on .EMT_BANK_Waiting then (s.wr .EMT_BANK_Waiting 0).wr .EMT_BANK_Active (1 - s.activeBank) else s

/-- FRAME_SYNC: the running frame ends, a waiting bank takes effect, stopped ports resume, and the program starts at line 0, whose step 1 is
the boundary at which an epoch that waits takes effect (R37, R245 – R248, R252, R261, R263, R267, R269). One that falls while the engine
has no frame to run starts none. DEDUCED, unsafe: log 123. -/
def execFrameSync (s : State) : Out :=
  if !s.lidarRuns then .next s.dropSyncs
  else match s.frameDue with
    | none => .next s
    | some (t, s) =>
      let s := ((((s.overrun t).swapNow).endPulses t).settleLanes t).lateTables t
      let s := s.updCtl fun (c : EmtSt) => { c with supplyHold := c.supplyHold && !s.supplyBack, clockHold := false }
      let s := (List.finRange 8).foldl (fun (s : State) (e : Fin 8) => (s.updE e EPort.cutDiags).resumePort e) s
      let s := (s.wr .FRAME_COUNT_Frames (s.rd .FRAME_COUNT_Frames + 1)).wr .EMT_STATUS_InFrame 1
      .next (s.updCtl fun (c : EmtSt) =>
        { c with pc := 0, loops := [], first := true, advanced := false, syncAt := t, resolved := t, tL := t,
                 scan := c.scan.dropWhile fun (x : ScanLine) => decide (x.start < t) })

/-! One line (R250 – R255) -/

/-- The current scan line once NextLine has been taken; none while its line event is awaited (R250). -/
def State.turnLine (s : State) (x : FLine) : Option State :=
  if !x.nextLine || s.ctl.advanced then some s
  else match s.ctl.scan with
    | _ :: y :: ys => some (s.updCtl fun (c : EmtSt) => { c with scan := y :: ys, advanced := true, resolved := max c.resolved y.start })
    | _ => none

/-- The line's instant and its j′ (R250); `ok` is false where j′ lies outside the scan line, whose t_L is then open. -/
def State.resolveLine (s : State) (x : FLine) (n : Nat) : LineExec × State :=
  let loop := enclosing (s.program s.activeBank) n
  let pass := match loop with | some (_, k) => s.passOf k | none => 0
  let pre := preTime s.regs
  if x.timeMode then
    let t := (if s.ctl.first then s.ctl.syncAt else s.ctl.tL) + 2 * x.at_
    (⟨n, pass, 0xFFFF, t, t - pre, true, x⟩, s)
  else
    let step : Int := match loop with | some (y, _) => y.idxStep | none => 0
    let j : Int := (x.j : Int) + step * pass
    match s.ctl.scan with
    | y :: _ =>
      if 0 ≤ j ∧ j < y.steps then
        let t := s.xuOfLam (y.fireAt j.toNat * 2 ^ 42)
        (⟨n, pass, j.toNat, t, t - pre, true, x⟩, s)
      else
        let (v, s) := s.draw
        (⟨n, pass, ofS 16 j, v.toNat, 0, false, x⟩, s)
    | [] =>
      let (v, s) := s.draw
      (⟨n, pass, ofS 16 j, v.toNat, 0, false, x⟩, s)

/-- Step 1 of the next diagnostic firing of a port (R252, R261, R265, R266). -/
def State.beginDiag (s : State) (e : Fin 8) : Option State :=
  let p := s.ep e
  match p.line, p.diags with
  | none, d :: ds =>
    if s.dueU d.pre && !s.diagHeld then
      let test := bit (s.rd .LANE_TEST_FireStart) e
      some (s.updE e fun (p : EPort) =>
        { p with line := some { d with begun := true }, diags := ds, pchg := !test, byp := if test then 0xFFFF else d.byp,
                 busy := d.tL + d.width, lastFire := some d.tL })
    else none
  | _, _ => none

/-- LINE_PRECHARGE: step 1 of a diagnostic firing or of the program's next line, with the levels of the eight STAT pins; an epoch taken
there that ends the frame leaves the line unfired (R232, R235, R250 – R253, R258 – R261, R37). -/
def execLinePrecharge (stat : BitVec 8) (s : State) : Out :=
  match (List.finRange 8).findSome? fun (e : Fin 8) => s.beginDiag e with
  | some s => .next s
  | none =>
    if !s.lidarRuns || !s.on .EMT_STATUS_InFrame || s.ctl.pc == 4096 then .next s
    else
      let n := s.ctl.pc
      let x := s.fline s.activeBank n
      match s.turnLine x with
      | none => .next s
      | some s =>
        let (q, s') := s.resolveLine x n
        if !s.dueU q.step1 then .next s
        else
          let s := s'.lidarBoundary q.step1
          if !s.on .EMT_STATUS_InFrame then .next s
          else
          let s := (List.finRange 8).foldl (fun (s : State) (e : Fin 8) => if portIn s.regs e then s.sampleStat e (bit stat.toNat e) else s) s
          let s := (List.finRange 8).foldl (fun (s : State) (e : Fin 8) => s.portLine q e) s
          .next ((s.updCtl fun (c : EmtSt) => { c with tL := q.tL }).advance x n)

/-- PCHG_FALL: step 2 of a line (R252). -/
def execPchgFall (e : Fin 8) (s : State) : Out :=
  match (s.ep e).line with
  | none => .next s
  | some x =>
    if (s.dueU x.fall && x.off.isNone) && x.shot == 0 then
      let s := s.updE e fun (p : EPort) => { p with pchg := false }
      .next (if x.fires.isEmpty then s.lineDone e else s)
    else .next s

/-! Shots (R215 – R220, R254, R257) -/

/-- A segment's firings are counted (R257, R266). -/
def State.expose (s : State) (e : Fin 8) (mask : Nat) : State :=
  let ms := s.now / 1000000
  (List.finRange 16).foldl (fun (s : State) (k : Fin 16) =>
    if bit mask k then s.updE e fun (p : EPort) =>
      { p with expo := bump (p.expo.filter fun (q : Nat × Nat) => decide (ms < q.1 / 16 + 100)) (16 * ms + k),
               lastIn := vupd p.lastIn k fun (_ : Nat) => s.xt }
    else s) s

/-- A lane's part of a point at the launch of a shot: its pre-fire count and a blind interval in its window (R220, R222).
DESIGN CHOICE, unsafe: log 58. -/
def State.openShot (s : State) (r : RegFile) (k tp : Nat) (x : LanePt) : LanePt :=
  let y := s.lane x.lane
  let pf := 128 * rfRd r .TL_CTRL_PreFire
  let pre := (y.edges.filter fun (t : Nat) => decide (tp ≤ t + pf) && decide (t < tp)).length
  let blind := match y.blind with
    | some (a, b) => decide (a < tp + 128 * rfRd r (.LANE_WIN_Close x.lane)) && decide (tp + 128 * rfRd r (.LANE_WIN_Open x.lane) < b)
    | none => false
  { x with pre := x.pre ++ [(k, pre)], blind := x.blind || blind }

/-- Interval of the stops that the hold-off admits, 1/128 ns, in rising order. -/
def holdGo (hold : Nat) : List Nat → Option Nat → List Nat
  | [], _ => []
  | t :: ts, last =>
    if (match last with | some l => decide (t < l + hold) | none => false) then holdGo hold ts last else t :: holdGo hold ts (some t)

/-- The synthetic stops of a lane for a shot: stamps, 1/128 ns (R532). -/
def synStops (r : RegFile) (l n : Nat) : List Nat :=
  let w2 := (rfWord r 0x720118).toNat
  let seed := (rfWord r 0x720110).toNat / 2 ^ 16
  let st := 128 * ((rfWord r 0x72011C).toNat % 64)
  let op := 128 * rfRd r (.LANE_WIN_Open l)
  let cl := 128 * rfRd r (.LANE_WIN_Close l)
  let amb := if w2 / 2 ^ 24 = 0 then [] else (Config.synAmbient seed l n (w2 / 2 ^ 24) (cl - op)).map fun (t : Nat) => op + t
  let jit : Int := roundDiv (Config.synJitter seed l n * (w2 / 256 % 65536 : Nat) * 128) (65536 * 1000)
  let hit := decide (Config.synDraw seed l n % 256 < w2 % 256)
  let tgt : List Nat := if hit then [((st : Int) + (rfWord r 0x720114).toNat + jit).toNat] else []
  holdGo (512 * rfRd r (.LANE_CFG_HoldOff l))
    (sortBy (fun (a b : Nat) => decide (a < b)) ((amb ++ tgt).filter fun (t : Nat) => decide (op ≤ t) && decide (t < cl))) none

/-- The synthetic stops of a shot on every lane of its point are delivered, in the order of their instants (R221, R532). -/
def State.synShot (s : State) (e : Fin 8) (r : RegFile) (h : EShot) (lanes : List Nat) : State :=
  let st := 128 * ((rfWord r 0x72011C).toNat % 64)
  let stops := (lanes.filter fun (l : Nat) => synLane r l).flatMap fun (l : Nat) => (synStops r l h.n).map fun (t : Nat) => (t, l)
  (sortBy (fun (a b : Nat × Nat) => decide (a.1 < b.1)) stops).foldl (fun (s : State) (q : Nat × Nat) => s.deliverStop e h st q.2 q.1) s

/-- Test pulses that a shot injects: into the lanes that time it, and into its start lane (R527). -/
def State.injectShot (s : State) (e : Fin 8) (tp : Nat) : State :=
  let amp : Int := s.rd .LANE_TEST_InjAmp * 1000
  let pulse := fun (s : State) (l t : Nat) =>
    let base := compOut s.regs l false 0
    let high := compOut s.regs l base amp
    if high && !base then s.updLane l fun (y : LaneSt) => { y with inject := y.inject ++ [t] }
    else if !high && base then s.updLane l fun (y : LaneSt) => { y with inject := y.inject ++ [t + Config.injWidth] }
    else s
  let s := ((lanesOf s.regs e).filter fun (l : Nat) => bit (s.rd .LANE_TEST_Inject) (l / 16)).foldl
    (fun (s : State) (l : Nat) => pulse s l (tp + 128 * s.rd .LANE_TEST_T_InjDelay)) s
  if bit (s.rd .LANE_TEST_FireStart) e then pulse s (256 + e.val) (tp + 128 * s.rd .LANE_TEST_T_LoopDelay) else s

/-- SHOT_FIRE: FIRE rises for the next shot of a port's line at t_p, timed under the epoch of its line (R252, R254, R216, R257,
R291). DESIGN CHOICE, unsafe: log 62. -/
def execShotFire (e : Fin 8) (s : State) : Out :=
  match (s.ep e).line with
  | none => .next s
  | some x =>
    match x.fires with
    | [] => .next s
    | t :: rest =>
      if !s.dueU t || x.off.isSome || (s.ep e).pchg || !s.locked 3 then .next s
      else
        let n := s.rd64 (.PORT_SHOTS_LO_Shots e)
        let r := match (s.ep e).points.find? fun (p : PointSt) => some p.seq == x.point with | some p => p.cfg | none => s.regs
        let planned := rfRd r (.START_CFG_Planned e) == 1
        let h : EShot :=
          { n := n, tp := t, s := x.shot, point := x.point, diag := x.diag,
            st := if planned then some (128 * rfRd r (.START_CFG_Nominal e)) else none, searched := planned, stops := [] }
        let test := bit (s.rd .LANE_TEST_FireStart) e
        let s := (s.inc64 (.PORT_SHOTS_LO_Shots e) 1).expose e (0xFFFF - x.byp)
        let s := s.updE e fun (p : EPort) =>
          { p with fire := !test, line := some { x with fires := rest, off := some (t + x.width), shot := x.shot + 1 },
                   shots := (p.shots.filter fun (g : EShot) => !g.searched || decide (s.xu < g.tp + 128 * 8192)) ++ [h] }
        let s := s.injectShot e t
        match (s.ep e).points.find? fun (p : PointSt) => some p.seq == x.point with
        | none => .next s
        | some p =>
          let s := s.updE e fun (q : EPort) =>
            { q with points := q.points.map fun (y : PointSt) =>
                if y.seq == p.seq then { y with shots := y.shots ++ [(x.shot, t)], lanes := y.lanes.map (s.openShot p.cfg x.shot t) } else y }
          .next (s.synShot e p.cfg h (p.lanes.map fun (y : LanePt) => y.lane))

/-- FIRE_FALL: FIRE falls FireWidth after it rose; after the last shot the line is complete for the port (R252). -/
def execFireFall (e : Fin 8) (s : State) : Out :=
  match (s.ep e).line with
  | none => .next s
  | some x =>
    match x.off with
    | none => .next s
    | some t =>
      if !s.dueU t then .next s
      else
        let s := s.updE e fun (p : EPort) => { p with fire := false, line := some { x with off := none } }
        .next (if x.fires.isEmpty then s.lineDone e else s)

/-! Diagnostics (R262 – R266) -/

/-- The walking-pattern test may run: as stage S11; before the first line of a port that has not been tested; or in a blanking of at least
10 µs, in its final 8 µs, and never over a threshold trim. Where the frame sync that ends the blanking is not known in advance, it runs, and may run
again, once 10 µs of it have passed (R262, R263, R526). DESIGN CHOICE, unsafe: log 64. -/
def State.mayWalk (s : State) : Bool :=
  let untested := (List.finRange 8).any fun (e : Fin 8) => !(s.ep e).tested
  let starting := bit s.power.begun 11 && !s.power.released
  let last := match s.nextSync with
    | some t => s.ctl.walkNo != s.ctl.blankNo && decide (s.ctl.blankFrom + 1280000 ≤ t) && s.dueU (t - 1024000) && decide (s.xu < t)
    | none => decide (s.ctl.blankFrom + 1280000 ≤ s.xu)
  let trims := s.lidar.lanes.any fun (q : Nat × LaneSt) => q.2.trim.isSome
  !trims && (s.lidarOn || starting) && s.locked 3 && !s.on .EMT_STATUS_InFrame && s.allIdle && (untested || starting || last)

/-- WALKING_PATTERN_TEST: `low` are the driven pins that read low, `high` the pins that read high while another was driven:
driven port and pin, port and pin that read high. It is stage S11 of start-up (R262, R263, R458). -/
def execWalkingPatternTest (low : List (Fin 8 × Fin 19)) (high : List (Fin 8 × Fin 19 × Fin 8 × Fin 19)) (s : State) : Out :=
  let starting := bit s.power.begun 11 && !s.power.released
  if !s.mayWalk then .next s
  else
    let pinsOf := fun (e : Fin 8) =>
      (low.filter fun (q : Fin 8 × Fin 19) => q.1 == e).map (fun (q : Fin 8 × Fin 19) => q.2.val) ++
        (high.filter fun (q : Fin 8 × Fin 19 × Fin 8 × Fin 19) => q.1 == e).flatMap fun (q : Fin 8 × Fin 19 × Fin 8 × Fin 19) =>
          if q.2.2.1 == e then [q.2.1.val, q.2.2.2.val] else [q.2.1.val]
    let s := s.updCtl fun (c : EmtSt) => { c with walkAt := s.xt, walkNo := c.blankNo, walkStale := false }
    let s := if starting then { s with power := { s.power with stages := setBit s.power.stages 11 true } } else s
    .next ((List.finRange 8).foldl (fun (s : State) (e : Fin 8) =>
      let s := s.updE e fun (p : EPort) => { p with tested := true }
      match pinsOf e with
      | [] => s
      | i :: is =>
        let pin := is.foldl min i
        (s.faultPort e 1 pin).raise 0x0206 e pin) s)

/-- A supply rail falls below its warning level: no new line starts, the points of lines in progress are marked, and the diagnostic firings that
have not started are left out; an isolation sequence so cut short gives no result and runs again in a later blanking (R261, R265).
DESIGN CHOICE, unsafe: log 63. -/
def State.holdLines (s : State) : State :=
  (List.finRange 8).foldl (fun (s : State) (e : Fin 8) =>
    s.updE e fun (p : EPort) =>
      let p := p.cutDiags
      match p.line with
      | none => p
      | some x => { p with points := p.points.map fun (q : PointSt) => if some q.seq == x.point then { q with supply := true } else q })
    (s.updCtl fun (c : EmtSt) => { c with supplyHold := true })

/-- SHORT_TEST_STALE: no walking-pattern test for 10 s while a port runs (R263). -/
def execShortTestStale (s : State) : Out :=
  let running := (List.range 8).filter fun (e : Nat) => s.rd (.PORT_STATE_State e) == 1
  if s.ctl.walkStale || running.isEmpty || !s.due (s.ctl.walkAt + 10000000000) then .next s
  else
    .next ((s.updCtl fun (c : EmtSt) => { c with walkStale := true }).raise 0x0207 (running.foldl (fun (a e : Nat) => a + 2 ^ e) 0) 0)

/-- A diagnostic firing of a port at an instant. -/
def State.diagLine (s : State) (t byp : Nat) (d : Bool × Nat) : ELine :=
  { tL := t, pre := t - preTime s.regs, fall := t - 128 * s.rd .EMT_TIMING_Settle, fires := [t], off := none,
    width := 32 * s.rd .EMT_TIMING_FireWidth, byp := byp, shot := 0, point := none, diag := some d, begun := false }

/-- The earliest instant of a diagnostic firing of a port: after its step 1, and MinIvl after the last FIRE (R266). -/
def State.diagFrom (s : State) (e : Fin 8) : Nat :=
  let t := s.xu + 3200 + preTime s.regs
  match (s.ep e).lastFire with | some l => max t (l + minIvl s.regs e) | none => t

/-- The emitter port that a lane times; none for a scan sync lane. -/
def State.laneOwner (s : State) (l : Nat) : Option Nat :=
  if l < 256 then some (s.rd (.LANE_CFG_Emitter l)) else if l < 264 then some (l - 256) else none

/-- A threshold trim of one of a port's own lanes runs (R526). -/
def State.ownTrim (s : State) (e : Fin 8) : Bool :=
  s.lidar.lanes.any fun (q : Nat × LaneSt) => q.2.trim.isSome && s.laneOwner q.1 == some e.val

/-- A port is free for diagnostic firings: in line scan with a measured start, quiet, and nothing holds it (R261, R264 – R268, R526). -/
def State.diagFree (s : State) (e : Fin 8) : Bool :=
  s.lidarRuns && s.portIdle e && !(s.ep e).back && !s.on (.START_CFG_Planned e) && !s.diagHeld && !s.ownTrim e

/-- Spacing of the firings of an isolation sequence: 1 µs, or MinIvl where it is longer (R265, R266). -/
def State.isoGap (s : State) (e : Fin 8) : Nat := max 128000 (minIvl s.regs e)

/-- An isolation sequence of a port may begin: in ISOLATING, in a blanking of at least 20 µs that holds it and has had none (R258, R265). -/
def State.isoMay (s : State) (e : Fin 8) : Bool :=
  s.diagFree e && s.rd (.PORT_STATE_State e) == 2 && s.blankingFits (128 * 20000) (s.diagFrom e + 15 * s.isoGap e + 128 * 64 - s.xu) &&
    (s.overExposed e (0xFFFF - s.rd (.PORT_OPEN_Open e)) 15).isEmpty && (s.ep e).isoIn != s.ctl.blankNo

/-- ISOLATION_SEQUENCE: sixteen diagnostic firings, each with one segment bypassed, in a blanking of at least 20 µs that has had none; each
segment is in circuit in fifteen of them (R258, R261, R265, R266). DESIGN CHOICE, unsafe: log 63. -/
def execIsolationSequence (e : Fin 8) (s : State) : Out :=
  let t0 := s.diagFrom e
  let opened := s.rd (.PORT_OPEN_Open e)
  if s.isoMay e then
    .next (s.updE e fun (p : EPort) =>
      { p with isoGot := [], isoCut := false, isoIn := s.ctl.blankNo,
               diags := (List.range 16).map fun (k : Nat) => s.diagLine (t0 + k * s.isoGap e) (Nat.lor opened (2 ^ k)) (true, k) })
  else .next s

/-- A low-duty firing of a segment may run: it has not been in circuit for 1 s, or its last such firing missed, and a blanking of at least
4 µs that has had none holds it; a port with a segment in PORT_OPEN is not tested (R258, R266). -/
def State.diagMay (s : State) (e : Fin 8) (k : Fin 16) : Bool :=
  let p := s.ep e
  let due := s.due (p.lastIn.get k + 1000000000) || decide (0 < p.low.get k)
  s.diagFree e && s.rd (.PORT_STATE_State e) == 1 && s.rd (.PORT_OPEN_Open e) == 0 && due && p.lowIn.get k != s.ctl.blankNo &&
    s.blankingFits (128 * 4000) (s.diagFrom e + 128 * 64 - s.xu) && (s.overExposed e (2 ^ k.val) 1).isEmpty

/-- DIAGNOSTIC_FIRING: one firing of a segment that has not been in circuit for 1 s, or whose last such firing missed, in a
blanking of at least 4 µs (R266). -/
def execDiagnosticFiring (e : Fin 8) (k : Fin 16) (s : State) : Out :=
  if s.diagMay e k then
    .next (s.updE e fun (p : EPort) =>
      { p with lowIn := vupd p.lowIn k fun (_ : Nat) => s.ctl.blankNo, diags := [s.diagLine (s.diagFrom e) (0xFFFF - 2 ^ k.val) (false, k)] })
  else .next s

/-! Abort, start, clock loss (R223, R267, R268, R292, R293) -/

/-- The point of the line in progress. -/
def EPort.linePoint (p : EPort) : Option Nat := match p.line with | some x => x.point | none => none

/-- ABORT of an emitter port (R267, R293). -/
def State.abortEmitter (s : State) (e : Fin 8) : State :=
  let cut := (s.ep e).linePoint
  let s := s.abandon e fun (p : PointSt) => some p.seq != cut
  let s := (s.idlePort e).updE e fun (p : EPort) =>
    { p with stopped := true, isoGot := [], isoRuns := 0, isoCut := false, back := false,
             shots := p.shots.filter fun (h : EShot) => h.point.isSome && h.point != cut }
  let s := s.wr (.PORT_STATE_Misses e) 0
  (if s.rd (.PORT_STATE_State e) = 3 then s else s.wr (.PORT_STATE_State e) 0).frameOver

/-- START of an emitter port: it resumes at the next frame sync; FAULTED is cleared and the short test runs again (R263, R267). -/
def State.startEmitter (s : State) (e : Fin 8) : State :=
  let faulted := s.rd (.PORT_STATE_State e) == 3
  let s := if faulted then ((s.wr (.PORT_STATE_State e) 0).wr (.PORT_STATE_Cause e) 0).wr (.PORT_STATE_Pins e) 0 else s
  s.updE e fun (p : EPort) => { p with stopped := false, tested := p.tested && !faulted }

/-- A stopped engine takes every epoch it waits in (R37, R558). -/
def State.lidarStopped (s : State) : State :=
  (List.range s.epoch.queue.length).foldl (fun (s : State) (_ : Nat) => s.lidarBoundary s.xu) s

/-- ABORT of the lidar engine: points whose last acceptance window has closed are still searched and emitted (R292). -/
def State.abortLidar (s : State) : State :=
  let s := (List.finRange 8).foldl (fun (s : State) (e : Fin 8) => (s.abortEmitter e).abandon e s.windowsClosed) s
  (((s.endFrame s.xu).dropSyncs).updCtl fun (c : EmtSt) => { c with stopped := true }).lidarStopped

/-- START of the lidar engine: all emitter ports resume at the next frame sync (R292). -/
def State.startLidar (s : State) : State :=
  (List.finRange 8).foldl (fun (s : State) (e : Fin 8) => s.startEmitter e)
    (((s.dropSyncs).updCtl fun (c : EmtSt) => { c with stopped := false }).beginBlanking s.xu)

/-- Loss of PLL-D; firing of any kind waits for the first frame sync after relock (R223, R268, R293). -/
def State.lidarLost (s : State) : State :=
  let s := (List.finRange 8).foldl (fun (s : State) (e : Fin 8) =>
    (((s.abandon e fun (_ : PointSt) => false).idlePort e).updE e fun (p : EPort) => { p with shots := [], isoGot := [], isoCut := false })) s
  let s := (List.finRange 2).foldl (fun (s : State) (k : Fin 2) =>
    let s := if s.on (.SCAN_STATUS_Locked k) then s.loseScan k 1 else s.searchScan k
    s.updScan k fun (c : ScanSt) => { c with sdrv := false, drvAt := none, lastSync := none }) s
  let s := (List.finRange 16).foldl (fun (s : State) (c : Fin 16) =>
    s.updChannel c fun (g : RegChan) => { g with gate := [], dups := 0, fits := [] }) s
  let s := (s.endPulses s.xu).updLidar fun (d : LidarSt) =>
    { d with lanes := d.lanes.filterMap fun (q : Nat × LaneSt) =>
        let y := { q.2 with edges := [], inject := [], trim := none, loadAt := none }
        if y = LaneSt.rest then none else some (q.1, y) }
  ((s.endFrame s.xu).dropSyncs).updCtl fun (c : EmtSt) => { c with scan := [], clockHold := true }

end Sys2Proof.Machine
end

