-- ==== Sys2Proof/Machine/Cal.lean ====
section
/-! DEFINITION. Calibration of the coherent and Raman slices, and when items fall due (R516 – R523). -/
namespace Sys2Proof.Machine

/-- Update the calibration of a port's coherent (false) or Raman (true) slices. -/
def State.updCal (s : State) (p : Fin 4) (raman : Bool) (f : PassCal → PassCal) : State :=
  { s with cal := vupd s.cal p fun (c : PortCal) => if raman then { c with ram := f c.ram } else { c with coh := f c.coh } }
/-- The calibration of a port's coherent or Raman slices. -/
def State.calOf (s : State) (p : Fin 4) (raman : Bool) : PassCal := if raman then (s.cal.get p).ram else (s.cal.get p).coh

/-- The slices of a pass. -/
def calSlices (raman : Bool) : List Nat := if raman then [4, 5] else [0, 1, 2, 3]

/-- The slices of a pass have power (R518). -/
def State.calPowered (s : State) (p : Fin 4) (raman : Bool) : Bool :=
  (calSlices raman).all fun (j : Nat) => ((s.feOf p).sliceFrom.get (fin 5 j)).isSome

/-- The running plan of a port. -/
def State.plan (s : State) (p : Fin 4) : Plan := planOf s.regs p (s.probeOf p).slot

/-- The port's measurement uses the slices of a pass (R516). -/
def State.calBusy (s : State) (p : Fin 4) (raman : Bool) : Bool :=
  (s.probeOf p).running && (if raman then (s.plan p).m != 0 else !(s.plan p).tones.isEmpty)

/-- The plan leaves no tail, or no gap between Raman windows, of 50 µs (R516, R521, R522). -/
def State.calNoGap (s : State) (p : Fin 4) (raman : Bool) : Bool :=
  let q := s.plan p
  s.calBusy p raman &&
    (if raman then decide (q.m * q.shotT < 4 * s.rd (.DTS_RANGE_RamanPos p) + 50000) else decide (q.tail < 50000))

/-- A pass is due and has slices whose steps have not begun. -/
def PassCal.left (c : PassCal) (raman : Bool) : Bool := c.item.due && decide (c.slices < (calSlices raman).length)

/-- A pass that finds no gap under the plan in force waits for the next switching boundary (R521, R522). -/
def State.noteWait (s : State) (p : Fin 4) (raman : Bool) : State :=
  if (s.calOf p raman).left raman && s.calNoGap p raman then s.updCal p raman fun (c : PassCal) => { c with waited := true } else s
/-- The same for both passes of a port. -/
def State.noteWaits (s : State) (p : Fin 4) : State := (s.noteWait p false).noteWait p true

/-- Show the waiting and running passes in CAL_STATUS. -/
def State.showCal (s : State) (p : Fin 4) : State :=
  let c := s.calOf p false
  let run := c.item.running || (s.calOf p true).item.running
  let s := s.wr .CAL_STATUS_Waiting (setBit (s.rd .CAL_STATUS_Waiting) p (c.left false && s.calNoGap p false))
  s.wr .CAL_STATUS_Running (setBit (s.rd .CAL_STATUS_Running) p run)

/-- An item of a port falls due (R517). -/
def State.calFall (s : State) (p : Fin 4) (raman cmd : Bool) : State :=
  (s.updCal p raman fun (c : PassCal) =>
    if c.item.due then c else { c with item := c.item.fall s.xt cmd, slices := 0, stepShot := none, forced := false, waited := false }).showCal p

/-- A pass begins no earlier than its first step. -/
def PassCal.begin (c : PassCal) (at_ : Nat) : PassCal :=
  if c.item.running then c else { c with item := { c.item with running := true }, from_ := at_ }

/-- A step of a pass disconnects one slice for 48 µs from an instant (R516, R520). -/
def State.calStep (s : State) (p : Fin 4) (raman : Bool) (shot : Option Nat) : State :=
  let c := s.calOf p raman
  let j := if raman then 4 + c.slices else c.slices
  let s := s.updCal p raman fun (c : PassCal) =>
    { c.begin s.xt with slices := c.slices + 1, stepEnd := s.xt + 48000, stepShot := shot }
  (s.addSpans p [(j, s.xt, s.xt + 48000)]).showCal p

/-- The earliest instant at which the port's next shot boundary can fall, where shots are to come: the one known, or with an external start that of
the earliest event accepted (R70, R71). -/
def State.nextBound (s : State) (p : Fin 4) : Option Nat :=
  let q := s.plan p
  let b := s.probeOf p
  match b.bounds with
  | t :: _ => some t
  | [] => if q.ext then b.lastEvent.map fun (t : Nat) => t + q.shotT - 1000 + q.extDelay else none

/-- The 48 µs from now lie in the tail of the shot in progress (R516, R520). -/
def State.inTail (s : State) (p : Fin 4) : Bool :=
  let q := s.plan p
  match (s.ports.get p).shots.head? with
  | some h => decide (50000 ≤ q.tail) && decide (h.at_ + q.lastOff + q.delay + q.winLen ≤ s.xt) &&
      match s.nextBound p with | some b => decide (s.xt + 48000 ≤ b + q.delay) | none => true
  | none => false

/-- The 48 µs from now lie between Raman windows; with an external start each shot may come 1 µs early (R71, R516, R520). -/
def State.inGap (s : State) (p : Fin 4) : Bool :=
  let q := s.plan p
  let len := 4 * s.rd (.DTS_RANGE_RamanPos p)
  match (s.ramOf p).lastTrig with
  | none => false
  | some t => decide (len + 50000 ≤ q.m * q.shotT) && decide (t + q.rDelay + len ≤ s.xt) &&
      decide (s.xt + 48000 ≤ t + q.m * (q.shotT - (if q.ext then 1000 else 0)) + q.rDelay)

/-- The gap a step takes: the shot of the tail, or the trigger before the Raman gap. -/
def State.gapId (s : State) (p : Fin 4) (raman : Bool) : Option Nat :=
  if raman then (s.ramOf p).lastTrig else (s.ports.get p).shots.head?.map fun (h : Shot) => h.id

/-- CAL_STEP_START: the next slice of a due pass starts in a fitting gap, one slice per gap; slices that do not measure need no gap
(R516, R517, R520). -/
def execCalStepStart (p : Fin 4) (raman : Bool) (s : State) : Out :=
  let c := s.calOf p raman
  let busy := s.calBusy p raman
  let fits := !busy || ((if raman then s.inGap p else s.inTail p) && c.stepShot != s.gapId p raman)
  if c.left raman && !c.forced && decide (c.stepEnd ≤ s.xt) && s.calPowered p raman &&
      s.sampling && s.locked 1 && fits then
    .next (s.calStep p raman (if busy then s.gapId p raman else none))
  else .next s

/-- CAL_FORCE_TIMEOUT: a pass that has waited ForceAfter seconds, since it fell due or since its last step, is forced at the port's next shot
boundary (R521, R522). -/
def execCalForceTimeout (p : Fin 4) (raman : Bool) (s : State) : Out :=
  let c := s.calOf p raman
  let w := s.rd .CAL_CFG_ForceAfter
  let from_ := if c.item.running then max c.item.since c.stepEnd else c.item.since
  if c.left raman && !c.forced && w != 0 && s.calNoGap p raman && s.due (from_ + w * 1000000000) then
    .next (s.updCal p raman fun (c : PassCal) => { c with forced := true })
  else .next s

/-- The interruptions of a pass whose slices from the `k`th on run back to back from an instant: a coherent slice spoils the merged samples of its input,
CX for 96 µs and then CY in a whole pass, a Raman slice its own (R521, R522). -/
def passSpans (raman : Bool) (k at_ : Nat) : List (Nat × Nat × Nat) :=
  ((calSlices raman).drop k).zipIdx.flatMap fun (x : Nat × Nat) =>
    let (a, b) := (at_ + 48000 * x.2, at_ + 48000 * (x.2 + 1))
    if raman then [(x.1, a, b)] else [(x.1 / 2 * 2, a, b), (x.1 / 2 * 2 + 1, a, b)]

/-- What is left of a waiting pass runs by interruption from a shot boundary where it is forced, with CAL_FORCED, or where the port switches
(R521, R522). -/
def State.calBoundary1 (s : State) (p : Fin 4) (raman : Bool) (at_ : Nat) (switched : Bool) : State :=
  let c := s.calOf p raman
  if c.left raman && s.calPowered p raman && (c.forced || (switched && c.waited)) then
    let n := (calSlices raman).length
    let from_ := if c.item.running then max at_ c.stepEnd else at_
    let s := s.addSpans p (passSpans raman c.slices from_)
    let s := (s.updCal p raman fun (c : PassCal) =>
      { c.begin at_ with slices := n, stepEnd := from_ + 48000 * (n - c.slices), stepShot := none, forced := false, waited := false }).showCal p
    if c.forced then s.raise 0x0802 (if raman then 2 else 1) p else s
  else s
/-- Both passes of a port at a boundary. -/
def State.calBoundary (s : State) (p : Fin 4) (at_ : Nat) (switched : Bool) : State :=
  ((s.calBoundary1 p false at_ switched).calBoundary1 p true at_ switched).showCal p

/-- A slice's result meets the limits of R519. -/
def calOk (raman : Bool) (t : CalResult) : Bool :=
  decide (-4096 ≤ t.off) && decide (t.off ≤ 4096) && decide (14746 ≤ t.gain) && decide (t.gain ≤ 18022) &&
    (raman || (decide (-64 < t.skew) && decide (t.skew < 63) && decide (14746 ≤ t.hZero) && decide (t.hZero ≤ 18022) &&
      decide (t.hMinus.natAbs ≤ 819) && decide (t.hPlus.natAbs ≤ 819)))

/-- The trims of a result; a Raman slice has offset and gain only (R97). -/
def CalResult.trim (raman : Bool) (t : CalResult) : Trim :=
  if raman then { trimBypass with off := t.off, gain := t.gain }
  else { off := t.off, gain := t.gain, hMinus := t.hMinus, hZero := t.hZero, hPlus := t.hPlus, skew := t.skew }

/-- A pass ends without its results: nothing of it remains. -/
def PassCal.idle (c : PassCal) : PassCal := { c with slices := 0, stepShot := none, forced := false, waited := false, item := { c.item with running := false } }

/-- The port launches shots: its results wait for a shot boundary (R101). -/
def State.launches (s : State) (p : Fin 4) : Bool := (s.probeOf p).running && !(s.plan p).idle

/-- On a port that launches no shots the results of a pass apply when its last open window has closed (R101). DESIGN CHOICE, unsafe: log 143. -/
def State.calAtOnce (s : State) (p : Fin 4) : State :=
  let q := s.ports.get p
  let close := (q.wins.map fun (w : ToneWin) => w.closeAt) ++ match q.rwin with | some w => [w.closeAt] | none => []
  (s.applyTrims p (close.foldl max s.xt) true).1

/-- CAL_PASS_DONE: the steps of a pass have ended with the results `res`, one per slice: discarded under a supply warning, refused, or
applied at the next boundary (R101, R519). -/
def execCalPassDone (p : Fin 4) (raman : Bool) (res : List CalResult) (s : State) : Out :=
  let c := s.calOf p raman
  let n := (calSlices raman).length
  if !c.item.running || c.slices != n || res.length != n || !s.due c.stepEnd then .next s
  else if s.supplyFlag c.from_ s.xt != 0 then .next ((s.updCal p raman fun (c : PassCal) => c.idle).showCal p)
  else if !res.all (calOk raman) then
    let s := s.updCal p raman fun (c : PassCal) => { c.idle with item := c.item.failed s.xt (s.rd .CAL_CFG_Interval) }
    .next ((s.calFailed (if raman then 2 else 1) p).showCal p)
  else
    let s := s.updCal p raman fun (c : PassCal) => { c.idle with item := c.item.applied s.xt (s.rdS .DIE_TEMP_Temp) }
    let new := (calSlices raman).zip (res.map (CalResult.trim raman))
    let s := s.updFe p fun (f : FeSt) => { f with calNext := (f.calNext.filter fun (v : Nat × Trim) => (decide (v.1 < 4)) == raman) ++ new }
    let s := if s.launches p then s else s.calAtOnce p
    .next (s.showCal p)

/-- ABORT of a port abandons its passes; the trims in force stay (R523). -/
def State.calAbandon (s : State) (p : Fin 4) : State :=
  let stop := fun (c : PassCal) => if c.item.running || c.item.due then { c.idle with item := { c.item with due := false, running := false, cmd := false } } else c
  ((s.updCal p false stop).updCal p true stop).showCal p

/-- CAL_INTERVAL_EXPIRY: Interval minutes after a unit's calibration, or after the wait of a refused one, the item falls due (R517,
R519). The unit is a port for items 1 and 2, a lane for 3 and 4. -/
def execCalIntervalExpiry (item : Fin 5) (unit : Fin 266) (s : State) : Out :=
  let iv := s.rd .CAL_CFG_Interval
  match item.val with
  | 1 => .next (if decide (unit.val < 4) && (s.calOf (fin 3 unit) false).item.expired s.xt iv then s.calFall (fin 3 unit) false false else s)
  | 2 => .next (if decide (unit.val < 4) && (s.calOf (fin 3 unit) true).item.expired s.xt iv then s.calFall (fin 3 unit) true false else s)
  | 3 => .next (if s.on (.LANE_CFG_Enable unit) && (s.lane unit).tdc.expired s.xt iv then s.tdcDue unit false else s)
  | 4 => .next (if s.on (.LANE_CFG_Enable unit) && (s.lane unit).thr.expired s.xt iv then s.thrDue unit false else s)
  | _ => .next s

/-- The die temperature has changed: units that have moved more than DeltaT since their calibration fall due (R517). -/
def State.calTemp (s : State) : State :=
  let t := s.rdS .DIE_TEMP_Temp
  let d := s.rd .CAL_CFG_DeltaT
  let s := (List.finRange 4).foldl (fun (s : State) (p : Fin 4) =>
    let s := if (s.calOf p false).item.moved t d && !(s.calOf p false).item.due then s.calFall p false false else s
    if (s.calOf p true).item.moved t d && !(s.calOf p true).item.due then s.calFall p true false else s) s
  s.enabledLanes.foldl (fun (s : State) (l : Nat) =>
    let s := if (s.lane l).tdc.moved t d && !(s.lane l).tdc.due then s.tdcDue l false else s
    if (s.lane l).thr.moved t d && !(s.lane l).thr.due then s.thrDue l false else s) s

/-- What a write of CAL_CMD makes due (R517). DESIGN CHOICE, unsafe: log 115. -/
def State.calCmd (s : State) (data : Nat) : State :=
  let s := (List.finRange 4).foldl (fun (s : State) (p : Fin 4) =>
    let s := if bit data p then s.calFall p false true else s
    if bit data (4 + p) then s.calFall p true true else s) s
  let s := if bit data 8 then s.enabledLanes.foldl (fun (s : State) (l : Nat) => s.tdcDue l true) s else s
  if bit data 9 then s.enabledLanes.foldl (fun (s : State) (l : Nat) => s.thrDue l true) s else s

/-- The start-up pass ran every item on a unit: the results are in place (R518). `res` gives the six slices. -/
def State.startupCal (s : State) (p : Fin 4) (res : List CalResult) : State :=
  let pass := fun (s : State) (raman : Bool) =>
    let js := calSlices raman
    let mine := js.filterMap fun (j : Nat) => res[j]?
    if mine.length != js.length || !s.calPowered p raman then s
    else if !mine.all (calOk raman) then
      (s.updCal p raman fun (c : PassCal) => { c.idle with item := c.item.failed s.xt (s.rd .CAL_CFG_Interval) }).calFailed (if raman then 2 else 1) p
    else
      let s := s.updCal p raman fun (c : PassCal) => { c.idle with item := c.item.applied s.xt (s.rdS .DIE_TEMP_Temp) }
      s.updFe p fun (f : FeSt) => { f with calNext := (f.calNext.filter fun (v : Nat × Trim) => (decide (v.1 < 4)) == raman) ++ js.zip (mine.map (CalResult.trim raman)) }
  let s := pass (pass s false) true
  (s.applyTrims p s.xt true).1

/-! Threshold trims (R526) -/

/-- A threshold trim of a lane may begin: in a blanking of at least 20 µs that holds it before the final 8 µs, with no step of the lane in this
blanking, no other trim of its receiver port, and no diagnostic firing of its own emitter port that runs or could run now; a scan sync lane in SEARCH
or at the host's command (R262, R525, R526). -/
def State.trimMay (s : State) (l : Fin 266) : Bool :=
  let y := s.lane l
  let port := fun (k : Nat) => if k < 256 then k / 16 else if k < 264 then 16 else 17
  let firing := match s.laneOwner l with
    | some n =>
      let e := fin 7 n
      !s.portIdle e || s.isoMay e || (List.finRange 16).any fun (k : Fin 16) => s.diagMay e k
    | none => false
  let other := s.lidar.lanes.any fun (q : Nat × LaneSt) => port q.1 == port l && q.2.trim.isSome
  let sync := decide (264 ≤ l.val) && s.on (.SCAN_STATUS_Locked (l.val - 264)) && !y.thr.cmd
  y.thr.due && y.stepped != s.ctl.blankNo && !firing && !other && !sync && s.locked 3 && s.blankingFits (128 * 20000) (128 * 28000)

/-- THRESHOLD_TRIM: a lane's threshold is trimmed in a blanking, 20 µs blind; `steps` is the trim that it finds, in force at its end (R516,
R519, R526). -/
def execThresholdTrim (l : Fin 266) (steps : Int) (s : State) : Out :=
  if s.trimMay l then
    let till := s.xu + 128 * 20000
    .next (((s.endPulse l s.xu).updLane l fun (y : LaneSt) => { y with trim := some (s.xu, till, steps), stepped := s.ctl.blankNo }).blindLane l s.xu till)
  else .next s

/-! PRBS31 checker of a link (R529) -/

/-- PRBS_BIT_ERROR: the checker of a link detects a bit error. -/
def execPrbsBitError (x : Fin 8) (s : State) : Out :=
  if s.on (.LINK_TEST_PrbsCheck x) then
    .next ((s.updLink x fun (l : LinkSt) => { l with prbsSync := false }).inc (.LINK_TEST_PRBS_ERR x) 1)
  else .next s

/-- PRBS_CHECKER_RESYNC: 31 error-free bits synchronise the checker again. -/
def execPrbsCheckerResync (x : Fin 8) (s : State) : Out :=
  if s.on (.LINK_TEST_PrbsCheck x) then .next (s.updLink x fun (l : LinkSt) => { l with prbsSync := true }) else .next s

end Sys2Proof.Machine
end

