-- ==== Sys2Proof/Machine/Memory.lean ====
section
/-! DEFINITION. The commands of the memories: reads and their outcomes, patrol, refresh, training, retirement
(R342 – R375). -/
namespace Sys2Proof.Machine

/-- The location of an access, its address as the error log gives it (R362), and whether the store has that word. -/
def State.targetOf (s : State) (t : MemTarget) : Option (Nat × Nat) :=
  match t with
  | .sram id idx => if idx < sramWords id then some (sramLoc id idx, 8 * idx) else none
  | .dram sa => if s.memMode ≠ 3 ∧ sa < s.usableDram then some (s.dramLoc (sa / 8 * 8), sa / 8 * 8) else none

/-- The requester has an error response and the data as read: it uses them when it next asks for that word (R360). Patrol and scrub use no data.
DESIGN CHOICE, unsafe: log 97. -/
def State.keepAnswer (s : State) (req l : Nat) (r : ReadRes) : State :=
  if r.kind.bad && req != 0x31 then { s with mem := { s.mem with answers := s.mem.answers ++ [⟨req, l, r.data⟩] } } else s

/-- MEMORY_READ: requester `req` reads a word; the access reaches location `reached` where that is not the word's own, and
`flips` are the bit errors of the stored word as read (R342). Bad data go to the requester marked (R360). -/
def execMemoryRead (req : Byte) (target : MemTarget) (reached : Option Nat) (flips : BitVec 80) (newer : Bool) (s : State) : Out :=
  match s.targetOf target with
  | none => .next s
  | some (l, addr) =>
    let (r, t) := s.readErr l (reached.getD l) flips newer req.toNat addr
    .next (t.keepAnswer req.toNat l r)

/-- WRITE_CRC_ERROR: a device signals a write-CRC error; the burst is sent once more, and with `again` that is signalled
too, so its 16 words are written poisoned (R361). -/
def execWriteCrcError (ch : Fin 2) (sa : Nat) (req : Byte) (again : Bool) (s : State) : Out :=
  if s.memMode = 3 ∨ s.usableDram ≤ sa ∨ (s.chanOf sa).1 ≠ ch.val ∨ s.rd (.MC_STATUS_State ch) ≠ 2 then .next s
  else
    let n := if again then 2 else 1
    let s := (s.rollSecond ch).updChan ch fun (c : ChanSt) => { c with wcrcCount := c.wcrcCount + n }
    let s := if 4 ≤ (s.mem.chans.get ch).wcrcCount then s.triggerRetrain ch else s
    if again then
      let base := sa / 128 * 128
      let s := (List.range 16).foldl (fun (s : State) (k : Nat) =>
        let l := s.dramLoc (base + 8 * k)
        s.setWord l (s.word l).data true) s
      let l := s.dramLoc base
      let (i, s) := s.logError (fin 2 ch) base l 0 0 req.toNat 3
      .next (s.raise 0x0402 ch i)
    else .next s

/-- Words of all SRAMs together. -/
def sramTotal : Nat := (List.range 64).foldl (fun n id => n + sramWords id) 0

/-- The SRAM word of a patrol index: id and word index. -/
def sramAtGo : Nat → Nat → Nat → Nat × Nat
  | 0, id, k => (id, k)
  | n + 1, id, k => if k < sramWords id then (id, k) else sramAtGo n (id + 1) (k - sramWords id)

/-- The place of the `k`-th usable word of a channel, in the patrol's order. -/
def State.patrolPlace (s : State) (ch k : Nat) : DramPlace :=
  let row := s.rowsOf ch - 4
  { beat := k % 16, col := k / 16 % 64, row := k / 1024 % row, ba := k / 1024 / row % 4, bg := k / 4096 / row % 4,
    rank := k / 16384 / row }

/-- PATROL_READ: the patrol engine of a block reads its next word (R347, R375). -/
def execPatrolRead (blk : Fin 3) (flips : BitVec 80) (s : State) : Out :=
  if blk = 2 then
    let k := s.mem.patrolSram
    let (id, i) := sramAtGo 63 0 k
    let s := (s.readErr (sramLoc id i) (sramLoc id i) flips false 0x31 (8 * i)).2
    .next { s with mem := { s.mem with patrolSram := if k + 1 < sramTotal then k + 1 else 0 } }
  else
    let ch : Fin 2 := fin 1 blk
    if s.rd (.MC_STATUS_State ch) ≠ 2 ∨ s.rd (.MC_CFG_PatrolHours ch) = 0 then .next s
    else
      let k := (s.mem.chans.get ch).patrol
      let total := s.usableOf ch / 8
      let p := s.patrolPlace ch k
      let l := locOf ch (s.remapped ch p)
      let s := (s.readErr l l flips false 0x31 (s.saOf ch (locOf ch p))).2
      let k' := k + 1
      if k' < total then .next ((s.updChan ch fun (c : ChanSt) => { c with patrol := k' }).wr (.SCRUB_STATUS_Progress ch) (k' * 1000 / total))
      else .next (((s.updChan ch fun (c : ChanSt) => { c with patrol := 0 }).wr (.SCRUB_STATUS_Progress ch) 0).inc (.SCRUB_STATUS_Passes ch) 1)

/-- REPEAT_ENTRY_EXPIRY: a repeat-table entry leaves 24 h after its first correction (R357). -/
def execRepeatEntryExpiry (blk : Fin 3) (i : Fin 32) (s : State) : Out :=
  if s.on (.REPEAT_HI_Valid blk i) && s.due ((s.mem.firsts.get blk).get i + 86400000000000) then
    .next ((((s.wr (.REPEAT_LO_Loc blk i) 0).wr (.REPEAT_HI_LocHi blk i) 0).wr (.REPEAT_HI_Count blk i) 0).wr (.REPEAT_HI_Valid blk i) 0)
  else .next s

/-- tREFI, ns (R363). -/
def State.trefi (s : State) (ch : Fin 2) : Nat :=
  match (s.mem.chans.get ch).rate with
  | 0 => 3900
  | 1 => 1950
  | _ => 975

/-- REFRESH: an all-bank refresh falls due; the controller issues `issued` of the refreshes owed, so that no more than four
stay owed, and none while Hot or OverTemp is set (R363, R364). -/
def execRefresh (ch : Fin 2) (issued : Fin 6) (s : State) : Out :=
  if s.rd (.MC_STATUS_State ch) = 2 ∧ s.due ((s.mem.chans.get ch).refreshAt + s.trefi ch) = true then
    let owed := s.rd (.MC_STATUS_Owed ch) + 1 - issued
    let owed := if s.on (.MC_STATUS_Hot ch) || s.on (.MC_STATUS_OverTemp ch) then 0 else min owed 4
    .next ((s.wr (.MC_STATUS_Owed ch) owed).updChan ch fun (c : ChanSt) => { c with refreshAt := s.xt })
  else .next s

/-- A poll of MR4: a rise of the rate acts at once, a fall after two polls that report the lower rate (R363, R364). DEDUCED, unsafe: log 43. -/
def State.pollMr4 (s : State) (ch : Fin 2) (doubled quadrupled : Bool) : State :=
  let c := s.mem.chans.get ch
  let n : Nat := if quadrupled then 2 else if doubled then 1 else 0
  let rate := if c.rate ≤ n then n else if c.lastRate < c.rate then max n c.lastRate else c.rate
  let was := s.on (.MC_STATUS_OverTemp ch)
  let s := s.updChan ch fun (c : ChanSt) => { c with rate := rate, lastRate := n, mr4At := s.xt }
  let s := (s.wrB (.MC_STATUS_Hot ch) (rate == 1 || (rate == 2 && doubled))).wrB (.MC_STATUS_OverTemp ch) (rate == 2)
  let s := if 0 < rate then s.wr (.MC_STATUS_Owed ch) 0 else s
  if rate = 2 ∧ !was then s.raise 0x0403 ch 0 else s

/-- MR4_POLL: MR4 of every device is read every 16 ms (R363). -/
def execMr4Poll (ch : Fin 2) (doubled quadrupled : Bool) (s : State) : Out :=
  if s.rd (.MC_STATUS_State ch) = 2 ∧ s.due ((s.mem.chans.get ch).mr4At + 16000000) = true then
    .next (s.pollMr4 ch doubled quadrupled)
  else .next s

/-- DQS_OSCILLATOR_READ: every 100 ms the oscillators are read and the timing follows; `drift` says that it has moved more
than 1/8 UI since the last full training (R367, R368). -/
def execDqsOscillatorRead (ch : Fin 2) (drift : Bool) (s : State) : Out :=
  if s.rd (.MC_STATUS_State ch) = 2 ∧ s.due ((s.mem.chans.get ch).oscAt + 100000000) = true then
    let s := s.updChan ch fun (c : ChanSt) => { c with oscAt := s.xt }
    .next (if drift then s.triggerRetrain ch else s)
  else .next s

/-- RETRAIN_STEP: one step of an in-service retrain, at most one in 10 µs and never while a refresh is owed (R365, R369). -/
def execRetrainStep (ch : Fin 2) (s : State) : Out :=
  if s.on (.MC_STATUS_Retraining ch) && s.rd (.MC_STATUS_Owed ch) == 0 && s.due ((s.mem.chans.get ch).stepAt + 10000) then
    .next (s.updChan ch fun (c : ChanSt) => { c with stepAt := s.xt })
  else .next s

/-- RETRAIN_ATTEMPT_DONE: an attempt ends; success applies the new settings, the third failure in a row FAILs the channel
(R369). -/
def execRetrainAttemptDone (ch : Fin 2) (ok : Bool) (s : State) : Out :=
  if !s.on (.MC_STATUS_Retraining ch) then .next s
  else if ok then
    .next (((s.wr (.MC_STATUS_Retraining ch) 0).wr (.MC_STATUS_Attempts ch) 0).raise 0x0405 ch 0)
  else
    let n := s.rd (.MC_STATUS_Attempts ch) + 1
    let s := (s.wr (.MC_STATUS_Attempts ch) n).updChan ch fun (c : ChanSt) => { c with retrainAt := s.xt, stepAt := s.xt }
    .next (if 3 ≤ n then s.failChannel ch 1 else s)

/-- The place whose data lie at a location of a channel, where it holds data: a spare row in use holds those of its retired row (R350, R358). -/
def State.dataPlace (s : State) (ch l : Nat) : Option DramPlace :=
  let p := placeAt l
  let spare := s.rowsOf ch - 4
  let q : DramPlace :=
    if p.row < spare then p
    else match (List.range 64).find? fun i => s.on (.RETIRE_Valid ch i) && s.rd (.RETIRE_Rank ch i) == p.rank &&
        s.rd (.RETIRE_BG ch i) == p.bg && s.rd (.RETIRE_BA ch i) == p.ba && spare + s.rd (.RETIRE_Spare ch i) == p.row with
      | some i => { p with row := s.rd (.RETIRE_Row ch i) }
      | none => p
  if l / 2 ^ 32 = ch ∧ locOf ch (s.remapped ch q) = l ∧ q.row < spare then some q else none

/-- The scrub reads the words of a channel: those that no list entry names are clean (R373). -/
def scrubGo (ch : Fin 2) : List (Nat × BitVec 80) → State → State
  | [], s => s
  | c :: cs, s =>
    scrubGo ch cs (match s.dataPlace ch c.1 with
      | some p => (s.readErr c.1 c.1 0 false 0x31 (s.saOf ch (locOf ch p))).2
      | none => s)

/-- PRIORITY_SCRUB_DONE: the scrub after a relock of PLL-C has read the channel's whole memory (R373). An error that it found is posted by
MEMORY_READ under requester 0x31; a poisoned word counts here (R375). -/
def execPriorityScrubDone (ch : Fin 2) (s : State) : Out :=
  if s.on (.SCRUB_STATUS_Priority ch) then .next ((scrubGo ch s.mem.words s).wr (.SCRUB_STATUS_Priority ch) 0) else .next s

/-- SELF_REFRESH_EXIT: about 200 µs after PLL-C locks the channel is ready; MR4 is read at once, with `moved` a full retrain
follows (R374). The rates that poll reports are those of the last one. -/
def execSelfRefreshExit (ch : Fin 2) (moved : Bool) (s : State) : Out :=
  match (s.mem.chans.get ch).exitAt with
  | none => .next s
  | some _ =>
    if s.rd (.MC_STATUS_State ch) = 4 ∧ bit (s.rd .CLK_STATUS_Locked) 2 = true then
      let s := (s.wr (.MC_STATUS_State ch) 2).updChan ch fun (c : ChanSt) =>
        { c with exitAt := none, refreshAt := s.xt, mr4At := s.xt - 16000000, oscAt := s.xt }
      .next (if moved then s.triggerRetrain ch else s)
    else .next s

/-! Retirement -/

/-- RETIRE_ROW (R358): INVALID, CHANNEL, already retired, BUSY and NO_SPARE are tested in this order. DESIGN CHOICE, unsafe: log 95. -/
def execRetireRow (path : Fin 9) (tag : Byte) (addr data : Word) (s : State) : Out :=
  let (s, ok) := s.accept path 0x0D tag addr data
  if !ok then .next s
  else
    let a := addr.toNat
    let ch : Fin 2 := fin 1 (a % 2)
    let rank := a / 2 % 2
    let bg := a / 4 % 4
    let ba := a / 16 % 4
    let row := data.toNat
    let p : DramPlace := ⟨rank, bg, ba, row, 0, 0⟩
    let stop : Nat → Out := fun (n : Nat) => .next (s.done path 0x0D tag addr (if n = 0 then stOk else stFailed) n n)
    if s.ranksOf ch ≤ rank ∨ s.rowsOf ch ≤ row + 4 then stop 2
    else if s.rd (.MC_STATUS_State ch) ≠ 2 then stop 3
    else if (List.range 64).any (fun i => s.entryMatches ch i p) then stop 0
    else if (s.mem.chans.get ch).copy.isSome then stop 4
    else match s.addRetire ch rank bg ba row true with
      | none => stop 1
      | some (i, s) =>
        .next ((s.wr (.MC_STATUS_Retiring ch) 1).updChan ch fun (c : ChanSt) => { c with copy := some ⟨i, 0, path, tag, addr⟩ })

/-- Copy `n` words of a row to its spare row from word `k` on, poisoned where the read fails (R358, R360). DESIGN CHOICE, unsafe: log 96. -/
def copyRow (ch : Nat) (src dst : DramPlace) : Nat → Nat → State → State
  | 0, _, s => s
  | n + 1, k, s =>
    let from_ := locOf ch { src with col := k / 16, beat := k % 16 }
    let to_ := locOf ch { dst with col := k / 16, beat := k % 16 }
    let (d, bad) := s.fetchWord 0x30 from_
    copyRow ch src dst n (k + 1) ((s.fetched 0x30 from_).setWord to_ d bad)

/-- The retired row and the spare row of a copy (R358). -/
def State.copyPlaces (s : State) (ch i : Nat) : DramPlace × DramPlace :=
  let src : DramPlace := ⟨s.rd (.RETIRE_Rank ch i), s.rd (.RETIRE_BG ch i), s.rd (.RETIRE_BA ch i), s.rd (.RETIRE_Row ch i), 0, 0⟩
  (src, { src with row := s.rowsOf ch - 4 + s.rd (.RETIRE_Spare ch i) })

/-- A channel can carry a copy on: it is READY on a running clock. -/
def State.copyMoves (s : State) (ch : Nat) : Bool := s.rd (.MC_STATUS_State ch) == 2 && s.locked 2

/-- The running copies go one burst on (R358). DESIGN CHOICE, unsafe: log 96. -/
def State.copyBursts (s : State) : State :=
  (List.finRange 2).foldl (fun (s : State) (ch : Fin 2) =>
    match (s.mem.chans.get ch).copy with
    | none => s
    | some c =>
      if s.copyMoves ch && decide (c.bursts < 64) then
        let (src, dst) := s.copyPlaces ch c.entry
        (copyRow ch src dst 16 (16 * c.bursts) s).updChan ch fun (x : ChanSt) => { x with copy := some { c with bursts := c.bursts + 1 } }
      else s) s

/-- ROW_COPY_DONE: the copy of a retired row completes and RETIRE_ROW is answered (R358). -/
def execRowCopyDone (ch : Fin 2) (s : State) : Out :=
  match (s.mem.chans.get ch).copy with
  | none => .next s
  | some c =>
    if s.copyMoves ch then
      let (src, dst) := s.copyPlaces ch c.entry
      .next ((copyRow ch src dst (1024 - 16 * c.bursts) (16 * c.bursts) s).endCopy ch 0)
    else .next s

/-- What a write of MC_CTRL does (R362, R368). -/
def State.mcCtrl (s : State) (blk : Fin 3) (data : Nat) : State :=
  let s := if bit data 0 then
      ((s.wr (.CE_COUNT_Corrected blk) 0).wr (.UE_COUNT_Uncorrectable blk) 0).wr (.UE_COUNT_PoisonReads blk) 0
    else s
  if bit data 1 ∧ blk ≠ 2 then s.triggerRetrain (fin 1 blk) else s

end Sys2Proof.Machine
end

