-- ==== Sys2Proof/Machine/Loops.lean ====
section
/-! DEFINITION. The loops: start and stop, lock and loss, and what follows (R426 – R437). Loops 0 – 4 are PLL-A to PLL-E, 5 is CLKIN. -/
namespace Sys2Proof.Machine

/-- Update a loop. -/
def State.updLoop (s : State) (k : Fin 6) (f : LoopSt → LoopSt) : State := { s with loops := vupd s.loops k f }

/-- The stretch of a loss ends (R433). -/
def LoopSt.endGap (l : LoopSt) (xt : Nat) : LoopSt :=
  { l with lost := false, lostAt := none, gaps := match l.lostAt with | some a => ((a, xt) :: l.gaps).take 32 | none => l.gaps }

/-- A loop is declared locked (R430, R437). -/
def State.loopLocked (s : State) (k : Fin 6) : Bool := if k.val = 5 then s.on .CLK_STATUS_ClkinLocked else s.locked k

/-- Show a loop's lock. -/
def State.showLock (s : State) (k : Fin 6) (b : Bool) : State :=
  if k.val = 5 then s.wrB .CLK_STATUS_ClkinLocked b else s.wr .CLK_STATUS_Locked (setBit (s.rd .CLK_STATUS_Locked) k b)

/-- A loop starts: it acquires (R432). -/
def State.startLoop (s : State) (k : Fin 6) : State :=
  if (s.loops.get k).running then s
  else s.updLoop k fun (l : LoopSt) => { l with running := true, acqFrom := s.xt, fails := 0, acqs := 1 }

/-- Every link is down without the device's serial clocks: frames in progress end (R393, R433). DESIGN CHOICE, unsafe: log 81. -/
def State.linksDown (s : State) (alarm : Bool) : State :=
  (List.finRange 8).foldl (fun (s : State) (x : Fin 8) =>
    if (s.links.get x).lock then
      let s := (s.updLink x fun (l : LinkSt) => { l with lock := false, rxLock := false }).cutFrame x
      (if alarm && s.on (.LINK_CFG_Enable x) then s.raise 0x0502 x 0 else s).settleLinks
    else s) s

/-- A loop stops: its outputs are gated; it is not judged (R430, R431). -/
def State.stopLoop (s : State) (k : Fin 6) : State :=
  let l := s.loops.get k
  if !l.running then s
  else
    let was := s.loopLocked k
    let s := s.updLoop k fun (l : LoopSt) => { (l.endGap s.xt) with running := false }
    let s := s.showLock k false
    match k.val with
    | 1 => if was then s.freezeCores else s
    | 4 => s.linksDown false
    | _ => s

/-- The sample clock is lost: synthesisers silent, PGATE inactive, samples discarded (R77, R113). -/
def State.sampleLost (s : State) : State := (List.finRange 4).foldl (fun (s : State) (p : Fin 4) => s.mutePort p) s

/-- Drain every ring as far as it goes. -/
def State.pumpAll (s : State) : State := (List.finRange 16).foldl (fun (s : State) (r : Fin 16) => s.pump r) s

/-- A locked loop is declared lost (R430, R433): Arg1 of LOOP_LOST is 1 count error, 2 reference inactive, 3 CLKIN phase. -/
def State.loseLoop (s : State) (k : Fin 6) (why : Nat) : State :=
  if !s.loopLocked k then s
  else
    let s := (s.showLock k false).updLoop k fun (l : LoopSt) =>
      { l with acqFrom := s.xt, fails := 0, acqs := 1, lostAt := some s.xt, lost := true }
    let s := ((s.inc (.LOOP_STAT_Losses k) 1).wr (.LOOP_STAT_LastCause k) why).raise 0x0601 k why
    match k.val with
    | 0 => s.sampleLost
    | 1 => ((List.finRange 4).foldl (fun (s : State) (p : Fin 4) => s.discardShots p) s).freezeCores
    | 3 => s.lidarLost
    | 4 => s.linksDown true
    | 5 => if s.on .CLK_CFG_ClkSrc then s.sampleLost else s
    | _ => s

/-- Two counts of a detector window differ by at most `d` (R430). -/
def within (d : Nat) (x : Nat × Nat) : Bool := decide (x.1 ≤ x.2 + d) && decide (x.2 ≤ x.1 + d)

/-- The cause of LOOP_LOST that a sign gives: 1 counts that differ by more than 8, 2 a reference without an edge; none where the loop stays locked
(R430, R456). -/
def lossCause : LossSign → Option Nat
  | .counts r f => if within 8 (r, f) then none else some 1
  | .noEdge => some 2

/-- LOOP_LOSS_DECLARED: the detector judges a locked loop, which is lost where the counts of a window differ by more than 8 or the reference gives no edge
(R430, R433). -/
def execLoopLossDeclared (k : Fin 6) (why : LossSign) (s : State) : Out :=
  .next (match lossCause why with | some c => s.loseLoop k c | none => s)

/-- PLL-C has locked: after a loss each channel refreshes and scrubs its memory (R373); a channel in self-refresh begins to leave it
(R374). -/
def State.dramClock (s : State) (lost : Bool) : State :=
  let s := (List.finRange 2).foldl (fun (s : State) (ch : Fin 2) =>
    if s.rd (.MC_STATUS_State ch) = 4 then s.updChan ch fun (c : ChanSt) => { c with exitAt := some s.xt }
    else if lost && s.rd (.MC_STATUS_State ch) == 2 then
      ((s.wr (.MC_STATUS_Owed ch) 0).wr (.SCRUB_STATUS_Priority ch) 1).updChan ch fun (c : ChanSt) => { c with refreshAt := s.xt }
    else s) s
  if lost then s.raise 0x0406 0 0 else s

/-! Stages of start-up (R458) -/

/-- A stage of start-up begins; PWR_STATE names the latest. -/
def State.beginStage (s : State) (k : Nat) : State :=
  if bit s.power.begun k then s
  else { s with power := { s.power with begun := setBit s.power.begun k true } }.wr .PWR_STATE_Stage k
/-- A stage of start-up completes. -/
def State.endStage (s : State) (k : Nat) : State := { s with power := { s.power with stages := setBit s.power.stages k true } }
/-- A stage is running. -/
def State.inStage (s : State) (k : Nat) : Bool := bit s.power.begun k && !bit s.power.stages k
/-- A stage has completed. -/
def State.stageDone (s : State) (k : Nat) : Bool := bit s.power.stages k
/-- The device leaves SUSPEND (R479). -/
def State.leavingSuspend (s : State) : Bool := match s.power.trans with | some (5, _) => true | _ => false

/-- The stages that locks and time complete: S2 with PLL-B, S6 with the other loops, and S9 begins 2 ms after S6 began (R458). A wake from
SUSPEND runs S1 to S3, S6 and S9 (R479). -/
def State.advStages (s : State) : State :=
  let leave := s.leavingSuspend
  let s := if s.inStage 2 && s.locked 1 then
      let s := (s.endStage 2).beginStage 3
      if leave then s else s.beginStage 4
    else s
  let s := if s.inStage 6 && (List.range 5).all (s.locked ·) && (!s.on .CLK_CFG_ClkSrc || s.on .CLK_STATUS_ClkinLocked) then
      let s := s.endStage 6
      if leave then s
      else
        let s := (List.range 2).foldl (fun (s : State) (ch : Nat) =>
          s.wr (.MC_STATUS_State ch) (if s.on (.MC_CFG_Enable ch) then 1 else 5)) s
        (s.beginStage 7).beginStage 10
    else s
  if s.stageDone 6 && !bit s.power.begun 9 && s.due (s.power.s6From + 2000000) then
    { s with power := { s.power with s9From := s.xt } }.beginStage 9
  else s

/-- The counts of 8 consecutive windows, each 10.24 µs, declare lock (R430). -/
def lockGood (c : LockCounts) : Bool := c.windows.length == 8 && c.windows.all (within 2)

/-- A port that launches no shots takes up sampling when the sample clock is there again; no boundary of its own follows (R113, R433).
DESIGN CHOICE, unsafe: log 141. -/
def State.resumeIdle (s : State) : State :=
  if s.sampling then (List.finRange 4).foldl (fun (s : State) (p : Fin 4) => if s.launches p then s else s.capResume p s.xt) s else s

/-- A loop is declared locked: its output gates reopen, and what waited for it goes on (R431, R433, R434, R437). -/
def State.lockLoop (s : State) (k : Fin 6) (phase : Int) : State :=
  let l := s.loops.get k
  let s := (s.showLock k true).updLoop k fun (l : LoopSt) =>
    { (l.endGap s.xt) with ran := true, fails := 0, phase := if k.val = 5 then phase else l.phase }
  let s := (if k.val = 1 then s.thawCores else s).resumeIdle
  let s := if l.lost then s.raise 0x0602 k l.acqs else s
  match k.val with
  | 1 => ((if l.lost then (List.finRange 4).foldl (fun (s : State) (p : Fin 4) => s.regrid p) s else s)).pumpAll
  | 2 => (s.dramClock l.lost).pumpAll
  | 3 => s.dropSyncs
  | _ => s

/-- LOOP_LOCK_DECLARED: a loop that acquires is declared locked where the detector's counts say so; a stage of start-up may end with it (R430, R431, R433,
R434, R437, R458). -/
def execLoopLockDeclared (c : LockCounts) (s : State) : Out :=
  let l := s.loops.get c.loop
  if l.running && !s.loopLocked c.loop && lockGood c && s.due (l.acqFrom + 81920) then .next (s.lockLoop c.loop c.phase).advStages else .next s

end Sys2Proof.Machine
end

