-- ==== Sys2Proof/Machine/Epochs.lean ====
section
/-! DEFINITION. An epoch begins at T_c: functions without a boundary of their own switch there, the others wait for theirs
(R37 – R44, R453, R558). -/
namespace Sys2Proof.Machine

/-- Every function that switches at a boundary of its own (R37). -/
def allFns : List Nat :=
  (List.range 4).map fnPort ++ [fnLidar, fnAux] ++ (List.range 16).map fnRing ++ (List.range 8).map fnLink

/-- A fibre port without a running plan switches at T_c, and starts there if the epoch gives it one (R37, R68, R75). -/
def State.portAtTc (s : State) (p : Fin 4) (at_ : Nat) : State :=
  let b := s.probeOf p
  if b.running && !(planOf s.regs p b.slot).idle then s
  else
    let s := (s.takePortEpochs p at_).settleDue p
    if !b.running then (if s.rd .PWR_STATE_State = 2 ∧ s.power.trans.isNone then s.setSlices p at_ else s).showPlan p
    else if (planOf s.regs p b.slot).idle then (s.setSlices p at_).showPlan p
    else s.runPort p b.slot at_

/-- A ring with no datagram under assembly switches at T_c (R37). -/
def State.ringAtTc (s : State) (r : Fin 16) : State :=
  let g := s.rings.get r
  if s.rd (.RING_STATE_State r) != 0 && (!g.asm.isEmpty || !g.stream.open_.isEmpty || !g.stream.blocks.isEmpty) then s
  else (List.range s.epoch.queue.length).foldl (fun (s : State) (_ : Nat) => s.ringBoundary r) s

/-- A link with no frame in transmission switches at T_c (R37). -/
def State.linkAtTc (s : State) (x : Fin 8) : State :=
  if (s.links.get x).tx.isSome then s
  else ((List.range s.epoch.queue.length).foldl (fun (s : State) (_ : Nat) => s.linkBoundary x) s).settleLinks

/-- What a change of the registers that switch at T_c itself does: time base, cores, regression channels, zones, test paths of links
(R37, R318, R334, R451, R529). -/
def State.tcEffects (s : State) (old : RegFile) : State :=
  let s := s.timeSwitched (rfRd old .TIME_CFG_TimeSrc)
  let f := fun (x : Fld) => rfRd old x != s.rd x
  let s := if f .SYNC_OUT_PERIOD_Time || f .SYNC_OUT_PHASE_Time || f .SYNC_OUT_CFG_Source then s.updTime fun (t : TimeSt) => { t with syncLast := none } else s
  let s := if f .TIME_CFG_TimeRecSec then s.updTime fun (t : TimeSt) => { t with recLast := none } else s
  let s := ((s.coresSwitched old).channelsSwitched old).zoneSwitched old
  let s := (List.finRange 8).foldl (fun (s : State) (x : Fin 8) =>
    if s.linkTest x && s.rd (.LINK_TEST_Loop x) + 4 * s.rd (.LINK_TEST_PrbsGen x) + 8 * s.rd (.LINK_TEST_PrbsCheck x) !=
        rfRd old (.LINK_TEST_Loop x) + 4 * rfRd old (.LINK_TEST_PrbsGen x) + 8 * rfRd old (.LINK_TEST_PrbsCheck x) then
      (s.cutFrame x).updLink x fun (l : LinkSt) => { l with prbsSync := false }
    else s) s
  s.settleLinks

/-- An epoch begins at device time tc: cause 0 start-up, which changes nothing, 1 host commit, 2 sentinel wake (R37, R333, R455). -/
def State.beginEpoch (s : State) (num tc cause : Nat) (changes : Sparse Word) : State :=
  let old := s.regs
  let at_ := s.xtOf tc
  let e : EpochRec := { num := num, tc := tc, cause := cause, changes := changes, waiting := allFns, lastSwitch := tc, at_ := at_ }
  let s := { s with epoch := { s.epoch with queue := s.epoch.queue ++ [e] } }
  let s := (s.wr .EPOCH_STATUS_Epoch num).wr .EPOCH_STATUS_Applying 1
  let s := s.layHistories s.newestRegs
  let s := s.applyChanges (ownedBy fnNone changes)
  let s := if cause = 0 then s else s.tcEffects old
  let s := if s.lidarRuns then s else s.lidarStopped
  let s := if s.aux.running then s else s.takeAllEpochs fnAux tc
  let s := (List.finRange 16).foldl (fun (s : State) (r : Fin 16) => s.ringAtTc r) s
  let s := (List.finRange 8).foldl (fun (s : State) (x : Fin 8) => s.linkAtTc x) s
  let s := (List.finRange 4).foldl (fun (s : State) (p : Fin 4) => s.portAtTc p at_) s
  emitEpochs s.epoch.queue s

/-- SYNC_OUT_PULSE: with source 1 a pulse at each SyncPeriod of device time (R447, R453). -/
def execSyncOutPulse (s : State) : Out :=
  if s.rd .SYNC_OUT_CFG_Source != 1 then .next s
  else match s.crossing (s.rd .SYNC_OUT_PERIOD_Time * 1000) (s.rd .SYNC_OUT_PHASE_Time * 1000) s.time.syncLast with
    | none => .next s
    | some k => .next ((s.updTime fun (t : TimeSt) => { t with syncLast := some k }).syncPulse)

end Sys2Proof.Machine
end

