-- ==== Sys2Proof/Machine/Sentinel.lean ====
section
/-! DEFINITION. Shot launch; the sentinel watch plan, its bursts and its wake (R54, R69, R73, R80 – R86, R158, R181). -/
namespace Sys2Proof.Machine

/-- Update the power controller. -/
def State.updPower (s : State) (f : PowerSt → PowerSt) : State := { s with power := f s.power }

/-! Shots -/

/-- SHOT_LAUNCH: a port's shot boundary falls: it switches epoch, a waiting calibration may begin, and tone 0 launches. `phase` is that of CLKIN, ps,
measured at every boundary: more than ±0.2 ns from its value at lock is a loss of CLKIN (R37, R54, R73, R101, R437, R521).
DESIGN CHOICE, unsafe: log 52. -/
def execShotLaunch (p : Fin 4) (phase : Int) (s : State) : Out :=
  let b := s.probeOf p
  match b.bounds with
  | [] => .next s
  | t :: _ =>
    if !b.running || !s.due t || !s.locked 1 then .next s
    else
      let moved := decide (200 < (phase - (s.loops.get 5).phase).natAbs)
      let s := if moved && s.on .CLK_CFG_ClkSrc then s.loseLoop 5 3 else s
      let turns := (s.nextEpochOf (fnPort p)).isSome
      let (s, go) := (s.noteWaits p).switchPort p t
      if !go then .next s
      else
        let s := s.calBoundary p t (turns || b.fresh)
        .next ((s.launchShot p t).showCal p)

/-- SYNC_IN_PULSE: a high pulse of a width, ns, ends `sub` ns into the present tick: an event for the ports it qualifies for, and with
FrameSrc = 3 a frame sync (R69 – R71, R246). -/
def execSyncInPulse (width : Nat) (sub : Fin 25) (s : State) : Out :=
  let t := s.xt + sub.val
  let s := (List.finRange 4).foldl (fun (s : State) (p : Fin 4) => s.syncEvent p width t) s
  if s.rd .EMT_CTRL_FrameSrc = 3 ∧ 10 * s.rd .EMT_FRAME_EXT_FrmWidthMin ≤ width ∧ width ≤ 10 * s.rd .EMT_FRAME_EXT_FrmWidthMax then
    let s := if s.lidarRuns then s else s.dropSyncs
    .next (s.updCtl fun (c : EmtSt) => { c with syncs := c.syncs ++ [128 * (t + 10 * s.rd .EMT_FRAME_DELAY_FrmDelay)] })
  else .next s

/-- BAND_WINDOW_CLOSE: the oldest band window of a range closes and its set leaves (R158). DESIGN CHOICE, unsafe: log 117. -/
def execBandWindowClose (p : Fin 4) (r : Fin 16) (s : State) : Out := .next (if s.locked 1 then s.closeBand p r else s)

/-! Wake (R85, R86) -/

/-- Lead, ns. -/
def State.watchLead (s : State) : Nat := s.rd .WATCH_PERIOD_Lead * 100000

/-- The ports of the watch mask that the host has not stopped. -/
def State.watchPorts (s : State) : List (Fin 4) :=
  (List.finRange 4).filter fun (p : Fin 4) => bit (s.rd .WATCH_CTRL_Ports) p && !(s.probeOf p).hostStopped

/-- Start every loop (R474). -/
def State.startLoops (s : State) : State :=
  let s := (List.finRange 5).foldl (fun (s : State) (k : Fin 5) => s.startLoop (fin 5 k)) s
  if s.on .CLK_CFG_ClkSrc then s.startLoop 5 else s
/-- Stop every loop. -/
def State.stopLoops (s : State) : State := (List.finRange 6).foldl (fun (s : State) (k : Fin 6) => s.stopLoop k) s

/-- Start the reference buffers and slices that the full configuration needs, and those that RefKeep keeps (R86, R111, R112). -/
def State.powerPorts (s : State) : State :=
  (List.finRange 4).foldl (fun (s : State) (p : Fin 4) =>
    if (s.probeOf p).hostStopped && !s.on (.FE_CTRL_RefKeep p) then s else s.powerUp p s.xt (slicesFor s.regs p 0)) s

/-- A channel in self-refresh begins to leave it once PLL-C is locked (R374). -/
def State.dramExit (s : State) : State :=
  if !s.locked 2 then s
  else (List.finRange 2).foldl (fun (s : State) (ch : Fin 2) =>
    if s.rd (.MC_STATUS_State ch) = 4 then s.updChan ch fun (c : ChanSt) => { c with exitAt := some (c.exitAt.getD s.xt) } else s) s

/-- Every channel in use is ready (R83, R475). -/
def State.dramReady (s : State) : Bool :=
  (List.range 2).all fun (ch : Nat) =>
    !s.on (.MC_CFG_Enable ch) || s.rd (.MC_STATUS_State ch) == 3 || (s.rd (.MC_STATUS_State ch) == 2 && !s.on (.MC_STATUS_Retraining ch))

/-- A wake condition acts in SENTINEL only: no further shot of a watch plan launches, and everything the full configuration needs starts
(R85, R86, R480). Causes: 1 band energy, 2 DTS rise, 3 WAKE pin, 4 host. -/
def State.wake (s : State) (cause : Nat) : State :=
  if s.pwr != 3 || s.power.trans.isSome then s
  else
    let s := (s.wr .WAKE_STATUS_Cause cause).wr .PWR_STATE_Transit 1
    let s := s.updPower fun (w : PowerSt) => { w with trans := some (3, 2), transFrom := s.xt, wakeAt := some s.xt }
    let s := (List.finRange 4).foldl (fun (s : State) (p : Fin 4) =>
      (s.noteWaits p).updProbe p fun (b : ProbeSt) => { b with bounds := [], burstLeft := 0, waitFrom := none }) s
    (s.startLoops.powerPorts).dramExit

/-- COMPLETION_PASS_DONE: the oldest completion pass of a port has visited every bin and its set leaves (R181, R193); in SENTINEL a bin
that rose too fast wakes the device (R85). -/
def execCompletionPassDone (p : Fin 4) (s : State) : Out :=
  match (s.ramOf p).passes with
  | [] => .next s
  | x :: rest =>
    if !s.locked 1 then .next s
    else
      let s := s.updRam p fun (g : RamSt) => { g with passes := rest }
      let (risen, s) := s.finishPass p x
      .next (if risen then s.wake 2 else s)

/-- WAKE_PIN_EDGE: WAKE has held a new level for 1 µs after an edge (R85). -/
def execWakePinEdge (level : Bool) (s : State) : Out :=
  if s.on .WATCH_CTRL_PinWake && level != s.on .WATCH_CTRL_PinFall then .next (s.wake 3) else .next s

/-! Bursts (R81 – R83) -/

/-- t_b of the next burst, or of the one in its lead. -/
def State.burstAt (s : State) : Nat := s.power.sentinelAt + s.watchLead + s.power.burst * s.rd .WATCH_PERIOD_Period * 1000000

/-- The device enters SENTINEL: bursts count from this instant (R81). -/
def State.beginWatch (s : State) : State :=
  let s := s.updPower fun (w : PowerSt) => { w with sentinelAt := s.xt, burst := 0, bandRun := 0, phase := 0 }
  (List.finRange 4).foldl (fun (s : State) (p : Fin 4) => s.updProbe p fun (b : ProbeSt) => { b with bandSeen := false, bandHit := false }) s

/-- The device is in SENTINEL with no transition running. -/
def State.watching (s : State) : Bool := s.pwr == 3 && s.power.trans.isNone

/-- SENTINEL_BURST_LEAD: Lead before a burst PLL-A, PLL-B and PLL-C and the watch ports' buffers start; cores see source 13 (R82, R318). The lead may fall
into the retrain for which an earlier burst was skipped (R83). -/
def execSentinelBurstLead (s : State) : Out :=
  if s.watching && (s.power.phase == 0 || s.power.phase == 3) && !s.watchPorts.isEmpty && s.due (s.burstAt - s.watchLead) then
    let s := s.updPower fun (w : PowerSt) => { w with phase := 1 }
    let s := ((s.startLoop 0).startLoop 1).startLoop 2
    let s := if s.on .CLK_CFG_ClkSrc then s.startLoop 5 else s
    let s := s.watchPorts.foldl (fun (s : State) (p : Fin 4) => s.powerUp p s.xt (slicesFor s.regs p 1)) s
    .next ((List.range 16).foldl (fun (s : State) (n : Nat) => s.setSource n 13) s.dramExit)
  else .next s

/-- A burst starts on a port: with an idle watch plan it launches no shot; with an external start shot 0 counts as launched by an event ExtDelay before it (R68,
R69, R81). DESIGN CHOICE, unsafe: log 132. -/
def State.startBurst (s : State) (p : Fin 4) (t : Nat) : State :=
  let q := planOf s.regs p 1
  let s := s.updProbe p fun (b : ProbeSt) =>
    { b with running := true, slot := 1, fresh := true, bounds := if q.idle then [] else [t], burstLeft := if q.idle then 0 else s.rd .WATCH_CTRL_Burst,
             waitFrom := none, lastEvent := if q.idle then none else some (t - q.extDelay) }
  (s.setSlices p t).showPlan p

/-- SENTINEL_BURST_START: at t_b shot 0 is due on every watch port, or the burst is skipped where DRAM is not ready (R81, R83). -/
def execSentinelBurstStart (s : State) : Out :=
  let t := s.burstAt
  if s.watching && s.power.phase == 1 && s.due t then
    if !s.dramReady then
      .next ((s.updPower fun (w : PowerSt) => { w with phase := 3, burst := w.burst + 1 }).inc .WAKE_STATUS_Skipped 1)
    else
      let s := s.updPower fun (w : PowerSt) => { w with phase := 2, burst := w.burst + 1 }
      .next (s.watchPorts.foldl (fun (s : State) (p : Fin 4) => s.startBurst p t) s)
  else .next s

/-- A port's burst is over and its products are drained. -/
def State.burstDrained (s : State) (p : Fin 4) : Bool :=
  let q := s.ports.get p
  (q.probe.bounds.isEmpty || q.probe.burstLeft == 0) && q.probe.launches.isEmpty && s.portQuiet p && q.chain.items.isEmpty && q.ram.passes.isEmpty

/-- BURST_DRAIN_DONE: the burst's products are in the ring bodies; wake conditions are evaluated; DRAM enters self-refresh and the loops
stop (R82, R83, R85). A band window counts for the burst at whose end it has closed; a burst at whose end none has closed since the one before neither
continues nor breaks a run. DESIGN CHOICE, unsafe: log 79. -/
def execBurstDrainDone (s : State) : Out :=
  let ph := s.power.phase
  if !s.watching || ph < 2 || !s.watchPorts.all (s.burstDrained ·) || !s.dramReady then .next s
  else
    let p := fin 3 (s.rd .WAKE_DAS_Port)
    let seen := ph == 2 && (s.probeOf p).bandSeen
    let run := if !seen then s.power.bandRun else if (s.probeOf p).bandHit then s.power.bandRun + 1 else 0
    let s := s.updPower fun (w : PowerSt) => { w with bandRun := run, phase := 0 }
    let s := if seen then s.updProbe p fun (b : ProbeSt) => { b with bandSeen := false, bandHit := false } else s
    if seen = true ∧ s.on .WAKE_DAS_Enable = true ∧ s.rd .WAKE_DAS_K ≤ run ∧ 0 < run then .next (s.wake 1)
    else
      let s := s.pumpAll
      let s := (List.finRange 2).foldl (fun (s : State) (ch : Fin 2) => s.enterSelfRefresh ch) s
      let s := (((s.stopLoop 0).stopLoop 1).stopLoop 2).stopLoop 5
      .next (s.watchPorts.foldl (fun (s : State) (p : Fin 4) => s.powerDown p) s)

end Sys2Proof.Machine
end

