-- ==== Sys2Proof/Machine/Functions.lean ====
section
/-! DEFINITION. ABORT, START and STOP of a function (R76, R188, R190, R267, R292, R337, R372, R380, R424, R488, R489). A function is a
kind of R488 and an instance. -/
namespace Sys2Proof.Machine

/-- ABORT, START and STOP name such a function (R380, R488, R502). -/
def fnValid (kind inst : Nat) : Bool :=
  match kind with
  | 1 | 2 => decide (inst < 4)
  | 3 => inst == 0
  | 4 | 7 | 8 => decide (inst < 8)
  | 5 => decide (inst < 16)
  | 6 => decide (inst < 16) && inst != 8 && inst != 11 && inst != 12
  | 9 => decide (inst < 2)
  | _ => false

/-- Halt a function: it begins to stop. `host` says that the host asked for it. -/
def State.fnHalt (s : State) (kind inst : Nat) (host : Bool) : State :=
  match kind with
  | 1 =>
    let p := fin 3 inst
    let s := s.updProbe p fun (b : ProbeSt) => { b with hostStopped := b.hostStopped || host }
    (if (s.probeOf p).running then s.haltPort p else s.capAbort p).calAbandon p
  | 2 =>
    let p := fin 3 inst
    (s.updRam p fun (g : RamSt) => { g with stopped := true }).updProbe p fun (b : ProbeSt) => { b with rtrig := false }
  | 3 => s.abortLidar
  | 4 => s.abortEmitter (fin 7 inst)
  | 5 => if s.coreState inst = 0 then s else s.updCore (fin 15 inst) fun (c : CoreSt) => { c with aborting := true }
  | 6 => if s.rd (.RING_STATE_State inst) = 0 then s else (s.abortRing (fin 15 inst)).settleLinks
  | 7 => ((s.updLink (fin 7 inst) fun (l : LinkSt) => { l with stopped := true }).moveQueue (fin 7 inst)).settleLinks
  | 8 => s.abortEngine (fin 7 inst)
  | 9 => s.abortRetrain (fin 1 inst)
  | _ => s

/-- A halted function has reached its end (R488). -/
def State.fnHalted (s : State) (kind inst : Nat) : Bool :=
  match kind with
  | 1 => !(s.probeOf (fin 3 inst)).running && s.portQuiet (fin 3 inst)
  | 2 => (s.ports.get (fin 3 inst)).rwin.isNone
  | 5 => s.coreState inst == 0
  | 7 => (s.links.get (fin 7 inst)).tx.isNone
  | _ => true

/-- What the end of a halt does: the last records of the function leave, or the link stops receiving (R188, R190, R489). -/
def State.fnEnd (s : State) (kind inst : Nat) : State :=
  match kind with
  | 1 => s.drainPort (fin 3 inst)
  | 2 => s.cutAcc (fin 3 inst)
  | 7 => (s.updLink (fin 7 inst) fun (l : LinkSt) => { l with lock := false, rxLock := false }).settleLinks
  | _ => s

/-- Mark a function for restart (R476). -/
def State.markFn (s : State) (kind inst : Nat) : State :=
  s.updPower fun (w : PowerSt) => { w with marked := if w.marked.contains (256 * kind + inst) then w.marked else w.marked ++ [256 * kind + inst] }
/-- A function stays stopped after a transition (R480). -/
def State.unmarkFn (s : State) (kind inst : Nat) : State :=
  s.updPower fun (w : PowerSt) => { w with marked := w.marked.filter fun (m : Nat) => m != 256 * kind + inst }

/-- Measurement functions run now. -/
def State.measuring (s : State) : Bool := s.pwr == 2 && s.power.trans.isNone

/-- START of a function (R488). -/
def State.fnStart (s : State) (kind inst : Nat) : State :=
  match kind with
  | 1 =>
    let p := fin 3 inst
    let s := s.updProbe p fun (b : ProbeSt) => { b with hostStopped := false }
    if (s.probeOf p).running then s
    else if s.measuring then s.runPort p 0 s.xt
    else s.markFn 1 inst
  | 2 => s.updRam (fin 3 inst) fun (g : RamSt) => { g with stopped := false }
  | 3 => if s.measuring then s.startLidar else (List.range 8).foldl (fun (s : State) (e : Nat) => s.markFn 4 e) (s.markFn 3 0)
  | 4 => if s.measuring then s.startEmitter (fin 7 inst) else s.markFn 4 inst
  | 5 => if s.coreState inst = 1 ∨ s.coreState inst = 2 then s else s.startCore (fin 15 inst)
  | 6 => (s.startRing (fin 15 inst)).pump (fin 15 inst)
  | 7 =>
    if (s.links.get (fin 7 inst)).stopped then
      (s.updLink (fin 7 inst) fun (l : LinkSt) => { l with stopped := false, lock := false, rxLock := false }).settleLinks
    else s
  | 8 =>
    if (s.engs.get (fin 7 inst)).stopped then
      ({ s with engs := vupd s.engs (fin 7 inst) fun (g : EngSt) => { g with stopped := false } }.wr (.ENG_STATUS_State inst) 0).pumpAll
    else s
  | _ => s

/-- ABORT, START and STOP commands of a function that have not completed, oldest first (R503). -/
def State.fnWaiting (s : State) (kind inst : Nat) : List (Fin 9 × Outst) :=
  let all := s.outOf 5 ++ s.outOf 6 ++ s.outOf 7
  byAcceptance (all.filter fun (x : Fin 9 × Outst) =>
    x.2.data.toNat % 256 == kind && x.2.data.toNat / 256 % 256 == inst && !s.answered x.1 x.2.tag)

/-- STOP of a ring: DRAINING (R380). -/
def State.drainRing (s : State) (r : Fin 16) : State :=
  if s.rd (.RING_STATE_State r) = 1 then (s.wr (.RING_STATE_State r) 2).pump r else s

/-- START of a ring whose geometry change is scheduled is refused (R381). -/
def State.geometryWaits (s : State) (r : Nat) : Bool :=
  match s.epoch.sched with
  | none => false
  | some c =>
    let t := rfOverlay s.regs c.changes
    rfRd t (.RING_BODY_Size r) != s.rd (.RING_BODY_Size r) || rfRd t (.RING_BODY_Base r) != s.rd (.RING_BODY_Base r)

/-- Run the commands of a function in order of acceptance until one has to wait; the first argument bounds their number. `fresh`: the
first of them has not begun. -/
def State.runFn (kind inst : Nat) : Nat → Bool → State → State
  | 0, _, s => s
  | k + 1, fresh, s =>
    match s.fnWaiting kind inst with
    | [] => s
    | (p, o) :: _ =>
      if o.code = 6 then
        if kind = 6 ∧ s.geometryWaits inst = true then State.runFn kind inst k true (s.done p 6 o.tag 0 stBusy 0 0)
        else State.runFn kind inst k true ((s.fnStart kind inst).done p 6 o.tag 0 stOk 0 0)
      else if o.code = 7 ∧ kind = 6 then State.runFn kind inst k true ((s.drainRing (fin 15 inst)).done p 7 o.tag 0 stOk 0 0)
      else
        let s := if fresh then (s.fnHalt kind inst true).unmarkFn kind inst else s
        if s.fnHalted kind inst then State.runFn kind inst k true ((s.fnEnd kind inst).done p o.code o.tag 0 stOk 0 0)
        else s

/-- A host command ABORT (5), START (6) or STOP (7) (R488, R501). -/
def State.fnCommand (s : State) (code : Nat) (path : Fin 9) (tag kind inst : Byte) : State :=
  let data : Word := BitVec.ofNat 32 (kind.toNat + 256 * inst.toNat)
  let (s, ok) := s.accept path code tag 0 data
  if !ok then s
  else if !fnValid kind.toNat inst.toNat then s.done path code tag 0 stInvalid 0 0
  else if 1 < (s.fnWaiting kind.toNat inst.toNat).length then s
  else s.runFn kind.toNat inst.toNat 72 true

/-- ABORT (R488). DESIGN CHOICE, unsafe: log 54. -/
def execAbort (path : Fin 9) (tag : Byte) (kind inst : Byte) (s : State) : Out := .next (s.fnCommand 5 path tag kind inst)
/-- START (R488). -/
def execStart (path : Fin 9) (tag : Byte) (kind inst : Byte) (s : State) : Out := .next (s.fnCommand 6 path tag kind inst)
/-- STOP: as ABORT; a ring drains (R380, R488). -/
def execStop (path : Fin 9) (tag : Byte) (kind inst : Byte) (s : State) : Out := .next (s.fnCommand 7 path tag kind inst)

/-- ABORT_COMPLETE: a function has reached its end: it is STOPPED, the response is given, and the next command for it runs (R488, R503). -/
def execAbortComplete (kind inst : Byte) (s : State) : Out := .next (State.runFn kind.toNat inst.toNat 72 false s)

end Sys2Proof.Machine
end

