-- ==== Sys2Proof/Machine/Reset.lean ====
section
/-! DEFINITION. Resets, what each of them keeps, and their triggers: pins, rails, temperature, crystal, loops, JTAG
(R427, R428, R432, R458, R481 – R487, R535, R555). -/
namespace Sys2Proof.Machine

/-! What a reset keeps (R20, R482, R555) -/

/-- The bits of a register in the survival classes that `p` names (R20). -/
def classMask (p : RClass → Bool) (a : Nat) : Word := maskOf (fun (f : FieldDef) (_ : Nat) => p f.cls) a

/-- A register file with the classes that `p` names kept and every other field at its reset value. -/
def rfKeep (p : RClass → Bool) (r : RegFile) : RegFile :=
  r.filterMap fun (x : Nat × Word) =>
    let v := overlayWord (classMask p x.1) (resetWord x.1) x.2
    if v = resetWord x.1 then none else some (x.1, v)

/-- The fields read from the fuses, and the junction sensors' present value, in a new register file (R485, R509).
DESIGN CHOICE, unsafe: log 84. -/
def keepPhysical (old new : RegFile) : RegFile :=
  let fields := [Fld.FUSE_STATUS_KeyHash, .FUSE_STATUS_Lock, .DIE_TEMP_Temp] ++
    (List.range 8).map fun (k : Nat) => Fld.FUSE_KEYHASH_Hash k
  fields.foldl (fun (r : RegFile) (f : Fld) => rfWr r f (rfRd old f)) new

/-- The fuse words of a register file. -/
def fuseWords (r : RegFile) : RegFile :=
  r.filter fun (x : Nat × Word) => x.1 == Fld.FUSE_STATUS_KeyHash.addr || (decide ((Fld.FUSE_KEYHASH_Hash 0).addr ≤ x.1) && decide (x.1 ≤ (Fld.FUSE_KEYHASH_Hash 7).addr))

/-- S1 begins once nothing holds the device in reset, and not in SUSPEND: the crystal starts (R428, R458, R541). -/
def State.beginS1 (s : State) : State :=
  if s.power.held || s.power.begun != 0 || s.pwr == 5 then s
  else { s.beginStage 1 with xtal := { s.xtal with s1From := s.xtal.aonNow } }

/-- The time base through a reset: device time and its state continue; references qualify anew (R442, R450). -/
def TimeSt.through (t : TimeSt) : TimeSt :=
  { t with ppsLast := none, ppsRun := 0, ppsQual := false, refSince := none, refQual := false, armed := none, dayFrom := none, ppsOut := false,
           ppsOutSec := none, syncEnd := 0, syncLast := none, recLast := none, rejected := [] }

/-- Remap entries that RETIRE_ROW added: the address of each register and its word (R359). -/
def hostRetires (r : RegFile) : List (Nat × Word) :=
  r.filter fun (x : Nat × Word) =>
    ((0x500400 ≤ x.1 && x.1 < 0x500500) || (0x501400 ≤ x.1 && x.1 < 0x501500)) && bit x.2.toNat 0 && bit x.2.toNat 25

/-- RESET_CAUSE and the reset counts take a cause of R481. -/
def countReset (r : RegFile) (cause rail : Nat) : RegFile :=
  let prev := (rfRd r .RESET_CAUSE_Previous * 16 + rfRd r .RESET_CAUSE_Last) % 4096
  let r := rfWr (rfWr r .RESET_CAUSE_Previous prev) .RESET_CAUSE_Last cause
  match cause with
  | 2 => rfInc r .RESET_COUNT_A_Pin 1
  | 3 => rfInc r .RESET_COUNT_A_HostSoft 1
  | 4 => rfInc r .RESET_COUNT_B_Watchdog 1
  | _ => rfInc (if cause = 7 then rfWr r .RESET_CAUSE_Rail rail else r) .RESET_COUNT_B_Fatal 1

/-- What the supplies and V_RATIO show in a new register file: the rails below warning, and lost zones (R487, R546). -/
def keepSupplies (s : State) (r : RegFile) : RegFile :=
  let warn := s.power.rails.foldl (fun (a : Nat) (x : RailSt) => if x.above.isNone then setBit a x.rail true else a) 0
  let r := rfWr r .SUPPLY_STATUS_Warn warn
  if s.zone.low then (List.range 8).foldl (fun (r : RegFile) (z : Nat) => rfWr r (.ZONE_OUT_Lost z) 1) r else r

/-- A reset with a cause of R481: 1 power-on, 2 pin, 3 host soft, 4 watchdog, 5 – 9 fatal. Every reset runs start-up from S1, once nothing
holds the device in reset. The flash, the fuses, the pins, the JTAG port, V_RATIO and the supplies are what they were; the stored words stand until the fills of
S3 and S8 (R345, R366, R481, R482). -/
def State.resetBy (s : State) (cause rail : Nat) : State :=
  let por := cause == 1
  let keepC := decide (4 ≤ cause)
  let regs :=
    if por then rfWr [] .RESET_CAUSE_Last 1
    else countReset (rfKeep (fun (k : RClass) => k == .p || (keepC && k == .c)) s.regs) cause rail
  let w := s.power
  let regs := keepSupplies s (keepPhysical s.regs regs)
  let s' : State :=
    { State.reset with
      pending := s.pending, freeCtr := s.freeCtr, regs := regs, host := { HostSt.rest with fuses := fuseWords regs },
      time := if por then TimeSt.rest else s.time.through,
      xtal := if por then XtalSt.rest else { s.xtal with running := false },
      power := { PowerSt.rest with rstPin := w.rstPin, jtagHold := w.jtagHold, railHold := w.railHold, tempHold := w.tempHold, off := w.off, jtag := w.jtag,
                                   lastReset := cause, rails := w.rails, warnSpans := w.warnSpans },
      zone := { ZonesSt.rest with low := s.zone.low },
      alarm := if por then AlarmSt.rest
               else { AlarmSt.rest with log := s.alarm.log, logHead := s.alarm.logHead, logCount := s.alarm.logCount },
      image := { ImageSt.rest with flash := s.image.flash, flashSize := s.image.flashSize, keyHash := s.image.keyHash,
                                   prevFlash := s.image.prevFlash,
                                   retireHost := if keepC then (match hostRetires s.regs with | [] => s.image.retireHost | xs => xs) else [] },
      mem := { MemSt.rest with words := s.mem.words, lost := s.mem.lost } }
  let s' := if por then s' else s'.wrB .TIME_STATE_Slewing (decide (s'.time.slewLeft ≠ 0))
  s'.beginS1

/-! Triggers -/

/-- POWER_ON_RESET: VDD_AON rises through its reset level (R481). RESET_N is low, and the rails are not yet known good (R540). -/
def execPowerOnReset (s : State) : Out :=
  .next (({ s with power := PowerSt.rest }).resetBy 1 0)

/-- PIN_RESET: RESET_N has been low for 1 µs (R481). -/
def execPinReset (s : State) : Out := .next ((s.updPower fun (w : PowerSt) => { w with rstPin := true }).resetBy 2 0)

/-- RESET_N_RELEASE: RESET_N is released; with every rail good S1 begins (R458). -/
def execResetNRelease (s : State) : Out := .next ((s.updPower fun (w : PowerSt) => { w with rstPin := false }).beginS1)

/-- RAILS_ABOVE_RESET_LEVEL: every rail has been above its reset level plus hysteresis for 1 ms (R487). -/
def execRailsAboveResetLevel (s : State) : Out := .next ((s.updPower fun (w : PowerSt) => { w with railHold := false }).beginS1)

/-- A rail lies below its warning level: it is kept with its lowest level, a new fall from now (R486, R487). -/
def fallRail (rail below now : Nat) (xs : List RailSt) : List RailSt :=
  match xs.find? fun (r : RailSt) => r.rail == rail with
  | none => xs ++ [⟨rail, now, below, none⟩]
  | some _ => xs.map fun (r : RailSt) =>
      if r.rail != rail then r
      else if r.above.isSome then ⟨rail, now, below, none⟩
      else { r with lowest := max r.lowest below }

/-- A rail lies below its reset level: VDD_AON causes a power-on reset and leaves the device OFF, any other rail a fatal reset. The first rail resets the
device; while it is held for the rails another changes nothing. In SUSPEND only rails 7 and 8 are monitored: another rail may be removed, and S1 of the wake
waits for it (R474, R486, R487, R540, R541). DEDUCED, unsafe: log 125. -/
def State.railReset (s : State) (rail below : Nat) : State :=
  let held := s.power.railHold
  let s := s.updPower fun (w : PowerSt) =>
    { w with railHold := true, off := w.off || rail == 8, rails := if s.pwr = 5 ∧ rail < 7 then w.rails else fallRail rail below s.xt w.rails }
  if s.pwr = 5 ∧ rail < 7 then s
  else if rail = 8 then s.resetBy 1 0
  else if held then s
  else s.resetBy 7 rail

/-- RAIL_BELOW_RESET: a rail lies more than 8 % below nominal, its reset level (R486, R487). -/
def execRailBelowReset (fall : RailFall) (s : State) : Out :=
  .next (if 80 < fall.below then s.railReset fall.rail fall.below else s)

/-- PWR_EN: high in every state but SUSPEND and OFF (R541). -/
def State.pwrEn (s : State) : Bool := !s.power.off && s.pwr != 5

/-- Show a rail in SUPPLY_STATUS. -/
def State.showRail (s : State) (rail : Nat) (low : Bool) : State := s.wr .SUPPLY_STATUS_Warn (setBit (s.rd .SUPPLY_STATUS_Warn) rail low)

/-- A rail falls below its warning level: lines are held, and unless the device is held in reset SUPPLY_WARN is raised (R261, R487). DESIGN CHOICE, unsafe: log 82. -/
def State.railWarn (s : State) (rail below : Nat) : State :=
  let s := (s.updPower fun (w : PowerSt) => { w with rails := fallRail rail below s.xt w.rails }).holdLines
  let s := (s.showRail rail true).wr .SUPPLY_STATUS_Seen (setBit (s.rd .SUPPLY_STATUS_Seen) rail true)
  if s.power.held then s else s.raise 0x0703 rail below

/-- A rail has returned above its warning level by the hysteresis: the stretch of its warning ends (R486, R487). -/
def State.railBack (s : State) (r : RailSt) : State :=
  (s.updPower fun (w : PowerSt) =>
    { w with rails := w.rails.map fun (q : RailSt) => if q.rail == r.rail then { q with above := some s.xt } else q,
             warnSpans := ((r.from_, s.xt) :: w.warnSpans).take 64 }).showRail r.rail false

/-- RAIL_BELOW_WARNING: a rail lies `level` 0.1 % of nominal below nominal: more than WarnPct is below its warning level, and 1 % of nominal less than that
is above it again; a level in between changes nothing. Past the reset level it is the reset's (R486, R487). -/
def execRailBelowWarning (rail : Fin 9) (level : Nat) (s : State) : Out :=
  let warn := 10 * s.rd .SUPPLY_CFG_WarnPct
  let known := s.power.rails.find? fun (r : RailSt) => r.rail == rail.val
  if s.pwr = 5 ∧ rail.val < 7 then .next s
  else if 80 < level then .next (s.railReset rail level)
  else if warn < level then
    match known with
    | some r => .next (if r.above.isSome then s.railWarn rail level
        else s.updPower fun (w : PowerSt) => { w with rails := fallRail rail level s.xt w.rails })
    | none => .next (s.railWarn rail level)
  else match known with
    | some r => .next (if r.above.isNone && decide (level + 10 ≤ warn) then s.railBack r else s)
    | none => .next s

/-- SUPPLY_OK: a rail has been above its warning level plus hysteresis for 1 ms; Arg1 counts the time below (R487, R490). -/
def execSupplyOk (rail : Fin 9) (s : State) : Out :=
  match s.power.rails.find? fun (r : RailSt) => r.rail == rail.val with
  | none => .next s
  | some r =>
    let back := r.above.getD (s.xt - 1000000)
    if back < r.from_ ∨ s.due (back + 1000000) = false then .next s
    else
      let s := (s.updPower fun (w : PowerSt) =>
        { w with rails := w.rails.filter fun (q : RailSt) => q.rail != rail.val,
                 warnSpans := if r.above.isSome then w.warnSpans else ((r.from_, back) :: w.warnSpans).take 64 }).showRail rail false
      .next (if s.power.held then s else s.raise 0x0704 rail (satN 32 ((back - r.from_) / 1000000)))

/-- OVER_TEMP: the junction has been above 125 °C for 1 ms: a fatal reset, held until it is below 115 °C (R485). -/
def execOverTemp (s : State) : Out :=
  if s.pwr = 5 then .next s else .next ((s.updPower fun (w : PowerSt) => { w with tempHold := true }).resetBy 8 0)

/-- DIE_TEMP_UPDATE: the junction sensors renew DIE_TEMP, LSB 1/64 °C: DIE_HOT may be raised and calibrations fall due; a device held for
OVER_TEMP is released below 115 °C. Not in SUSPEND (R485, R517). DESIGN CHOICE, unsafe: log 67. -/
def execDieTempUpdate (temp : BitVec 16) (s : State) : Out :=
  if s.pwr = 5 then .next s
  else
    let s := s.wr .DIE_TEMP_Temp temp.toNat
    if s.power.tempHold then
      .next (if s.rdS .DIE_TEMP_Temp < 115 * 64 then (s.updPower fun (w : PowerSt) => { w with tempHold := false }).beginS1 else s)
    else if !s.xtal.running then .next s
    else
      let hot := decide ((s.rd .DIE_TEMP_TjWarn : Int) * 64 < s.rdS .DIE_TEMP_Temp)
      let was := s.power.hot
      let s := s.updPower fun (w : PowerSt) => { w with hot := hot }
      let s := if hot && !was then s.raise 0x0706 (ofS 32 (asr (s.rdS .DIE_TEMP_Temp) 6)) 0 else s
      .next (if s.power.released then s.calTemp else s)

/-- XTAL_START_TIMEOUT: the crystal does not run 10 ms after S1 began (R428). -/
def execXtalStartTimeout (s : State) : Out :=
  if s.inStage 1 && !s.xtal.running && decide (s.xtal.s1From + 10000000 < s.xtal.aonNow + 25) then .next (s.resetBy 5 0) else .next s

/-- XTAL_LOSS: 8 AON cycles pass without a crystal edge while the crystal counts as running (R428). -/
def execXtalLoss (s : State) : Out := if s.xtal.running then .next (s.resetBy 5 0) else .next s

/-- AON_PERIOD_MEASURE: the AON period, ps, is measured against the crystal, once every 10 s while it runs (R427). -/
def execAonPeriodMeasure (ps : Nat) (s : State) : Out :=
  let due := match s.xtal.aonAt with | some t => s.due (t + 10000000000) | none => true
  if s.xtal.running && due then .next { s with xtal := { s.xtal with aonPeriod := ps, aonAt := some s.xt } } else .next s

/-- ACQUISITION_TIMEOUT: a loop has not declared lock within 1 ms: it starts again, and after 8 failures in a row LOOP_FAIL resets the device
(R432). -/
def execAcquisitionTimeout (k : Fin 6) (s : State) : Out :=
  let l := s.loops.get k
  if !l.running || s.loopLocked k || !s.due (l.acqFrom + 1000000) then .next s
  else if 7 ≤ l.fails then .next (s.resetBy 6 0)
  else .next (s.updLoop k fun (l : LoopSt) => { l with acqFrom := s.xt, fails := l.fails + 1, acqs := l.acqs + 1 })

/-! JTAG (R535) -/

/-- The instruction holds the device in reset (R535). -/
def jtagHolds : JtagInstr → Bool
  | .extest => true
  | .extestPulse => true
  | .extestTrain => true
  | .bypass => false
  | .idcode => false
  | .samplePreload => false

/-- IDCODE, the bit that leaves first in front (R535). -/
def idcodeBits : List Bool := (List.range 32).map fun (k : Nat) => bit 0x172484E5 k

/-- PGATE and RTRIG are driven: from S5 on, but not in HOLD (R545). -/
def State.pinsDriven (s : State) : Bool :=
  s.pwr != 1 && !s.power.off && (s.power.released || bit s.power.stages 5 || s.pwr == 5 || s.leavingSuspend)

/-- The level that the device gives FIRE, PCHG, BYP, PGATE and RTRIG, by number: 8 FIRE, 8 PCHG, 16 BYP of each emitter port, 4 PGATE, 4 RTRIG; the last two are
pulled down while they are not driven (R65, R66, R241, R545). -/
def State.devLevel (s : State) (pin : Nat) : Bool :=
  let p : Fin 4 := fin 3 (pin % 4)
  let b := s.probeOf p
  if pin < 8 then (s.ep (fin 7 pin)).fire
  else if pin < 16 then (s.ep (fin 7 (pin - 8))).pchg
  else if pin < 144 then bit (s.ep (fin 7 ((pin - 16) / 16))).byp (pin % 16)
  else if pin < 148 then s.pinsDriven && (b.pgate != (s.rd (.PGATE_CFG_PgateLow p b.slot) == 1))
  else s.pinsDriven && (b.rtrig != (s.rd (.RAMAN_TRIG_RtrigLow p b.slot) == 1))

/-- What the boundary register captures: the levels of the numbered pins in their cells (R535). -/
def State.capture (s : State) : List Bool :=
  (List.range Config.boundaryLen).map fun (c : Nat) =>
    match (List.range 152).find? fun (pin : Nat) => Config.boundaryPos pin == c with
    | some pin => s.devLevel pin
    | none => Config.boundaryCapture s.freeCtr c

/-- A scan of a data register: the bits that leave, and what stays in it (R535). -/
def scanBits (reg bits : List Bool) : List Bool × List Bool := ((reg ++ bits).take bits.length, (reg ++ bits).drop bits.length)

/-- A scan of the current instruction's data register: IDCODE, the one bit of BYPASS, or the boundary register, whose cells then take what was shifted in
(R535). DESIGN CHOICE, unsafe: log 145. -/
def State.jtagScan (s : State) (bits : List Bool) : State :=
  let tdo := fun (s : State) (xs : List Bool) => s.updPower fun (w : PowerSt) => { w with jtag := { w.jtag with tdo := xs } }
  match s.power.jtag.instr with
  | .bypass => tdo s (scanBits [false] bits).1
  | .idcode => tdo s (scanBits idcodeBits bits).1
  | _ =>
    if bits = [] then s
    else
      let (out, reg) := scanBits s.capture bits
      let s := tdo { s with freeCtr := s.freeCtr + 1 } out
      let latch := reg.zipIdx.foldl (fun (l : Sparse Bool) (x : Bool × Nat) => spSet Config.boundaryCell l x.2 x.1) []
      s.updPower fun (w : PowerSt) => { w with jtag := { w.jtag with latch := latch } }

/-- JTAG_INSTRUCTION: an instruction is loaded, and a scan of its data register may follow. While one of the three EXTEST instructions is current the device is held
in reset, which acts as a pin reset, and the pins follow their boundary cells (R241, R481, R535). DESIGN CHOICE, unsafe: log 83. -/
def execJtagInstruction (load : JtagLoad) (s : State) : Out :=
  let hold := jtagHolds load.instr
  let was := s.power.jtagHold
  let s := s.updPower fun (w : PowerSt) => { w with jtagHold := hold, jtag := { w.jtag with instr := load.instr } }
  let s := if hold then (if was then s else s.resetBy 2 0) else s.beginS1
  .next (s.jtagScan load.bits)

/-- The level of a numbered pin: under an EXTEST instruction its boundary cell's, else the device's (R241, R535). -/
def State.pinLevel (s : State) (pin : Nat) : Bool :=
  if s.power.jtagHold then spGet Config.boundaryCell s.power.jtag.latch (Config.boundaryPos pin) else s.devLevel pin

/-- The level of FIRE of an emitter port: active high (R241, R535). -/
def State.firePin (s : State) (e : Fin 8) : Bool := s.pinLevel e
/-- The level of PCHG of an emitter port (R241, R535). -/
def State.pchgPin (s : State) (e : Fin 8) : Bool := s.pinLevel (8 + e)
/-- The level of BYP[k] of an emitter port (R241, R535). -/
def State.bypPin (s : State) (e : Fin 8) (k : Fin 16) : Bool := s.pinLevel (16 + 16 * e + k)
/-- The level of PGATE's pin (R65, R535, R545). -/
def State.pgateLevel (s : State) (p : Fin 4) : Bool := s.pinLevel (144 + p)
/-- The level of RTRIG's pin (R66, R535, R545). -/
def State.rtrigLevel (s : State) (p : Fin 4) : Bool := s.pinLevel (148 + p)

/-! Watchdog (R484) -/

/-- The system watchdog counts: ACTIVE and SENTINEL, with a period. -/
def State.wdogRuns (s : State) : Bool := (s.pwr == 2 || s.pwr == 3) && s.rd .SYS_WDOG_Period != 0

/-- Restart the system watchdog. -/
def State.wdogRestart (s : State) : State := s.updPower fun (w : PowerSt) => { w with wdogFrom := s.xt, wdogWarned := false }

/-- WDOG_WARN: half the period has passed without a restart (R484). -/
def execWdogWarn (s : State) : Out :=
  if s.wdogRuns && !s.power.wdogWarned && s.due (s.power.wdogFrom + s.rd .SYS_WDOG_Period * 500000) then
    .next ((s.updPower fun (w : PowerSt) => { w with wdogWarned := true }).raise 0x0707 (s.rd .SYS_WDOG_Period) 0)
  else .next s

/-- WATCHDOG_EXPIRY: the period has passed without a restart (R484). -/
def execWatchdogExpiry (s : State) : Out :=
  if s.wdogRuns && s.due (s.power.wdogFrom + s.rd .SYS_WDOG_Period * 1000000) then .next (s.resetBy 4 0) else .next s

/-- SOFT_RESET_BEGIN: 1 ms after the response to the RESET_CTRL write the host soft reset begins (R481). -/
def execSoftResetBegin (s : State) : Out :=
  match s.power.softResetAt with
  | some t => if s.due t then .next (s.resetBy 3 0) else .next s
  | none => .next s

end Sys2Proof.Machine
end

