-- ==== Sys2Proof/Machine/Power.lean ====
section
/-! DEFINITION. The power states and the moves between them (R43, R86, R112, R474 – R480). -/
namespace Sys2Proof.Machine

/-! Functions that stop for a move, and restart after it (R476, R477) -/

/-- Leaving ACTIVE, the functions that the host has not stopped are marked for restart (R476). -/
def State.markRunning (s : State) : State :=
  let s := (List.finRange 4).foldl (fun (s : State) (p : Fin 4) => if (s.probeOf p).hostStopped then s else s.markFn 1 p) s
  let s := if s.ctl.stopped then s else s.markFn 3 0
  (List.finRange 8).foldl (fun (s : State) (e : Fin 8) => if (s.ep e).stopped then s else s.markFn 4 e) s

/-- Step 1 of R476: every fibre port with its Raman chain, every emitter port and the lidar engine halt as by ABORT. -/
def State.haltAll (s : State) : State :=
  let s := if s.pwr = 2 then s.markRunning else s
  let s := s.abortLidar
  let s := s.updPower fun (w : PowerSt) => { w with phase := 0 }
  (List.finRange 4).foldl (fun (s : State) (p : Fin 4) => s.fnHalt 1 p false) s

/-- Every halted port has come to rest. -/
def State.allQuiet (s : State) : Bool :=
  (List.finRange 4).all fun (p : Fin 4) => !(s.probeOf p).running && s.portQuiet p

/-- The ports that do not run deliver what they hold (R139, R143). -/
def State.drainAll (s : State) : State := (List.finRange 4).foldl (fun (s : State) (p : Fin 4) => s.drainPort p) s

/-- A function marked for restart is one of a kind and an instance. -/
def State.isMarked (s : State) (kind inst : Nat) : Bool := s.power.marked.contains (256 * kind + inst)

/-- The lidar engine and its emitter ports resume at the next frame sync; a FAULTED port stays so (R263, R477). -/
def State.resumeLidar (s : State) : State :=
  let s := if s.isMarked 3 0 then
      ((s.dropSyncs).updCtl fun (c : EmtSt) => { c with stopped := false }).beginBlanking s.xu
    else s
  (List.finRange 8).foldl (fun (s : State) (e : Fin 8) =>
    if s.isMarked 4 e then s.updE e fun (p : EPort) => { p with stopped := false } else s) s

/-- Every fibre port that the host has not stopped runs its plan from an instant. -/
def State.runPorts (s : State) (at_ : Nat) : State :=
  (List.finRange 4).foldl (fun (s : State) (p : Fin 4) => if (s.probeOf p).hostStopped then s else s.runPort p 0 at_) s

/-- The functions marked for restart do so (R477). -/
def State.restartMarked (s : State) : State :=
  ((s.runPorts s.xt).resumeLidar).updPower fun (w : PowerSt) => { w with marked := [] }

/-! Rings and links on the way out (R476) -/

/-- Step 2 of R476: ring heads pass their records to the bodies and each Crema engine closes its block in progress. -/
def State.settleRings (s : State) : State :=
  (List.finRange 16).foldl (fun (s : State) (r : Fin 16) =>
    if (s.rings.get r).stream.open_.isEmpty then s else s.closeBlock r) s.pumpAll

/-- Step 3 of R476: the links of a set have sent the datagrams already numbered, as far as they are UP. -/
def State.linksEmpty (s : State) (which : Nat → Bool) : Bool :=
  (List.finRange 8).all fun (x : Fin 8) =>
    let l := s.links.get x
    !which x || (l.tx.isNone && (l.queue.isEmpty || !s.linkUp x))

/-- The links that are not kept stop without an alarm (R474). -/
def State.dropLinks (s : State) (keep : Nat) : State :=
  (List.finRange 8).foldl (fun (s : State) (x : Fin 8) =>
    if bit keep x then s
    else ((s.updLink x fun (l : LinkSt) => { l with lock := false, rxLock := false }).cutFrame x).settleLinks) s

/-- Age is not counted between two instants: everything that carries an offer instant moves with it (R383, R476). -/
def State.shiftAges (s : State) (d : Nat) : State :=
  let rec_ := fun (r : Rec) => { r with at_ := r.at_ + d }
  let slot := fun (x : Slot) => { x with at_ := x.at_ + d }
  let dg := fun (x : Dgram) => { x with first := x.first + d }
  { s with
    rings := s.rings.map fun (g : RingSt) =>
      { g with head := g.head.map slot, body := g.body.map slot, asm := g.asm.map slot, asmAt := g.asmAt + d,
               moved := g.moved.map fun (x : Nat × Dgram) => (x.1, dg x.2),
               stream := { g.stream with open_ := g.stream.open_.map rec_, openAt := g.stream.openAt + d,
                                         blocks := g.stream.blocks.map fun (b : Block) => { b with recs := b.recs.map rec_ } } },
    links := s.links.map fun (l : LinkSt) => { l with queue := l.queue.map dg } }

/-- Both channels in use enter self-refresh (R374). -/
def State.dramRest (s : State) : State := (List.finRange 2).foldl (fun (s : State) (ch : Fin 2) => s.enterSelfRefresh ch) s

/-- Buffers and slices of every port power down (R112). -/
def State.portsOff (s : State) : State := (List.finRange 4).foldl (fun (s : State) (p : Fin 4) => s.powerDown p) s

/-! Entry -/

/-- A state is entered: PWR_STATE, ALERT_EVENT, the alarm, the watchdog, and the response (R474, R475, R484, R490). -/
def State.enterState (s : State) (dest : Nat) : State :=
  let from_ := match s.power.trans with | some t => t.1 | none => s.pwr
  let s := ((s.wr .PWR_STATE_State dest).wr .PWR_STATE_Transit 0).wr .ALERT_EVENT_StateEntered 1
  let by_ := s.power.setBy
  let s := s.updPower fun (w : PowerSt) => { w with trans := none, setBy := [] }
  let s := if dest = 2 ∨ dest = 3 then (s.wdogRestart).auxStart else (s.auxStop).zonesFault
  let s := s.raise 0x0705 from_ dest
  by_.foldl (fun (s : State) (x : Nat × Byte) => s.done (fin 8 x.1) 0x08 x.2 0 stOk dest 0) s

/-- The scheduled changes return to the pending bank: Cancel; a newer pending value is kept (R42, R43). DESIGN CHOICE, unsafe: log 112. -/
def State.cancelCommit (s : State) : State :=
  match s.epoch.sched with
  | none => s
  | some c =>
    if c.tc ≤ s.now then s
    else
      let back := c.changes.filter fun (x : Nat × Word) => !(s.epoch.pend.any fun (y : Nat × Word) => y.1 == x.1)
      let pend := back.foldl (fun (m : Sparse Word) (x : Nat × Word) => spIns x.1 x.2 m) s.epoch.pend
      let s := { s with epoch := { s.epoch with sched := none, pend := pend } }
      (s.wr .EPOCH_STATUS_Scheduled 0).wrB .EPOCH_STATUS_Pending (!pend.isEmpty)

/-! SUSPEND (R478, R479) -/

/-- The stores of the save area, in its order: the instruction memories, frame memory, the tables; SRAM, first byte and length. The order
is the model's choice. DESIGN CHOICE, unsafe: log 86. -/
def saveStores : List (Nat × Nat × Nat) :=
  (List.range 16).map (fun (n : Nat) => (9 + n, 458752, 65536)) ++ [(26, 0, 262144), (8, 5242880, 3145728)]

/-- First byte of the save area: the last 8 MiB of the Brew region (R478). -/
def State.saveBase (s : State) : Nat := s.regionBase 3 + s.regionSize 3 - 8388608

/-- Copy words of a store to the save area. -/
def saveGo (id a dst : Nat) : Nat → State → State
  | 0, s => s
  | k + 1, s =>
    let l := sramLoc id ((a + 8 * k) / 8)
    let (d, bad) := s.fetchWord 0x30 l
    saveGo id a dst k ((s.fetched 0x30 l).setWord (s.dramLoc (dst + 8 * k)) d bad)

/-- Copy words of a store back from the save area; answers whether one of them was POISONED. -/
def restoreGo (id a src : Nat) : Nat → State × Bool → State × Bool
  | 0, x => x
  | k + 1, (s, bad) =>
    let l := s.dramLoc (src + 8 * k)
    let (d, b) := s.fetchWord 0x30 l
    restoreGo id a src k ((s.fetched 0x30 l).setWord (sramLoc id ((a + 8 * k) / 8)) d false, bad || b)

/-- Save the stores (R478). -/
def State.saveStoresNow (s : State) : State :=
  (saveStores.foldl (fun (x : State × Nat) (t : Nat × Nat × Nat) => (saveGo t.1 t.2.1 x.2 (t.2.2 / 8) x.1, x.2 + t.2.2)) (s, s.saveBase)).1

/-- What SUSPEND keeps: classes P and C, device time, the pending bank, the ring bodies with the ring registers that make them usable, the
DRAM, the power controller, and which functions are stopped. Class T and the on-chip class V are lost (R20, R476, R478, R482). DESIGN CHOICE, unsafe: log 87. -/
def State.suspended (s : State) : State :=
  let kept := rfKeep (fun (k : RClass) => k == .p || k == .c) s.regs
  let ringRegs := s.regs.filter fun (x : Nat × Word) =>
    (0x600000 ≤ x.1 && x.1 < 0x600400) || (0x610000 ≤ x.1 && x.1 < 0x610400) ||
      x.1 == 0x500004 || x.1 == 0x501004 || x.1 == 0x503004 || x.1 == 0x100
  let regs := ringRegs.foldl (fun (r : RegFile) (x : Nat × Word) => rfSet r x.1 x.2) kept
  { State.reset with
    pending := s.pending, freeCtr := s.freeCtr, regs := keepPhysical s.regs regs, time := s.time.through,
    xtal := { s.xtal with running := false },
    power := { s.power with suspFrom := s.xtal.aonNow, quietFrom := s.xt, begun := 0, stages := 0,
                            rails := s.power.rails.filter fun (r : RailSt) => decide (7 ≤ r.rail) },
    zone := { ZonesSt.rest with low := s.zone.low },
    lidar := { LidarSt.rest with ctl := { EmtSt.rest with stopped := s.ctl.stopped },
                                 ports := s.lidar.ports.map fun (q : EPort) => { EPort.rest with stopped := q.stopped } },
    engs := s.engs.map fun (g : EngSt) => { EngSt.rest with stopped := g.stopped },
    epoch := { s.epoch with sched := none }, host := { HostSt.rest with fuses := s.host.fuses },
    rings := s.rings.map fun (g : RingSt) =>
      { RingSt.rest with body := g.body, bodyAt := g.bodyAt, wraps := g.wraps, next := g.next, start := g.start,
                         stream := { StreamSt.rest with started := g.stream.started, offset := g.stream.offset, reset := true } },
    alarm := { AlarmSt.rest with log := s.alarm.log, logHead := s.alarm.logHead, logCount := s.alarm.logCount },
    image := { s.image with staged := [], stageLen := 0, validating := false }, mem := { s.mem with chans := s.mem.chans },
    links := s.links.map fun (l : LinkSt) => { LinkSt.rest with stopped := l.stopped },
    ports := Vector.ofFn fun (p : Fin 4) =>
      { PortSt.rest with probe := { PortSt.rest.probe with hostStopped := (s.ports.get p).probe.hostStopped },
                         ram := { PortSt.rest.ram with stopped := (s.ports.get p).ram.stopped } } }

/-- Records of SRAM-held buffers that SUSPEND loses are counted lost, those of a block once (R384, R423, R482). -/
def State.loseOnChip (s : State) : State :=
  (List.finRange 16).foldl (fun (s : State) (r : Fin 16) =>
    let g := s.rings.get r
    let dgs := g.moved.map (fun (x : Nat × Dgram) => x.2) ++
      (List.finRange 8).flatMap fun (x : Fin 8) => (s.links.get x).queue.filter fun (d : Dgram) => d.ring == r.val
    let (packed, plain) := dgs.partition fun (d : Dgram) => bit d.flags 0
    let s := s.lose r (g.head.length + g.asm.length + g.stream.open_.length + (plain.flatMap fun (d : Dgram) => d.recs).length)
    s.loseBlocks r ((g.stream.blocks.flatMap Block.seqs ++ packed.flatMap fun (d : Dgram) => d.recs).eraseDups)) s

/-- The wake from SUSPEND begins: start-up stages S1 to S3, with PWR_STATE reading STARTING (R479). -/
def State.beginExit (s : State) : State :=
  if s.pwr != 5 then s
  else
    let dest := if s.on .SUSP_CFG_WakeTo then 3 else 2
    let s := (s.wr .PWR_STATE_State 0).wr .PWR_STATE_Transit 1
    (s.updPower fun (w : PowerSt) => { w with trans := some (5, dest), transFrom := s.xt, wakeLatch := false, begun := 0, stages := 0 }).beginS1

/-- SUSPEND is entered: stores saved while the DRAM is there (R336, R371), every domain but AON gated; its response waits in AON retention (R478, R498). -/
def State.enterSuspend (s : State) : State :=
  let by_ := s.power.setBy
  let from_ := match s.power.trans with | some t => t.1 | none => s.pwr
  let saved := if s.memMode = 3 ∨ s.modeOf ≠ s.memMode then none else some s.mem.lost
  let s := (if saved.isSome then s.cancelCommit.saveStoresNow else s.cancelCommit).dramRest
  let s := ((s.stopLoops).portsOff).loseOnChip
  let s := (s.auxStop).raise 0x0705 from_ 5
  let latch := s.power.wakeLatch
  let s := ((s.suspended).wr .PWR_STATE_State 5).wr .PWR_STATE_Transit 0
  let s := s.updPower fun (w : PowerSt) => { w with trans := none, setBy := by_, saved := saved }
  if latch then s.beginExit else s

/-- A wake from SUSPEND, at once or once a running entry completes (R478). -/
def State.suspendWake (s : State) : State :=
  match s.power.trans with
  | some (_, 5) => s.updPower fun (w : PowerSt) => { w with wakeLatch := true }
  | some _ => s
  | none => if s.pwr = 5 then s.beginExit else s

/-- SUSPEND_WAKE: an edge on WAKE to `level`, or (`cs`) the MGMT chip select held low for 1 µs (R478, R498). -/
def execSuspendWake (cs level : Bool) (s : State) : Out :=
  let ok := if cs then s.on .SUSP_CFG_CsWake else s.on .SUSP_CFG_PinWake && level != s.on .WATCH_CTRL_PinFall
  .next (if ok then s.suspendWake else s)

/-- SUSP_TIMER_EXPIRY: SUSP_TIMER seconds, counted on AON, have passed in SUSPEND (R478). -/
def execSuspTimerExpiry (s : State) : Out :=
  let n := s.rd .SUSP_TIMER_Seconds
  if s.pwr = 5 ∧ n ≠ 0 ∧ s.power.suspFrom + n * 1000000000 < s.xtal.aonNow + 25 then .next s.suspendWake else .next s

/-! SET_STATE (R475, R480) -/

/-- A move may lead to SUSPEND: DRAM is there, and the Brew region holds 8 MiB (R478). -/
def State.maySuspend (s : State) : Bool := s.memMode != 3 && decide (8388608 ≤ s.regionSize 3)

/-- A move begins (R476, R477). DESIGN CHOICE, unsafe: log 85. -/
def State.beginMove (s : State) (dest : Nat) : State :=
  let from_ := s.pwr
  if from_ = 3 ∧ dest = 2 then s.wake 4
  else
    let s := (s.wr .PWR_STATE_Transit 1).updPower fun (w : PowerSt) => { w with trans := some (from_, dest), transFrom := s.xt, settled := false }
    if from_ = 4 then
      if dest = 5 then s
      else
        let s := (s.shiftAges (s.xt - s.power.quietFrom)).updPower fun (w : PowerSt) => { w with leftAt := s.xt }
        if dest = 2 then ((s.startLoops).powerPorts).dramExit
        else
          let s := s.beginWatch
          if s.rd .SENT_CFG_LinkKeep = 0 then s else s.startLoop 4
    else s.haltAll

/-- SET_STATE: requests run in order of acceptance, one at a time (R475, R478, R480). -/
def execSetState (path : Fin 9) (tag : Byte) (target : Byte) (s : State) : Out :=
  let (s, ok) := s.accept path 0x08 tag 0 (BitVec.ofNat 32 target.toNat)
  let dest := target.toNat % 8
  if !ok then .next s
  else if s.power.trans.isSome then .next (s.done path 0x08 tag 0 stBusy 0 0)
  else if dest < 2 ∨ 5 < dest then .next (s.done path 0x08 tag 0 stInvalid 0 0)
  else if s.pwr = 1 then .next (s.done path 0x08 tag 0 stState 0 0)
  else if dest = s.pwr then .next (s.done path 0x08 tag 0 stOk dest 0)
  else if dest = 5 ∧ !s.maySuspend then .next (s.done path 0x08 tag 0 stState 0 0)
  else .next ((s.beginMove dest).updPower fun (w : PowerSt) => { w with setBy := [(path.val, tag)] })

/-! Completion -/

/-- The loops that a state needs are locked (R474). DESIGN CHOICE, unsafe: log 80. -/
def State.loopsReady (s : State) (dest : Nat) : Bool :=
  if dest = 3 then s.rd .SENT_CFG_LinkKeep == 0 || s.locked 4
  else (List.range 5).all (s.locked ·) && (!s.on .CLK_CFG_ClkSrc || s.on .CLK_STATUS_ClkinLocked)

/-- SENTINEL is entered from ACTIVE: t_e is the end of step 1, and links are not waited for (R81, R476). -/
def State.toSentinel (s : State) : State :=
  let s := (s.drainAll).pumpAll
  let s := s.beginWatch
  let s := s.dramRest
  let keep := s.rd .SENT_CFG_LinkKeep
  let s := ((((s.stopLoop 0).stopLoop 1).stopLoop 2).stopLoop 3).stopLoop 5
  let s := if keep = 0 then s.stopLoop 4 else s.dropLinks keep
  (s.portsOff).enterState 3

/-- The halted functions have come to rest: what they hold passes into the rings, once (step 2 of R476). -/
def State.settleMove (s : State) : State :=
  if s.power.settled then s else ((s.drainAll).settleRings).updPower fun (w : PowerSt) => { w with settled := true }

/-- STATE_ENTRY_COMPLETE: a move has done what R476 or R477 asks, and the state is entered (R475 – R478). DESIGN CHOICE, unsafe: log 85. -/
def execStateEntryComplete (s : State) : Out :=
  match s.power.trans with
  | none => .next s
  | some (from_, dest) =>
    if from_ = 4 then
      if dest = 5 then .next (s.shiftAges (s.xt - s.power.quietFrom)).enterSuspend
      else if !s.loopsReady dest || (dest == 2 && !s.dramReady) then .next s
      else .next (s.enterState dest)
    else if from_ = 5 then .next s
    else if from_ = 3 ∧ dest = 2 then .next s
    else if !s.allQuiet then .next s
    else if dest = 3 then .next s.toSentinel
    else
      let s := s.settleMove
      if !s.linksEmpty (fun (_ : Nat) => true) && !s.due (s.power.transFrom + 5000000) then .next s
      else if dest = 5 then .next s.enterSuspend
      else
        let s := (((s.dramRest).stopLoops).portsOff).updPower fun (w : PowerSt) => { w with quietFrom := s.xt }
        .next (s.enterState 4)

/-- A scheduled commit creates the epoch after the wake's own (R44); COMMIT_RESULT.TargetEpoch follows. -/
def State.renumber (s : State) : State :=
  match s.epoch.sched with
  | none => s
  | some c =>
    let n := (s.curEpoch + 1) % 65536
    { s with epoch := { s.epoch with sched := some { c with num := n } } }.wr .COMMIT_RESULT_TargetEpoch n

/-- WAKE_EPOCH_BOUNDARY: Lead after t_w, or once the DRAM is ready, the wake epoch falls: every function switches as at a T_c, fibre ports
launch shot 0, and ACTIVE is entered (R44, R86, R475). -/
def execWakeEpochBoundary (s : State) : Out :=
  match s.power.wakeAt with
  | none => .next s
  | some t =>
    let at_ := max (t + s.watchLead) s.xt
    if !s.due (t + s.watchLead) || !s.dramReady || !s.locked 1 then .next s
    else
      let s := s.updPower fun (w : PowerSt) => { w with wakeAt := none, phase := 0 }
      let s := s.runPorts at_
      let s := (s.beginEpoch ((s.curEpoch + 1) % 65536) (s.devAt at_) 2 []).renumber
      let s := (s.enterState 2).resumeLidar
      .next (s.updPower fun (w : PowerSt) => { w with marked := [] })

/-- MARKED_RESTART: 3.0 ms after the device left QUIESCENT for ACTIVE, the marked functions restart (R477). -/
def execMarkedRestart (s : State) : Out :=
  if s.pwr = 2 ∧ s.power.trans.isNone ∧ s.power.marked ≠ [] ∧ s.due (s.power.leftAt + 3000000) = true ∧ s.locked 1 = true then
    .next s.restartMarked
  else .next s

end Sys2Proof.Machine
end

