-- ==== Sys2Proof/Machine/Checks.lean ====
section
/-! DEFINITION. The checks of a whole configuration (R35): probe plans, products, temperature sensing, lanes, emitters, histograms, rings,
links, streams, memory, and the ranges of the register tables. A check is a function of a register file; the few that also look at the
running device take the state. -/
namespace Sys2Proof.Machine

/-- The number of the first check that fails, counted from `k`; 0 when all pass. -/
def firstFail : Nat → List Bool → Nat
  | _, [] => 0
  | k, b :: bs => if b then firstFail (k + 1) bs else k

/-! Probe plans (R78, R146, R175) -/

/-- h_k of R58, MHz. -/
def Tone.half (t : Tone) : Rat :=
  if t.type = 0 then 1000 / (t.dur : Rat) else if t.type = 1 then (t.bw : Rat) / 2 + 5 else 1000 / (t.chip : Rat)

/-- Every field of a tone lies in its range under R56. -/
def Tone.ok (t : Tone) (shotT : Nat) : Bool :=
  decide (80 ≤ t.freq ∧ t.freq ≤ 920) && decide (1 ≤ t.amp) && decide (t.off + 10 ≤ shotT) &&
    (match t.type with
    | 0 => decide (8 ≤ t.dur ∧ t.dur ≤ 2000)
    | 1 => decide (256 ≤ t.dur ∧ t.dur ≤ 16384 ∧ t.dur % 4 = 0 ∧ 10 ≤ t.bw ∧ t.bw ≤ 100)
    | 2 => decide (6 ≤ t.log ∧ t.log ≤ 11 ∧ t.chip ≤ 32 ∧ t.dur ≤ 16384)
    | _ => false)

/-- Every pair of tones, each taken with one that comes later. -/
def pairsOk (p : Tone → Tone → Bool) : List Tone → Bool
  | [] => true
  | t :: ts => ts.all (p t) && pairsOk p ts

/-- Offsets rise strictly from 0. -/
def offsetsRise : List Tone → Bool
  | t :: u :: ts => decide (t.off < u.off) && offsetsRise (u :: ts)
  | _ => true

/-- Sum of the amplitudes emitted at the launch of a tone (check 6): it changes only there and at the ends of codes. -/
def ampAt (q : Plan) (t : Tone) : Nat :=
  q.tones.foldl (fun (a : Nat) (u : Tone) => if (t.off + q.shotT - u.off) % q.shotT < u.dur then a + u.amp else a) 0

/-- Checks 1 to 12 of a plan slot, in order (R78). DESIGN CHOICE, unsafe: log 88. -/
def planChecks (r : RegFile) (p w : Nat) : List Bool :=
  let q := planOf r p w
  let tones := !q.tones.isEmpty
  let margin := if q.ext then 1000 else 0
  let period := rfRd r (.SHOT_PERIOD_Period p w)
  let raman := 4 * rfRd r (.DTS_RANGE_RamanPos p)
  let band := fun (t : Tone) => (20 : Rat) ≤ (t.freq : Rat) - t.half ∧ (t.freq : Rat) + t.half ≤ 980
  let apart := fun (t u : Tone) => decide (t.half + u.half ≤ (((t.freq : Int) - u.freq).natAbs : Rat))
  [decide (2000 ≤ period ∧ period ≤ 110000),
   decide (rfRd r (.PLAN_CTRL_ToneCount p w) ≤ 8),
   q.tones.all fun (t : Tone) => t.ok q.shotT,
   q.tones.all fun (t : Tone) => decide (band t),
   pairsOk apart q.tones,
   q.tones.all fun (t : Tone) => decide (ampAt q t ≤ 4095),
   offsetsRise q.tones && q.tones.all fun (t : Tone) => decide (t.off + t.dur ≤ q.shotT),
   q.idle || (if tones then decide (q.delay + q.winLen + margin ≤ q.shotT) else decide (q.rDelay + raman + margin ≤ q.shotT)),
   q.idle || decide (1 ≤ q.winPos ∧ q.winPos ≤ 262144),
   !tones || decide (q.load ≤ 2000000000),
   q.m == 0 || decide (q.m ≤ 4096 ∧ q.rDelay + raman + margin ≤ q.m * q.shotT),
   !q.ext || decide (q.extMin ≤ q.extMax ∧ 1 ≤ q.extMin ∧ 200 ≤ q.extDelay)]

/-- Check 13: the watch plan of a port in the watch mask (R78, R82). -/
def watchCheck (r : RegFile) (p : Nat) : Bool :=
  let b := rfRd r .WATCH_CTRL_Burst
  let lead := rfRd r .WATCH_PERIOD_Lead
  let period := rfRd r .WATCH_PERIOD_Period
  !bit (rfRd r .WATCH_CTRL_Ports) p ||
    ((planChecks r p 1).all (fun (x : Bool) => x) && decide (1 ≤ b ∧ b ≤ 4096) && decide (20 ≤ lead ∧ lead ≤ 100) &&
      decide (10 ≤ period ∧ period ≤ 600000) &&
      decide (lead * 100000 + (b + 1) * (planOf r p 1).shotT + 1000000 ≤ period * 1000000))

/-- Check 14 (R146). -/
def chainCheck (r : RegFile) (p : Nat) : Bool :=
  let q := planOf r p 0
  let g := gaugeOf r p
  let step := rfRd r (.CHAIN_CTRL_FuseStep p)
  let shift := rfRd r (.CHAIN_CTRL_QShift p)
  let index := rfRd r (.GEOMETRY_GroupIndex p)
  q.tones.isEmpty ||
    (decide (1 ≤ g ∧ g ≤ 256 ∧ g < q.winPos) && rfRd r (.CHAIN_CTRL_Taper p) != 3 && decide (2 ≤ step ∧ step ≤ 10) &&
      decide (1 ≤ shift ∧ shift ≤ 4) && decide (14400 ≤ index ∧ index ≤ 14900) && decide (rfRd r (.FIBRE_ORIGIN_Origin p) ≤ 1000000))

/-! Records and rates (R149, R161, R163, R193, R556, R395) -/

/-- A kind of record that a configuration can produce: its type, bytes 16 and 17 where the configuration fixes them, its length and the
records per second that the budget declares. -/
structure Kind where
  type : Nat
  b16 : Option Nat
  b17 : Option Nat
  size : Nat
  rate : Rat
deriving DecidableEq, Repr

/-- A length padded to a multiple of 8 (R49). -/
def up8 (n : Nat) : Nat := (n + 7) / 8 * 8

/-- The product of a range. -/
def productOf (r : RegFile) (p g : Nat) : Nat := rfRd r (.RANGE_CFG_Product p g)
/-- Bytes per output position (R148). -/
def posWidth (product : Nat) : Nat := match product with | 2 => 8 | 3 => 4 | _ => 2
/-- Length of a record of a range with n output positions (R161, R163). -/
def rangeRecLen (r : RegFile) (p g n : Nat) : Nat :=
  let product := productOf r p g
  let map := if rfRd r (.RANGE_CFG_MarkMap p g) = 1 ∧ product < 2 then ceilDiv n 8 else 0
  32 + up8 (n * posWidth product + map)
/-- Slot samples per second: n_t / T_shot (R174). -/
def shotRate (q : Plan) : Rat := (q.tones.length : Rat) * 1000000000 / (q.shotT : Rat)
/-- Sets of a range per second (R148). -/
def setRate (r : RegFile) (p g : Nat) : Rat :=
  let f := shotRate (planOf r p 0)
  match productOf r p g with
  | 1 => f / (2 ^ rfRd r (.RANGE_CFG_DecLog p g) : Nat)
  | 2 => 100 / (rfRd r (.RANGE_BAND_BandWin p g) : Rat)
  | _ => f
/-- The ranges of a port that are enabled. -/
def rangesOn (r : RegFile) (p : Nat) : List Nat := (List.range 16).filter fun (g : Nat) => rfRd r (.RANGE_START_Enable p g) == 1

/-- The record kinds of a range's set. -/
def rangeKinds (r : RegFile) (p g : Nat) : List Kind :=
  let count := rfRd r (.RANGE_COUNT_Count p g)
  let n := max 1 (rfRd r (.RANGE_CFG_RecPos p g))
  let type := 0x0101 + productOf r p g
  let rate := setRate r p g
  (if n ≤ count then [⟨type, some p, some g, rangeRecLen r p g n, rate * (count / n : Nat)⟩] else []) ++
    (if count % n = 0 then [] else [⟨type, some p, some g, rangeRecLen r p g (count % n), rate⟩])

/-- A port is the secondary of a pair whose primary measures (R185). -/
def pairedTo (r : RegFile) (p : Nat) : Bool := isSecondary r p

/-- The record kinds of a port's temperature sets (R193, R556). -/
def dtsKinds (r : RegFile) (p : Nat) : List Kind :=
  let q := planOf r p 0
  if q.m = 0 ∨ pairedTo r p = true then []
  else
    let dual := isPrimary r p
    let bins := rfRd r (.BIN_COUNT_Bins p)
    let n := max 1 (rfRd r (.DTS_CTRL_RecBins p))
    let len := fun (k : Nat) => 48 + up8 (k * if dual then 16 else 12)
    let shot := if q.ext then q.shotT - 1000 else q.shotT
    let period := (if dual then 2 else 1) * 2 ^ rfRd r (.DTS_CTRL_AccLog p) * q.m * shot
    let rate : Rat := 1000000000 / (period : Rat)
    let kind := fun (k : Nat) (times : Nat) => (⟨if dual then 0x0202 else 0x0201, some p, some (bnat dual), len k, rate * (times : Rat)⟩ : Kind)
    (if n ≤ bins then [kind n (bins / n)] else []) ++ (if bins % n = 0 then [] else [kind (bins % n) 1])

/-- The record kinds of the traces and breaks of a port (R168, R169). -/
def traceKinds (r : RegFile) (p : Nat) : List Kind :=
  let n := nOf r p 0
  let dec := max 1 (rfRd r (.END_CFG_TraceDec p))
  let bins := ceilDiv n dec
  let kind := fun (k times : Nat) => (⟨0x0A01, some p, some dec, 32 + up8 (2 * k), (times : Rat)⟩ : Kind)
  if (planOf r p 0).tones.isEmpty then []
  else
    (if rfRd r (.END_CFG_TraceEnable p) = 1 then
      (if 4096 ≤ bins then [kind 4096 (bins / 4096)] else []) ++ (if bins % 4096 = 0 then [] else [kind (bins % 4096) 1])
    else []) ++
    (if rfRd r (.END_CFG_EndEnable p) = 1 then [⟨0x0A02, some p, none, 40, 0⟩] else [])

/-- The record kinds of the points of an emitter port on a receiver port (R287). -/
def pointKinds (r : RegFile) (e n : Nat) : List Kind :=
  let lanes := ((List.range 16).filter fun (k : Nat) => timesPort r (16 * n + k) e).length
  if lanes = 0 ∨ portIn r e = false then []
  else
    let amb := if rfRd r (.HIST_CFG_AmbArray e) = 1 then 2 * lanes else 0
    [⟨0x0301, some e, some n, 48 + up8 (12 * min 64 (4 * lanes) + amb), 0⟩]

/-- The record kinds of a ring whose records the configuration fixes: rings 0 to 6, 8, 10, 13, 15. -/
def ringKinds (r : RegFile) (k : Nat) : List Kind :=
  match k with
  | 0 | 1 | 2 | 3 => if (planOf r k 0).tones.isEmpty then [] else (rangesOn r k).flatMap fun (g : Nat) => rangeKinds r k g
  | 4 =>
    let d := rfRd r .AUX_CTRL_TcRecDiv
    ((List.range 4).flatMap fun (p : Nat) => dtsKinds r p) ++
      (if d = 0 then [] else [⟨0x0203, some (rfRd r .AUX_CTRL_TcEnable), none, 64, (rfRd r .AUX_CTRL_AuxRate : Rat) / (d : Rat)⟩])
  | 5 => (List.range 8).flatMap fun (e : Nat) => (List.range 16).flatMap fun (n : Nat) => pointKinds r e n
  | 6 => if rfRd r .DUMP_CTRL_Enable = 1 then [⟨0x0302, some (rfRd r .DUMP_CTRL_Lane), none, 1072, 0⟩] else []
  | 8 => [⟨0x0502, none, none, 48, 0⟩]
  | 10 =>
    (List.range 4).flatMap fun (p : Nat) =>
      if rfRd r (.CAPEV_CTRL_Enable p) = 1 then
        ⟨0x0702, some p, none, 48, 0⟩ ::
          (rangeKinds r p (rfRd r (.CAPEV_CTRL_CapRange p))).map fun (x : Kind) => { x with type := 0x0701, rate := 0 }
      else []
  | 13 => [⟨0x0903, none, none, 56, 0⟩]
  | 15 => (List.range 4).flatMap fun (p : Nat) => traceKinds r p
  | _ => []

/-- Bytes per second of a list of record kinds. -/
def kindsRate (ks : List Kind) : Rat := ks.foldl (fun (a : Rat) (x : Kind) => a + x.rate * (x.size : Rat)) 0

/-- R_r of R395, bytes per second. -/
def ringRate (r : RegFile) (k : Nat) : Rat :=
  if k ≤ 4 ∨ k = 15 then kindsRate (ringKinds r k)
  else if k = 11 ∨ k = 12 then 0
  else (rfRd r (.RING_DECL_Decl k) : Rat) * 1000000 / 8

/-! Products (R174, R175) -/

/-- The limit of RecPos (R148). -/
def recPosMax (product : Nat) : Nat := match product with | 2 => 1024 | 3 => 2048 | _ => 4096

/-- An enabled range of check 15. -/
def rangeCheck (r : RegFile) (p g : Nat) : Bool :=
  let q := planOf r p 0
  let product := productOf r p g
  let dsp := rfRd r (.RANGE_CFG_Dsp p g)
  let count := rfRd r (.RANGE_COUNT_Count p g)
  let pos := rfRd r (.RANGE_CFG_RecPos p g)
  let dec := rfRd r (.RANGE_CFG_DecLog p g)
  let win := rfRd r (.RANGE_BAND_BandWin p g)
  !q.tones.isEmpty && decide (1 ≤ dsp ∧ dsp ≤ 64 ∧ 1 ≤ count) &&
    decide (rfRd r (.RANGE_START_Start p g) + count * dsp ≤ nOf r p 0) && decide (1 ≤ pos ∧ pos ≤ recPosMax product) &&
    (product == 0 || product == 3 ||
      (decide (1 ≤ dec ∧ dec ≤ 6 ∧ 1 ≤ win ∧ win ≤ 100) &&
        q.tones.zipIdx.all fun (x : Tone × Nat) =>
          decide (((x.1.off * q.tones.length : Nat) : Int) - ((x.2 * q.shotT : Nat) : Int) < 10 * (q.tones.length : Int) ∧
            ((x.2 * q.shotT : Nat) : Int) - ((x.1.off * q.tones.length : Nat) : Int) < 10 * (q.tones.length : Int))))

/-- The capture write rate of a port, bytes per second (R174). -/
def capRate (r : RegFile) (p : Nat) : Rat :=
  if rfRd r (.CAPEV_CTRL_Enable p) = 1 then kindsRate (rangeKinds r p (rfRd r (.CAPEV_CTRL_CapRange p))) else 0

/-- The capture part of check 15. -/
def captureCheck (r : RegFile) (p : Nat) : Bool :=
  let cap := rfRd r (.CAPEV_CTRL_CapRange p)
  let band := rfRd r (.CAPEV_CTRL_BandRange p)
  let trig := rfRd r (.CAPEV_CTRL_TrigBand p) == 1
  let pre := rfRd r (.CAPEV_TIME_Pre p)
  let enabled := fun (g product : Nat) => rfRd r (.RANGE_START_Enable p g) == 1 && productOf r p g == product
  let wait := if trig then 10 * rfRd r (.RANGE_BAND_BandWin p band) else 0
  rfRd r (.CAPEV_CTRL_Enable p) == 0 ||
    (enabled cap 0 && (!trig || enabled band 2) && decide (pre ≤ 60000 ∧ rfRd r (.CAPEV_TIME_Post p) ≤ 60000) &&
      decide (capRate r p * ((pre + wait + 100 : Nat) : Rat) / 1000 ≤ ((rfRd r (.CAPEV_BUF_CapBuf p) * 1048576 : Nat) : Rat)))

/-- Check 15 (R175). -/
def productCheck (r : RegFile) (p : Nat) : Bool := (rangesOn r p).all (rangeCheck r p) && captureCheck r p

/-- PLAN_STATUS.FailCheck of a port: its lowest failing check, 0 if none (R78, R146, R175). -/
def portFail (r : RegFile) (p : Nat) : Nat := firstFail 1 (planChecks r p 0 ++ [watchCheck r p, chainCheck r p, productCheck r p])

/-- Bytes of a port's filtered-range state (R174). -/
def stateBytes (r : RegFile) (p : Nat) : Nat :=
  (rangesOn r p).foldl (fun (a g : Nat) =>
    let product := productOf r p g
    a + rfRd r (.RANGE_COUNT_Count p g) * (if product = 1 then 64 else if product = 2 then 192 else 0)) 0

/-- Position-state capacity: slots, filtered load, state, capture write rate (R146, R174). -/
def stateFits (r : RegFile) : Bool :=
  (List.range 4).all (fun (p : Nat) =>
    decide ((planOf r p 0).slotCount ≤ 8) && (!bit (rfRd r .WATCH_CTRL_Ports) p || decide ((planOf r p 1).slotCount ≤ 8)) &&
      decide (thetaLoad r p 0 ≤ 16000000) && decide (stateBytes r p ≤ 16777216)) &&
    decide ((List.range 4).foldl (fun (a : Rat) (p : Nat) => a + capRate r p) 0 ≤ 8000000000)

/-! Temperature sensing (R195) -/

/-- D7 to D9 of the pair whose primary is p. -/
def pairChecks (r : RegFile) (p : Nat) : List Bool :=
  let q := planOf r p 0
  let u := planOf r (p + 1) 0
  let same := fun (f : Nat → Fld) => rfRd r (f p) == rfRd r (f (p + 1))
  let bins := rfRd r (.BIN_COUNT_Bins p)
  let mirror := rfRd r (.MIRROR_MirrorBin p)
  let first := rfRd r (.REF_BINS_RefBin p)
  let last := first + rfRd r (.REF_BINS_RefBins p) - 1
  [u.m != 0 && rfRd r (.DTS_CTRL_Dual (p + 1)) == 0,
   q.shotT == u.shotT && q.m == u.m && same .DTS_CTRL_AccLog && same .FE_CTRL_RamanRate && same .DTS_CTRL_BinPos && same .BIN_COUNT_Bins &&
     !q.ext && !u.ext,
   decide (mirror + 2 ≤ 2 * bins) && decide (last ≤ mirror ∧ mirror < first + bins)]

/-- D1 to D9 of a port with RamanM ≠ 0. -/
def dtsChecks (r : RegFile) (p : Nat) : List Bool :=
  let q := planOf r p 0
  let pos := rfRd r (.DTS_RANGE_RamanPos p)
  let acc := rfRd r (.DTS_CTRL_AccLog p)
  let per := rfRd r (.DTS_CTRL_BinPos p)
  let bins := rfRd r (.BIN_COUNT_Bins p)
  let start := rfRd r (.BIN_START_BinStart p)
  let dark := rfRd r (.DARK_START_DarkStart p)
  let len := rfRd r (.DARK_LEN_DarkLen p)
  let refs := rfRd r (.REF_BINS_RefBins p)
  let recs := rfRd r (.DTS_CTRL_RecBins p)
  let dual := rfRd r (.DTS_CTRL_Dual p) == 1
  let own := [decide (1 ≤ pos ∧ pos ≤ 262144 ∧ 8 ≤ acc ∧ acc ≤ 20 ∧ 1 ≤ per ∧ per ≤ 64 ∧ 1 ≤ bins ∧ bins ≤ 65536),
    decide (start + bins * per ≤ pos),
    decide (len ≤ 4096) && (len == 0 || (decide (dark + len ≤ pos) && decide (dark + len ≤ start ∨ start + bins * per ≤ dark))),
    decide (1 ≤ refs ∧ refs ≤ 64 ∧ rfRd r (.REF_BINS_RefBin p) + refs ≤ bins),
    decide (1 ≤ recs ∧ recs ≤ if isPrimary r p then 512 else 680),
    decide (pos * 4 + 5000 ≤ q.m * q.shotT)]
  if p % 2 = 0 then own ++ (if dual then pairChecks r p else [])
  else if dual then own ++ [false]
  else own

/-- DTS_STATUS.DtsCheck of a port; a failure of its pair counts for both ports (R195). -/
def dtsFail (r : RegFile) (p : Nat) : Nat :=
  let own := if (planOf r p 0).m = 0 then 0 else firstFail 1 (dtsChecks r p)
  let e := p - p % 2
  let pair := if isPrimary r e ∧ ((planOf r e 0).m ≠ 0 ∨ (planOf r (e + 1) 0).m ≠ 0) then firstFail 7 (pairChecks r e) else 0
  if own = 0 then pair else if pair = 0 then own else min own pair

/-- The binary32 tables of a port with RamanM ≠ 0 (R195). -/
def dtsTables (r : RegFile) (p : Nat) : Bool :=
  (planOf r p 0).m == 0 ||
    (((List.range 24).all fun (k : Nat) => fisFinite fmt32 (rfRd r (.POLY_Coef p (k / 4) (k % 4)))) &&
      fisFinite fmt32 (rfRd r (.ALPHA_Alpha p)) && fisFinite fmt32 (rfRd r (.X_LO_XLimit p)) && fisFinite fmt32 (rfRd r (.X_HI_XLimit p)) &&
      flt fmt32 (rfRd r (.X_LO_XLimit p)) (rfRd r (.X_HI_XLimit p)))

/-! Linearisation tables and zones (R200, R204) -/

/-- The points of a table rise strictly in X. -/
def tableRises (r : RegFile) (t : Nat) : Bool :=
  (List.range (min 64 (rfRd r (.TBL_SEG_Segments t)))).all fun (i : Nat) => decide (tblX r t i < tblX r t (i + 1))

/-- The tables in use rise (R200). -/
def auxTables (r : RegFile) : Bool :=
  ((List.range 4).all fun (k : Nat) =>
    !bit (rfRd r .AUX_CTRL_TcEnable) k || tableRises r (rfRd r .TC_TABLE_Table / 4 ^ k % 4)) &&
    (rfRd r .AUX_CTRL_CjComp == 0 || tableRises r 4)

/-- A zone with a source has a scale and a span inside its source (R204). A zone without one (source 0), whose code uses neither, is
not tested. DEDUCED, unsafe: log 122. -/
def zoneOk (r : RegFile) (z : Nat) : Bool :=
  let src := rfRd r (.ZONE_CFG_Source z)
  let port := rfRd r (.ZONE_CFG_Port z)
  let first := rfRd r (.ZONE_FIRST_Index z)
  let last := rfRd r (.ZONE_LAST_Index z)
  src == 0 ||
    (rfRd r (.ZONE_LO_Level z) != rfRd r (.ZONE_HI_Level z) &&
      decide (first ≤ last) &&
        (src == 3 || decide (last < if src = 1 then rfRd r (.BIN_COUNT_Bins port) else rfRd r (.RANGE_COUNT_Count port (rfRd r (.ZONE_CFG_Range z))))))

/-! Lanes, emitters, histograms (R236, R270, R295) -/

/-- The enabled return lanes. -/
def returnLanes (r : RegFile) : List Nat := (List.range 256).filter fun (l : Nat) => rfRd r (.LANE_CFG_Enable l) == 1

/-- L5 of a scan port. -/
def scanOk (r : RegFile) (k : Nat) : Bool :=
  let linear := rfRd r (.SCAN_CTRL_Mode k) == 1
  let lo := rfRd r (.SCAN_FREQ_FMin k)
  let hi := rfRd r (.SCAN_FREQ_FMax k)
  let nom := rfRd r (.SCAN_NOM_NomFreq k)
  let steps := rfRd r (.SCAN_CTRL_Steps k)
  let amp := rfRd r (.SCAN_GEOM_Amp k)
  let div := rfRd r (.SCAN_DRV_FrameDiv k)
  rfRd r (.SCAN_CTRL_Enable k) == 0 ||
    (decide (lo * 256 ≤ nom ∧ nom ≤ hi * 256) &&
      (if linear then decide (1 ≤ lo ∧ hi ≤ 500) else decide (100 ≤ lo ∧ hi ≤ 40000 ∧ steps * 8 * hi ≤ 1000000000)) &&
      decide (2 ≤ steps ∧ steps ≤ 4096 ∧ 3277 ≤ amp ∧ amp ≤ 64880 ∧ 1 ≤ div ∧ div ≤ 4096) &&
      decide (rfRd r (.SCAN_SWEEP_SweepStart k) < rfRd r (.SCAN_SWEEP_SweepEnd k)))

/-- L4 of a regression channel. DEDUCED, unsafe: log 89. -/
def chanOk (r : RegFile) (c : Nat) : Bool :=
  let n := rfRd r (.REG_CFG_Gate c)
  rfRd r (.REG_CFG_Enable c) == 0 ||
    decide (16 ≤ n ∧ n ≤ 4096 ∧ 20 ≤ rfRd r (.REG_NOM_Nominal c) ∧ (c < 4 ∨ rfRd r (.REG_CFG_Source c) ≤ 265))

/-- TL_STATUS.LaneCheck (R236). -/
def laneFail (r : RegFile) : Nat :=
  let lanes := returnLanes r
  let close := fun (l : Nat) => rfRd r (.LANE_WIN_Close l)
  firstFail 1
    [lanes.all fun (l : Nat) => decide (rfRd r (.LANE_WIN_Open l) < close l ∧ close l ≤ 8192),
     ((List.range 266).all fun (l : Nat) => rfRd r (.LANE_CFG_Enable l) == 0 || rfRd r (.LANE_CFG_HoldOff l) != 0) &&
       (List.range 8).all (fun (e : Nat) => rfRd r (.START_CFG_Planned e) == 0 ||
         decide (5 ≤ rfRd r (.START_CFG_Nominal e) ∧ rfRd r (.START_CFG_Nominal e) ≤ 40)),
     lanes.all fun (l : Nat) => decide (128 * close l ≤ 2 * minIvl r (rfRd r (.LANE_CFG_Emitter l))),
     (List.range 16).all (chanOk r),
     (List.range 2).all (scanOk r),
     decide (rfRd r .TL_CTRL_PreFire ≤ 2047)]

/-- The enabled emitter ports. -/
def emitters (r : RegFile) : List Nat := (List.range 8).filter fun (e : Nat) => bit (rfRd r .EMT_CTRL_PortEnable) e

/-- EMT_STATUS.EmitCheck (R270). -/
def emitFail (r : RegFile) : Nat :=
  let src := rfRd r .EMT_CTRL_FrameSrc
  let period := rfRd r .EMT_FRAME_PERIOD_Time
  let lo := rfRd r .EMT_FRAME_EXT_FrmWidthMin
  let w := rfRd r .EMT_TIMING_PchgWidth
  let frame :=
    if src < 2 then rfRd r (.SCAN_CTRL_Enable src) == 1
    else if src = 2 then decide (100 ≤ period ∧ period ≤ 10000000 ∧ rfRd r .EMT_FRAME_PHASE_Time < period)
    else decide (0 < lo ∧ lo ≤ rfRd r .EMT_FRAME_EXT_FrmWidthMax ∧ 20 ≤ rfRd r .EMT_FRAME_DELAY_FrmDelay)
  if (emitters r).isEmpty then 0
  else firstFail 1
    [(emitters r).all fun (e : Nat) =>
       let ivl := rfRd r (.PORT_TIMING_ShotIvl e)
       let dither := rfRd r (.PORT_TIMING_DitherSpan e)
       decide (250 ≤ ivl ∧ ivl ≤ 8192 ∧ dither ≤ 256 ∧ 250 + dither ≤ ivl),
     decide (4 ≤ w ∧ w ≤ 250 ∧ 20 ≤ rfRd r .EMT_TIMING_Settle ∧ 4 ≤ rfRd r .EMT_TIMING_FireWidth),
     frame,
     decide (1 ≤ rfRd r .EXP_LIMIT_ExpLimit)]

/-- PT_STATUS.HistCheck (R295). -/
def histFail (r : RegFile) : Nat :=
  let all := fun (f : Nat → Bool) => (emitters r).all f
  firstFail 1
    [all fun (e : Nat) => (lanesOf r e).all fun (l : Nat) => decide (128 * rfRd r (.LANE_WIN_Close l) ≤ histBase r e + 2048 * binW r e),
     all fun (e : Nat) => decide (rfRd r (.HIST_CFG_Guard e) ≤ 15 ∧ 1 ≤ rfRd r (.HIST_CFG_CoarseFrac e) ∧ rfRd r (.HIST_CFG_CoarseFrac e) ≤ 256),
     all fun (e : Nat) =>
       let fa := rfRd r (.HIST_THR_FaLog e)
       let cand := rfRd r (.HIST_THR_CandLog e)
       decide (4 ≤ fa ∧ fa ≤ 40 ∧ 1 ≤ cand ∧ cand ≤ fa),
     all fun (e : Nat) =>
       let bg := rfRd r (.HIST_CFG_BgSrc e)
       bg != 3 && (bg != 0 || decide (64 ≤ rfRd r .TL_CTRL_PreFire)),
     all fun (e : Nat) => decide (rfRd r (.HIST_THR_SatFrac e) ≤ 256)]

/-- FIRE-to-START on an enabled emitter port (R530). -/
def fireClash (r : RegFile) : Bool := Nat.land (rfRd r .LANE_TEST_FireStart) (rfRd r .EMT_CTRL_PortEnable) != 0

/-- The active bank fails R244 under the new configuration and did not before (R269). -/
def State.bankClash (s : State) (new : RegFile) : Bool :=
  let src := rfRd new .EMT_CTRL_FrameSrc
  let steps := fun (r : RegFile) => if src < 2 then rfRd r (.SCAN_CTRL_Steps src) else 0
  if src == s.rd .EMT_CTRL_FrameSrc && steps new == steps s.regs then false
  else s.bankError new s.activeBank != 0 && s.bankError s.regs s.activeBank == 0

/-! Rings and links (R377, R381, R395, R396, R415) -/

/-- The rings whose bodies are configured. -/
def bodyRings : List Nat := [0, 1, 2, 3, 4, 5, 6, 7, 9, 10, 13, 14, 15]

/-- Two lists of bodies overlap nowhere. -/
def bodiesApart (r : RegFile) : List Nat → Bool
  | [] => true
  | k :: ks =>
    let b := fun (x : Nat) => rfRd r (.RING_BODY_Base x)
    let n := fun (x : Nat) => rfRd r (.RING_BODY_Size x)
    ks.all (fun (j : Nat) => n k == 0 || n j == 0 || decide (b k + n k ≤ b j ∨ b j + n j ≤ b k)) && bodiesApart r ks

/-- The ring bodies of R377. -/
def bodiesFit (r : RegFile) : Bool :=
  bodiesApart r bodyRings && bodyRings.all fun (k : Nat) =>
    let n := rfRd r (.RING_BODY_Size k)
    n != 1 && (n == 0 || decide (rfRd r (.RING_BODY_Base k) + n ≤ (rfRd r (.REGION_SIZE_Size 0) - 4) * 16))

/-- The geometry of a ring that is not STOPPED changes (R381). -/
def State.geometryClash (s : State) (new : RegFile) : Bool :=
  bodyRings.any fun (k : Nat) => s.rd (.RING_STATE_State k) != 0 && rfWord s.regs (0x600004 + 0x40 * k) != rfWord new (0x600004 + 0x40 * k)

/-- The compressed rings of R415. -/
def cremaOk (r : RegFile) : Bool :=
  let on_ := (List.range 16).filter fun (k : Nat) => rfRd r (.RING_CFG_Crema k) == 1
  !(on_.any fun (k : Nat) => k == 8 || k == 11 || k == 12) && decide (on_.length ≤ 10) &&
    ((List.range 8).all fun (e : Nat) =>
      decide (((on_.filter fun (k : Nat) => rfRd r (.CREMA_CFG_Engine k) == e).foldl (fun (a : Rat) (k : Nat) => a + ringRate r k) 0) * 8 ≤ 40000000000)) &&
    on_.all fun (k : Nat) => decide (1 ≤ rfRd r (.CREMA_CFG_BlockKiB k) ∧ rfRd r (.CREMA_CFG_BlockKiB k) ≤ 16)

/-- C_x of R395, bits per second. -/
def linkRate (r : RegFile) (x : Nat) : Nat := if rfRd r (.LINK_CFG_Rate x) = 1 then 10000000000 else 25000000000

/-- The rings that drain to a link by their masks: all but 11 and 12 (R395). -/
def ringsOn (r : RegFile) (x : Nat) : List (Fin 16) :=
  (List.finRange 16).filter fun (k : Fin 16) => k.val != 11 && k.val != 12 && bit (rfRd r (.RING_CFG_Links k)) x

/-- Λ_x of R395, bits per second, of the configuration that the state holds. -/
def State.linkLambda (s : State) (x : Fin 8) : Rat :=
  (ringsOn s.regs x).foldl (fun (a : Rat) (k : Fin 16) =>
    let links : Nat := popCount (s.rd (.RING_CFG_Links k)) 8
    let pay := s.ringPayload k
    a + ringRate s.regs k * 8 / (links : Rat) * ((pay + s.overhead x : Nat) : Rat) / ((pay - 32 : Nat) : Rat)) 0

/-- Some enabled link is declared beyond its limit (R395). -/
def State.overBudget (s : State) : Bool :=
  (List.finRange 8).any fun (x : Fin 8) =>
    let crema := (ringsOn s.regs x).any fun (k : Fin 16) => s.on (.RING_CFG_Crema k)
    s.on (.LINK_CFG_Enable x) && decide ((linkRate s.regs x : Rat) * (if crema then 150 else 95) / 100 < s.linkLambda x)

/-- The largest record of a ring (R396); of an armed or running capture engine as it was armed (R115). -/
def State.largestRec (s : State) (k : Nat) : Nat :=
  let most := fun (xs : List Nat) => xs.foldl (fun (a b : Nat) => max a b) 0
  if k = 7 ∨ k = 9 then 8 * most ((List.range 16).map fun (n : Nat) => s.rd (.CORE_RING_MaxLen n))
  else if k = 14 then
    most ((List.finRange 4).map fun (p : Fin 4) =>
      let st := s.rd (.CAP_STATUS_State p)
      let n := (s.feOf p).cap.recLen
      if st = 1 ∨ st = 2 then 32 + up8 (2 * n + ceilDiv n 4) else 0)
  else most ((ringKinds s.regs k).map fun (x : Kind) => x.size)

/-- A record that does not fit the datagrams of its ring, or a MaxLen outside its range (R396). -/
def State.recordTooLong (s : State) : Bool :=
  ((List.finRange 16).any fun (k : Fin 16) =>
    let linked := s.rd (.RING_CFG_Links k) != 0 || s.on (.RING_CFG_FailEn k)
    linked && k.val != 11 && k.val != 12 && decide (s.ringPayload k < s.largestRec k + 32)) ||
    (List.range 16).any fun (n : Nat) => decide (s.rd (.CORE_RING_MaxLen n) < 2 ∨ 1152 < s.rd (.CORE_RING_MaxLen n))

/-- Set the declared rates of rings 0 – 4 and 15, Mbit/s, and LINK_LOAD of every link (R395): at release and at each T_c. -/
def State.showLoads (s : State) : State :=
  let s := [0, 1, 2, 3, 4, 15].foldl (fun (s : State) (k : Nat) =>
    s.wr (.RING_DECL_Decl k) (satN 16 (ringRate s.regs k * 8 / 1000000).floor.toNat)) s
  (List.finRange 8).foldl (fun (s : State) (x : Fin 8) =>
    s.wr (.LINK_LOAD_Load x) (if s.on (.LINK_CFG_Enable x) then satN 11 (s.linkLambda x * 1000 / (linkRate s.regs x : Rat)).floor.toNat else 0)) s

/-! Stream ports (R328) -/

/-- The record kinds that a stream port matches (R326). -/
def streamKinds (r : RegFile) (n q : Nat) : List Kind :=
  let eq := fun (x want mask : Nat) => Nat.land x mask == Nat.land want mask
  let may := fun (x : Option Nat) (want mask : Nat) => match x with | some v => eq v want mask | none => true
  (ringKinds r (rfRd r (.STREAM_CFG_Ring n q))).filter fun (x : Kind) =>
    eq x.type (rfRd r (.STREAM_TYPE_Match n q)) (rfRd r (.STREAM_TYPE_Mask n q)) &&
      may x.b16 (rfRd r (.STREAM_SEL_Sel0 n q)) (rfRd r (.STREAM_SEL_Sel0Mask n q)) &&
      may x.b17 (rfRd r (.STREAM_SEL_Sel1 n q)) (rfRd r (.STREAM_SEL_Sel1Mask n q))

/-- The declared rate of a stream port, bytes per second. Of ring 5 the integrator declares one rate for all its records. -/
def streamRate (r : RegFile) (n q : Nat) : Rat :=
  let ks := streamKinds r n q
  if rfRd r (.STREAM_CFG_Ring n q) = 5 then (if ks.isEmpty then 0 else ringRate r 5) else kindsRate ks

/-- The enabled stream ports of a core. -/
def streamsOn (r : RegFile) (n : Nat) : List Nat := (List.range 4).filter fun (q : Nat) => rfRd r (.STREAM_CFG_Enable n q) == 1

/-- The stream ports of a core (R328). -/
def coreStreams (r : RegFile) (n : Nat) : Bool :=
  let base := fun (q : Nat) => 64 * rfRd r (.STREAM_CFG_Base n q)
  let len := fun (q : Nat) => 2 ^ rfRd r (.STREAM_CFG_LenLog n q)
  let qs := streamsOn r n
  (qs.all fun (q : Nat) =>
    let log := rfRd r (.STREAM_CFG_LenLog n q)
    decide (12 ≤ log ∧ log ≤ 18 ∧ base q + len q ≤ 458752) &&
      ((streamKinds r n q).all fun (x : Kind) => decide (2 * x.size ≤ len q)) &&
      qs.all fun (u : Nat) => u == q || decide (base q + len q ≤ base u ∨ base u + len u ≤ base q)) &&
    decide (qs.foldl (fun (a : Rat) (q : Nat) => a + streamRate r n q) 0 ≤ 2000000000)

/-- The stream ports of all cores (R328). -/
def streamsFit (r : RegFile) : Bool :=
  (List.range 16).all (coreStreams r) &&
    decide ((List.range 16).foldl (fun (a : Rat) (n : Nat) => (streamsOn r n).foldl (fun (b : Rat) (q : Nat) => b + streamRate r n q) a) 0 ≤ 16000000000)

/-! Fixed settings and capacity (R353, R354, R437) -/

/-- A commit changes a setting that is taken from the image only: identity, clock source, memory geometry, masks, regions. -/
def fixedChanged (old new : RegFile) : Bool :=
  let f := fun (x : Fld) => rfRd old x != rfRd new x
  rfWord old 0x20 != rfWord new 0x20 || f .CLK_CFG_ClkSrc || f .MEM_CHMASK_ChMask ||
    ((List.range 2).any fun (c : Nat) =>
      f (.MC_CFG_Enable c) || f (.MC_CFG_Ranks c) || f (.MC_CFG_Density c) || f (.MC_CFG_Speed c) ||
        (List.range 5).any fun (k : Nat) => f (.XOR_MASK_Mask c k)) ||
    (List.range 3).any fun (k : Nat) => f (.REGION_SIZE_Size k)

/-- History buffers fit the capture region, and core windows the Brew region (R354). -/
def regionsHold (r : RegFile) : Bool :=
  decide ((List.range 4).foldl (fun (a p : Nat) => a + rfRd r (.CAPEV_BUF_CapBuf p)) 0 ≤ rfRd r (.REGION_SIZE_Size 1)) &&
    (List.range 16).all fun (n : Nat) => decide (rfRd r (.CORE_WIN_Base n) + rfRd r (.CORE_WIN_Size n) ≤ rfRd r (.REGION_SIZE_Size 2))

/-! Ranges that no other check names (R557) -/

/-- A field's value lies from a to b. -/
def inRange (r : RegFile) (f : Fld) (a b : Nat) : Bool := decide (a ≤ rfRd r f ∧ rfRd r f ≤ b)

/-- Ranges of the ports. -/
def portRanges (r : RegFile) (p : Nat) : Bool :=
  inRange r (.RAMAN_TRIG_RamanWidth p 0) 1 100 && inRange r (.RAMAN_TRIG_RamanWidth p 1) 1 100 && inRange r (.END_CFG_TraceDec p) 1 64 &&
    inRange r (.REF_AGE_RefAge p) 1 3600 && rfRd r (.FIBRE_TEST_Pattern p) != 3

/-- Ranges of a ring. -/
def ringRanges (r : RegFile) (k : Nat) : Bool :=
  inRange r (.RING_CFG_Weight k) 1 15 && inRange r (.RING_CFG_HighWater k) 0 100 && inRange r (.RING_AGE_AgeLimit k) 1 200 &&
    inRange r (.RING_AGE_FlushUs k) 1 10000

/-- Ranges of a link. -/
def linkRanges (r : RegFile) (x : Nat) : Bool :=
  inRange r (.LINK_FRAME_FrameMax x) 1518 9216 && inRange r (.LINK_FRAME_StallMs x) 1 1000 &&
    inRange r (.LINK_CMD_PeerPrefix x) 0 (if rfRd r (.LINK_CFG_Ipv6 x) = 1 then 128 else 32)

/-- Every other range, step and reserved value that a register table states (R557). -/
def rangesOk (r : RegFile) : Bool :=
  ((List.range 4).all (portRanges r)) && ((List.range 16).all (ringRanges r)) && ((List.range 8).all (linkRanges r)) &&
    inRange r .WAKE_DAS_K 1 16 && inRange r .AUX_CTRL_AuxRate 10 100 && rfRd r .AUX_CTRL_AuxRate % 10 == 0 &&
    ((List.range 5).all fun (t : Nat) => inRange r (.TBL_SEG_Segments t) 1 64) &&
    ((List.range 8).all fun (z : Nat) => inRange r (.ZONE_TIMEOUT_Timeout z) 1 65535) &&
    ((List.range 16).all fun (n : Nat) =>
      inRange r (.CORE_RING_Timeout n) 1 10000 && (List.range 4).all fun (q : Nat) =>
        inRange r (.STREAM_CFG_Ring n q) 0 5 || rfRd r (.STREAM_CFG_Ring n q) == 15) &&
    ((List.range 2).all fun (c : Nat) => rfRd r (.MC_CFG_Density c) != 3 && rfRd r (.SCAN_CTRL_Halves c) != 0) &&
    ((List.range 3).all fun (k : Nat) => rfRd r (.REGION_SIZE_Size k) % 2 == 0) &&
    inRange r .ALARM_CTRL_Budget 16 1000 && inRange r .TIME_CFG_SlewTime 1 100 && inRange r .SYNC_OUT_CFG_SyncWidth 1 65535 &&
    decide (rfRd r .SYNC_OUT_PHASE_Time < rfRd r .SYNC_OUT_PERIOD_Time) &&
    (rfRd r .SYS_WDOG_Period == 0 || inRange r .SYS_WDOG_Period 10 65535) && inRange r .SUPPLY_CFG_WarnPct 2 6 &&
    inRange r .CAL_CFG_DeltaT 1 15 && rfRd r .CAL_CFG_TdcSrc != 3 && inRange r .LANE_TEST_T_LoopDelay 5 40

/-! The whole configuration (R35) -/

/-- The masks of the memory map lie on row bits, and the regions fit the DRAM: asked of an image (R353, R354, R466). The reset value of
ChMask, which also selects SA[17], passes as it stands. -/
def State.imageMemory (s : State) : Bool :=
  let rowBits := fun (c : Nat) => if s.rd (.MC_CFG_Density c) = 0 then 16 else 17
  let xor := fun (c k : Nat) => s.rd (.XOR_MASK_Mask c k)
  let first := bnat (s.on (.MC_CFG_Ranks 0))
  let lowest := 4 + first
  let chmask := s.rd .MEM_CHMASK_ChMask
  let used := (List.range 2).filter fun (c : Nat) => s.on (.MC_CFG_Enable c)
  let sizes := s.rd (.REGION_SIZE_Size 0) + s.rd (.REGION_SIZE_Size 1) + s.rd (.REGION_SIZE_Size 2)
  ((List.range 2).all fun (c : Nat) => (List.range 5).all fun (k : Nat) =>
    decide (xor c k < 2 ^ (rowBits c + bnat (s.on (.MC_CFG_Ranks c)))) && (!s.on (.MC_CFG_Ranks c) || !bit (xor c k) 0)) &&
    (chmask == 0xF0 || decide (chmask < 2 ^ (lowest + rowBits 0 + 1) ∧ chmask % 2 ^ (lowest + 1) = 0)) &&
    (used.isEmpty || decide ((64 + sizes / if used.length = 2 then 1 else 2) * 1048576 ≤ used.foldl (fun (a c : Nat) => a + s.usableOf c) 0))

/-- The reasons other than those of time and state for which a configuration fails R35. `s` holds the device as it runs and `new` the
configuration that would result. -/
def State.failReasons (s : State) (new : RegFile) : List Nat :=
  let t := { s with regs := new }
  let plan := ((List.range 4).any fun (p : Nat) => portFail new p != 0 || dtsFail new p != 0) || laneFail new != 0 || emitFail new != 0 ||
    histFail new != 0 || fireClash new
  let tables := (List.range 4).all (dtsTables new) && auxTables new && (List.range 8).all (zoneOk new) && !s.bankClash new
  let capacity := stateFits new && streamsFit new && bodiesFit new && cremaOk new && regionsHold new && !fixedChanged s.regs new
  (if t.overBudget then [1] else []) ++ (if s.geometryClash new then [2] else []) ++ (if tables then [] else [3]) ++
    (if plan then [4] else []) ++ (if t.recordTooLong then [8] else []) ++ (if capacity then [] else [9]) ++ (if rangesOk new then [] else [10])

/-- Show the results of the checks: FailCheck, DtsCheck, LaneCheck, EmitCheck, HistCheck (R78, R195, R236, R270, R295). -/
def State.showChecks (s : State) (new : RegFile) : State :=
  let s := (List.range 4).foldl (fun (s : State) (p : Nat) =>
    (s.wr (.PLAN_STATUS_FailCheck p) (portFail new p)).wr (.DTS_STATUS_DtsCheck p) (dtsFail new p)) s
  ((s.wr .TL_STATUS_LaneCheck (laneFail new)).wr .EMT_STATUS_EmitCheck (emitFail new)).wr .PT_STATUS_HistCheck (histFail new)

/-- The reason of a list of failures: the only one, or one that the spec leaves open where several apply; 0 for none. -/
def State.pickReason (s : State) : List Nat → Nat × State
  | [] => (0, s)
  | [x] => (x, s)
  | xs =>
    let (v, s) := s.draw
    (xs.getD (v.toNat % xs.length) 0, s)

end Sys2Proof.Machine
end

