-- ==== Sys2Proof/Machine/Sign.lean ====
section
/-! DEFINITION. SHA-256 (FIPS 180-4) and the check of an ECDSA signature over P-256 (FIPS 186-5), which R468 names. -/
namespace Sys2Proof.Machine

/-! SHA-256 -/

/-- The largest r + d, d < 2^k, whose power `p` does not pass n. -/
def rootGo (p n : Nat) : Nat → Nat → Nat
  | 0, r => r
  | k + 1, r => rootGo p n k (if (r + 2 ^ k) ^ p ≤ n then r + 2 ^ k else r)

/-- The first 32 bits of the fractional part of the p-th root of a number below 512. -/
def rootBits (p n : Nat) : Nat := rootGo p (n * 2 ^ (32 * p)) 42 0 % 2 ^ 32

/-- The primes below a bound of at most 361. -/
def smallPrimes (n : Nat) : List Nat :=
  (List.range n).filter fun (m : Nat) => decide (2 ≤ m) && (List.range 19).all fun (d : Nat) => decide (d < 2) || decide (m ≤ d) || m % d != 0

/-- The round constants: from the cube roots of the first 64 primes. -/
def shaK : List Nat := (smallPrimes 312).map (rootBits 3)

/-- The first hash value: from the square roots of the first eight primes. -/
def shaInit : List Nat := (smallPrimes 20).map (rootBits 2)

/-- Rotate a 32-bit word right. -/
def rotr (k x : Nat) : Nat := x / 2 ^ k + x % 2 ^ k * 2 ^ (32 - k)

/-- The message schedule, newest word first: `n` words more. -/
def shaSchedule : Nat → List Nat → List Nat
  | 0, ws => ws
  | n + 1, ws =>
    let a := ws.getD 14 0
    let b := ws.getD 1 0
    let s0 := Nat.xor (Nat.xor (rotr 7 a) (rotr 18 a)) (a / 2 ^ 3)
    let s1 := Nat.xor (Nat.xor (rotr 17 b) (rotr 19 b)) (b / 2 ^ 10)
    shaSchedule n ((ws.getD 15 0 + s0 + ws.getD 6 0 + s1) % 2 ^ 32 :: ws)

/-- One round on the eight working variables. -/
def shaRound (v : List Nat) (kw : Nat) : List Nat :=
  let a := v.getD 0 0
  let b := v.getD 1 0
  let c := v.getD 2 0
  let e := v.getD 4 0
  let f := v.getD 5 0
  let g := v.getD 6 0
  let s1 := Nat.xor (Nat.xor (rotr 6 e) (rotr 11 e)) (rotr 25 e)
  let ch := Nat.xor (Nat.land e f) (Nat.land (2 ^ 32 - 1 - e) g)
  let t1 := v.getD 7 0 + s1 + ch + kw
  let s0 := Nat.xor (Nat.xor (rotr 2 a) (rotr 13 a)) (rotr 22 a)
  let maj := Nat.xor (Nat.xor (Nat.land a b) (Nat.land a c)) (Nat.land b c)
  [(t1 + s0 + maj) % 2 ^ 32, a, b, c, (v.getD 3 0 + t1) % 2 ^ 32, e, f, g]

/-- Compress the blocks of a padded message; the first argument is their number. -/
def shaBlocks : Nat → List Byte → List Nat → List Nat
  | 0, _, h => h
  | n + 1, bs, h =>
    let ws := (List.range 16).map fun (i : Nat) => beNat (slice bs (4 * i) 4)
    let sched := (shaSchedule 48 ws.reverse).reverse
    let v := (shaK.zip sched).foldl (fun (v : List Nat) (x : Nat × Nat) => shaRound v (x.1 + x.2)) h
    shaBlocks n (bs.drop 64) ((h.zip v).map fun (x : Nat × Nat) => (x.1 + x.2) % 2 ^ 32)

/-- SHA-256 of a byte string, as output. -/
def sha256 (bs : List Byte) : List Byte :=
  let pad := bs ++ [128] ++ zeros ((119 - bs.length % 64) % 64) ++ be 8 (8 * bs.length)
  (shaBlocks (pad.length / 64) pad shaInit).flatMap fun (w : Nat) => be 4 w

/-! ECDSA over P-256 -/

/-- The field prime. -/
def ecP : Nat := 0xffffffff00000001000000000000000000000000ffffffffffffffffffffffff
/-- The curve's b; its a is −3. -/
def ecB : Nat := 0x5ac635d8aa3a93e7b3ebbd55769886bc651d06b0cc53b0f63bce3c3e27d2604b
/-- The order of the base point. -/
def ecN : Nat := 0xffffffff00000000ffffffffffffffffbce6faada7179e84f3b9cac2fc632551
/-- The base point. -/
def ecG : Nat × Nat := (0x6b17d1f2e12c4247f8bce6e563a440f277037d812deb33a0f4a13945d898c296, 0x4fe342e2fe1a7f9b8ee7eb4a7c0f9e162bce33576b315ececbb6406837bf51f5)

/-- b^e mod m, by binary digits of e; the first argument bounds their number. -/
def powMod (m : Nat) : Nat → Nat → Nat → Nat
  | 0, _, _ => 1 % m
  | k + 1, b, e =>
    let r := powMod m k (b * b % m) (e / 2)
    if e % 2 = 1 then r * b % m else r

/-- The inverse modulo a prime. -/
def invMod (m a : Nat) : Nat := powMod m 256 a (m - 2)

/-- The sum of two points; none is the point at infinity. -/
def ecAdd : Option (Nat × Nat) → Option (Nat × Nat) → Option (Nat × Nat)
  | none, b => b
  | a, none => a
  | some (x1, y1), some (x2, y2) =>
    let line := fun (num den : Nat) =>
      let l := num * invMod ecP den % ecP
      let x := (l * l + 2 * ecP - x1 - x2) % ecP
      some (x, (l * (x1 + ecP - x) + ecP - y1) % ecP)
    if x1 = x2 then
      if (y1 + y2) % ecP = 0 then none else line (3 * x1 * x1 + ecP - 3) (2 * y1)
    else line (y2 + ecP - y1) (x2 + ecP - x1)

/-- A multiple of a point, by binary digits. -/
def ecMul : Nat → Nat → Option (Nat × Nat) → Option (Nat × Nat)
  | 0, _, _ => none
  | k + 1, n, q =>
    let r := ecMul k (n / 2) (ecAdd q q)
    if n % 2 = 1 then ecAdd r q else r

/-- The signature (r, s) of a hash verifies against the key (x, y). -/
def ecdsaOk (hash x y r s : Nat) : Bool :=
  let w := invMod ecN s
  let sum := ecAdd (ecMul 256 (hash * w % ecN) (some ecG)) (ecMul 256 (r * w % ecN) (some (x, y)))
  decide (1 ≤ r ∧ r < ecN ∧ 1 ≤ s ∧ s < ecN ∧ x < ecP ∧ y < ecP) && (y * y + 3 * x) % ecP == (x * x * x + ecB) % ecP &&
    (match sum with | some q => q.1 % ecN == r | none => false)

end Sys2Proof.Machine
end

