-- ==== Sys2Proof/Machine/Image.lean ====
section
/-! DEFINITION. The configuration image: its layout, its validation, and what its sections load (R462 – R471, R483). An image is read through
a function from offsets to bytes. -/
namespace Sys2Proof.Machine

/-! Layout (R463, R464, R468) -/

/-- Bytes of an image. -/
def imgBytes (get : Nat → Byte) (off n : Nat) : List Byte := (List.range n).map fun (i : Nat) => get (off + i)
/-- A little-endian number of an image. -/
def imgNat (get : Nat → Byte) (off n : Nat) : Nat := leNat (imgBytes get off n)

/-- An entry of the section table (R464). -/
structure Sec where
  type : Nat
  flags : Nat
  zero3 : Nat
  off : Nat
  stored : Nat
  len : Nat
  crc : Nat
  zero20 : Nat
deriving DecidableEq, Repr

/-- ImageLen. -/
def imgLen (get : Nat → Byte) : Nat := imgNat get 12 4
/-- Sequence. -/
def imgSeq (get : Nat → Byte) : Nat := imgNat get 8 4
/-- Signed. -/
def imgSigned (get : Nat → Byte) : Bool := bit (imgNat get 7 1) 0
/-- The section table. -/
def secsOf (get : Nat → Byte) : List Sec :=
  (List.range (imgNat get 16 2)).map fun (k : Nat) =>
    let a := imgNat get 20 4 + 24 * k
    ⟨imgNat get a 2, imgNat get (a + 2) 1, imgNat get (a + 3) 1, imgNat get (a + 4) 4, imgNat get (a + 8) 4, imgNat get (a + 12) 4,
      imgNat get (a + 16) 4, imgNat get (a + 20) 4⟩
/-- Offset of the trailer. -/
def trailerOf (get : Nat → Byte) : Nat := imgLen get - 112
/-- The digest that the trailer states, and that IMAGE_DIGEST shows. -/
def imgDigest (get : Nat → Byte) : List Byte := imgBytes get (trailerOf get + 8) 32

/-- No two extents overlap. -/
def apart : List (Nat × Nat) → Bool
  | [] => true
  | x :: xs => xs.all (fun (y : Nat × Nat) => x.2 == 0 || y.2 == 0 || decide (x.1 + x.2 ≤ y.1 ∨ y.1 + y.2 ≤ x.1)) && apart xs

/-- Extents and table entries obey R463 and R464. -/
def extentsOk (get : Nat → Byte) (most : Nat) : Bool :=
  let len := imgLen get
  let secs := secsOf get
  let spans := [(0, 64), (imgNat get 20 4, 24 * secs.length)] ++ secs.map (fun (x : Sec) => (x.off, x.stored)) ++ [(trailerOf get, 112)]
  decide (112 ≤ len ∧ len ≤ most ∧ len % 8 = 0) && apart spans &&
    (spans.all fun (x : Nat × Nat) => decide (x.1 % 8 = 0 ∧ x.2 % 8 = 0 ∧ x.1 + x.2 ≤ len)) &&
    secs.all fun (x : Sec) => x.zero3 == 0 && x.zero20 == 0 && decide (x.flags < 2) && decide (x.len % 8 = 0) &&
      (x.flags == 1 || x.len == x.stored)

/-- Checks 1 to 4 of R470: EMPTY, HEADER, LEVEL, LENGTH; 0 for a candidate (R471). -/
def headerCode (get : Nat → Byte) (most : Nat) : Nat :=
  let n := imgNat get 16 2
  if imgNat get 0 4 ≠ 0x46435A49 then 1
  else if crc32c (imgBytes get 0 60) ≠ imgNat get 60 4 ∨ imgNat get 4 1 ≠ 1 ∨ 2 ≤ imgNat get 7 1 ∨ imgNat get 18 2 ≠ 0 ∨ imgNat get 56 4 ≠ 0 ∨
      n = 0 ∨ 1024 < n ∨ 2 < imgNat get 6 1 then 2
  else if imgNat get 5 1 ≠ 1 then 3
  else if extentsOk get most then 0
  else 4

/-- The trailer is whole (R468, R470). -/
def trailerOk (get : Nat → Byte) : Bool :=
  let t := trailerOf get
  imgNat get t 4 == 0x444E455A && imgNat get (t + 4) 4 == imgSeq get && crc32c (imgBytes get t 108) == imgNat get (t + 108) 4

/-! Sections (R465 – R467) -/

/-- Decode the Crema blocks of a section, stored end to end: StreamId 0, BlockSeq from 0, a fresh history first (R467). Fewer than eight bytes
after the last block are padding. -/
def inflate : Nat → DecState → Nat → Nat → List Byte → List Byte → Except Nat (List Byte)
  | 0, _, _, _, _, _ => .error 3
  | k + 1, st, seq, want, bs, acc =>
    if want = 0 then (if bs.length < 8 then .ok acc else .error 3)
    else if leAt bs 4 2 ≠ 0 ∨ leAt bs 6 4 ≠ seq ∨ (seq = 0 ∧ bit (leAt bs 3 1) 1 = true) then .error 5
    else match decodeBlock st bs with
      | .error e => .error e
      | .ok (content, rest, st) =>
        if want < content.length then .error 3 else inflate k st (seq + 1) (want - content.length) rest (acc ++ content)

/-- The content of a section, or the decoder's error. -/
def secContent (get : Nat → Byte) (x : Sec) : Except Nat (List Byte) :=
  let bs := imgBytes get x.off x.stored
  if x.flags = 1 then inflate (x.len / 16 + 2) ⟨[], none⟩ 0 x.len bs [] else .ok bs

/-- The first section that does not decompress, with its error; `k` counts from its index. -/
def decodeFault (get : Nat → Byte) : Nat → List Sec → Option (Nat × Nat)
  | _, [] => none
  | k, x :: xs =>
    match secContent get x with
    | .error e => some (k, e)
    | .ok _ => decodeFault get (k + 1) xs

/-- The sections by type, with their contents. -/
def contentsOf (get : Nat → Byte) : List (Nat × List Byte) :=
  (secsOf get).map fun (x : Sec) => (x.type, match secContent get x with | .ok bs => bs | .error _ => [])

/-- The contents of the sections of a type. -/
def ofType (xs : List (Nat × List Byte)) (type : Nat) : List (List Byte) :=
  (xs.filter fun (x : Nat × List Byte) => x.1 == type).map fun (x : Nat × List Byte) => x.2

/-- The bits of a register that an image may set: its RW class C fields, and the two fields whose table marks them RW but whose effect is
fixed (R466). -/
def imgMask (a : Nat) : Word :=
  let fixed := ((List.range 4).any fun (p : Nat) => a == 0x100044 + 0x10000 * p || a == 0x100144 + 0x10000 * p)
  let source := ((List.range 4).any fun (c : Nat) => a == (Fld.REG_CFG_Source c).addr)
  if fixed then cMask a ||| 0x1FFFF else if source then cMask a ||| 0x1FF else cMask a

/-- The (address, value) pairs of a register-write section (R466). -/
def pairsOf : List Byte → List (Nat × Nat)
  | a :: b :: c :: d :: e :: f :: g :: h :: bs => (leNat [a, b, c, d], leNat [e, f, g, h]) :: pairsOf bs
  | _ => []

/-- A pair names a register with an RW class C field, and the other bits of its value are zero (R466). -/
def pairOk (x : Nat × Nat) : Bool := cMask x.1 != 0 && (BitVec.ofNat 32 x.2 &&& ~~~imgMask x.1) == 0

/-- The register writes of an image, in order, on top of a register file (R466). -/
def imageRegs (r : RegFile) (xs : List (Nat × List Byte)) : RegFile :=
  ((ofType xs 1).flatMap pairsOf).foldl (fun (r : RegFile) (x : Nat × Nat) =>
    rfSet r x.1 (overlayWord (cMask x.1) (rfWord r x.1) (BitVec.ofNat 32 x.2))) r

/-- A retirement: channel, rank, bank group, bank, row (R465). -/
structure Retire where
  ch : Nat
  rank : Nat
  bg : Nat
  ba : Nat
  row : Nat
deriving DecidableEq, Repr

/-- The retirements of an image. -/
def retiresOf : List Byte → List Retire
  | a :: b :: c :: d :: e :: f :: g :: h :: bs => ⟨a.toNat, b.toNat, c.toNat, d.toNat, leNat [e, f, g, h]⟩ :: retiresOf bs
  | _ => []

/-- A retirement is already in the table. -/
def State.hasRetire (s : State) (x : Retire) : Bool :=
  (List.range 64).any fun (i : Nat) => s.entryMatches (x.ch % 2) i ⟨x.rank, x.bg, x.ba, x.row, 0, 0⟩

/-- Enter retirements of the image; none when one of them fails R358. -/
def State.addRetires (s : State) : List Retire → Option State
  | [] => some s
  | x :: xs =>
    if 2 ≤ x.ch ∨ s.ranksOf x.ch ≤ x.rank ∨ 4 ≤ x.bg ∨ 4 ≤ x.ba ∨ s.rowsOf x.ch ≤ x.row + 4 then none
    else if s.hasRetire x then s.addRetires xs
    else match s.addRetire x.ch x.rank x.bg x.ba x.row false with
      | none => none
      | some (_, s) => s.addRetires xs

/-- The content of a section is what R465 and R466 allow, apart from frame banks and retirements. -/
def secOk (x : Nat × List Byte) : Bool :=
  let n := x.2.length
  let t := x.1
  if t = 1 then (pairsOf x.2).all pairOk
  else if t = 2 then n == 64
  else if t = 3 ∨ t = 4 then n == 131072
  else if 0x10 ≤ t ∧ t < 0x20 then decide (8 ≤ n ∧ n ≤ 65536)
  else if 0x20 ≤ t ∧ t < 0x30 then
    let a := leAt x.2 0 4
    decide (8 ≤ n ∧ a % 8 = 0 ∧ a + (n - 8) ≤ 458752) && leAt x.2 4 4 == 0
  else if t = 0x30 then decide (n ≤ 2097152)
  else if t = 0x40 then true
  else decide (32768 ≤ t)

/-- A type that an image may hold once. -/
def onceType (t : Nat) : Bool := decide (2 ≤ t ∧ t ≤ 4) || decide (0x10 ≤ t ∧ t < 0x20) || t == 0x30 || t == 0x40

/-- The first section whose content is not allowed; `seen` are the types before it. -/
def contentFault (bad : Nat × List Byte → Bool) : Nat → List Nat → List (Nat × List Byte) → Option Nat
  | _, _, [] => none
  | k, seen, x :: xs =>
    if !secOk x || (onceType x.1 && seen.contains x.1) || bad x then some k else contentFault bad (k + 1) (x.1 :: seen) xs

/-- The frame banks of an image in frame memory: bank 0 and bank 1 (R245, R465). -/
def State.loadFrames (s : State) (xs : List (Nat × List Byte)) : State :=
  let put := fun (s : State) (b : Nat) => (ofType xs (3 + b)).foldl (fun (s : State) (bs : List Byte) => s.sramWrite 0x32 26 (131072 * b) bs) s
  put (put s 0) 1

/-- Instruction memories, initialised data and the firmware table area (R465). -/
def State.loadStores (s : State) (xs : List (Nat × List Byte)) : State :=
  let s := (List.range 16).foldl (fun (s : State) (n : Nat) =>
    let s := (ofType xs (0x10 + n)).foldl (fun (s : State) (bs : List Byte) => s.sramWrite 0x32 (9 + n) 458752 bs) s
    (ofType xs (0x20 + n)).foldl (fun (s : State) (bs : List Byte) => s.sramWrite 0x32 (9 + n) (leAt bs 0 4) (bs.drop 8)) s) s
  (ofType xs 0x30).foldl (fun (s : State) (bs : List Byte) => s.sramWrite 0x32 8 5242880 bs) s

/-! Validation (R469, R470) -/

/-- The fuses accept the image (R468, R469). -/
def State.signatureOk (s : State) (get : Nat → Byte) (xs : List (Nat × List Byte)) : Bool :=
  let t := trailerOf get
  let key := ((ofType xs 2).head?).getD []
  if s.image.keyHash.isEmpty then true
  else if !imgSigned get then !s.on .FUSE_STATUS_Lock
  else key.length == 64 && sha256 key == s.image.keyHash &&
    ecdsaOk (beNat (sha256 (imgBytes get 0 t))) (leNat (key.take 32)) (leNat (key.drop 32)) (imgNat get (t + 40) 32) (imgNat get (t + 72) 32)

/-- The result of a validation: its code of R470, the section in error, and the decoder's error with its section. -/
structure Verdict where
  code : Nat
  section_ : Option Nat
  decomp : Option (Nat × Nat)
deriving DecidableEq, Repr

/-- Validate an image by the checks of R470 up to CONTENT, in order; CHECK follows at S5. DESIGN CHOICE, unsafe: log 90. -/
def State.validate (s : State) (get : Nat → Byte) (most : Nat) : Verdict :=
  let h := headerCode get most
  let secs := secsOf get
  let no := fun (c : Nat) => (⟨c, none, none⟩ : Verdict)
  if h ≠ 0 then no h
  else if !trailerOk get then no 5
  else match secs.findIdx? fun (x : Sec) => crc32c (imgBytes get x.off x.stored) != x.crc with
    | some k => ⟨6, some k, none⟩
    | none =>
      match decodeFault get 0 secs with
      | some (k, e) => ⟨7, some k, some (k, e)⟩
      | none =>
        let xs := contentsOf get
        if sha256 (imgBytes get 0 (trailerOf get)) ≠ imgDigest get then no 8
        else if !s.signatureOk get xs then no 9
        else
          let t := { s with regs := imageRegs [] xs }.loadFrames xs
          let bad := fun (x : Nat × List Byte) =>
            if x.1 = 3 ∨ x.1 = 4 then t.bankError t.regs (x.1 - 3) != 0
            else if x.1 = 0x40 then (t.addRetires (retiresOf x.2)).isNone
            else false
          match contentFault bad 0 [] xs with
          | some k => ⟨10, some k, none⟩
          | none => no (if imgSigned get && (ofType xs 2).isEmpty then 10 else 0)

/-- Show the parts of a verdict that registers hold: IMAGE_FAULT, and DECOMP_STATUS of the most recent load (R412, R413, R467). -/
def State.showVerdict (s : State) (v : Verdict) : State :=
  let s := match v.section_ with | some k => s.wr .IMAGE_FAULT_Section k | none => s
  match v.decomp with
  | some (k, e) => (s.wr .DECOMP_STATUS_Error e).wr .DECOMP_STATUS_Section k
  | none => (s.wr .DECOMP_STATUS_Error 0).wr .DECOMP_STATUS_Section 0

/-! Slots (R462, R471) -/

/-- A byte of a slot. -/
def State.slotByte (s : State) (slot : Nat) (i : Nat) : Byte := spGet (fun _ => 255) s.image.flash (67108864 * slot + i)
/-- The result of checks 1 to 4 of a slot; slot B of a small flash reads as EMPTY (R462). -/
def State.slotHeader (s : State) (slot : Nat) : Nat :=
  if slot = 1 ∧ s.image.flashSize ≤ 67108864 then 1 else headerCode (s.slotByte slot) 67108864
/-- The candidates, the one to be validated first in front (R471). -/
def State.slotOrder (s : State) : List Nat :=
  let c := fun (k : Nat) => s.slotHeader k == 0
  let later := decide (imgSeq (s.slotByte 0) < imgSeq (s.slotByte 1))
  (if later then [1, 0] else [0, 1]).filter c
/-- ResultA or ResultB. -/
def slotResult (slot : Nat) : Fld := if slot = 0 then .IMAGE_STATUS_ResultA else .IMAGE_STATUS_ResultB

/-- Bytes of the image that is running or found: a slot, or the staged one. -/
def State.imageByte (s : State) (i : Nat) : Byte :=
  let src := s.rd .IMAGE_STATUS_Source
  if src = 2 then s.image.staged.getD i 0 else s.slotByte src i

end Sys2Proof.Machine
end

