-- ==== Sys2Proof/Machine/Startup.lean ====
section
/-! DEFINITION. Start-up from S1 to the release, HOLD, and the exit from SUSPEND (R345, R366, R428, R450, R458 – R461, R471 – R473, R479,
R482, R483, R518, R533, R555, R560). -/
namespace Sys2Proof.Machine

/-! S1 (R428, R450) -/

/-- The time base when the crystal runs again: the AON cycles counted meanwhile pass on the crystal count, and the state becomes HOLDOVER or
FREE, whose ageing counts from this start-up (R441, R448, R450). DESIGN CHOICE, unsafe: log 82. -/
def State.resumeTime (s : State) (cycles : Nat) : State :=
  let s := s.updTime fun (t : TimeSt) => { t with lam48 := t.lam48 + cycles * s.xtal.aonPeriod * 2 ^ 48 / 1000 }
  let st := s.rd .TIME_STATE_State
  if st = 2 ∨ st = 3 then s.enterHoldover
  else if st = 4 then s
  else (s.updTime fun (t : TimeSt) => { t with holdCorr := 0, holdLam := t.lam48 }).setTimeState (if s.timeSrc = 0 then 0 else 1)

/-- CRYSTAL_RUNNING: the crystal has given 1,024 good edges: S1 ends, MGMT answers, PLL-B starts. `cycles` are the AON cycles counted since
the crystal stopped; after a power-on reset device time starts at 0. A SET_STATE that led to SUSPEND is answered now (R428, R438, R450, R458,
R461, R498). -/
def execCrystalRunning (cycles : Nat) (s : State) : Out :=
  if s.power.held || !s.inStage 1 || s.xtal.running then .next s
  else
    let fresh := s.power.lastReset == 1 && !s.leavingSuspend
    let s := { s with xtal := { s.xtal with running := true } }
    let s := if fresh then s else s.resumeTime cycles
    let by_ := s.power.setBy
    let s := s.updPower fun (w : PowerSt) => { w with setBy := [] }
    let s := by_.foldl (fun (s : State) (x : Nat × Byte) => s.done (fin 8 x.1) 0x08 x.2 0 stOk 5 0) s
    .next (((s.endStage 1).beginStage 2).startLoop 1)

/-! HOLD (R472, R555) -/

/-- Start-up ends in HOLD: class C fields read their reset values, only PLL-B runs, zones are at fault level. DESIGN CHOICE, unsafe: log 92.
DESIGN CHOICE, unsafe: log 116. -/
def State.enterHold (s : State) : State :=
  let s := { s with regs := keepPhysical s.regs (rfKeep (fun (k : RClass) => k != RClass.c) s.regs) }
  let s := ((((s.stopLoop 0).stopLoop 2).stopLoop 3).stopLoop 4).stopLoop 5
  let s := ((s.wr .PWR_STATE_State 1).wr .PWR_STATE_Transit 0).wr .ALERT_EVENT_StateEntered 1
  (s.zonesFault).raise 0x0705 0 1

/-! S3 (R345, R533) -/

/-- The image that S4 will choose: the first candidate that is VALID. -/
def State.firstValid (s : State) : Option Nat := s.slotOrder.find? fun (k : Nat) => (s.validate (s.slotByte k) 67108864).code == 0

/-- BIST_CFG of the image that S4 will choose (R533). -/
def State.bistOf (s : State) : Nat :=
  match s.firstValid with
  | some k => (rfWord (imageRegs [] (contentsOf (s.slotByte k))) (Fld.BIST_CFG_Sram).addr).toNat
  | none => 0

/-- S5 begins once S3 and S4 have completed, but not in HOLD (R472). -/
def State.toS5 (s : State) : State := if s.pwr != 1 && s.stageDone 3 && s.stageDone 4 then s.beginStage 5 else s

/-- Start the loops and the reference buffers of the ports that are not idle: S6 (R110, R458). -/
def State.beginS6 (s : State) : State :=
  (((s.beginStage 6).updPower fun (w : PowerSt) => { w with s6From := s.xt }).startLoops).powerPorts

/-- SRAM_FILL_DONE: every SRAM but id 27 is filled, and id 27 too at power-on reset. With BIST_CFG.Sram in the image a march ran first; `bad`
is the first SRAM that failed it, with its first failing word: the device enters HOLD (R345, R458, R533). DESIGN CHOICE, unsafe: log 93. -/
def execSramFillDone (bad : Option (Fin 64 × Nat)) (s : State) : Out :=
  if !s.inStage 3 then .next s
  else
    let leave := s.leavingSuspend
    let ids := (List.range 64).filter fun (k : Nat) => k != 27 || (s.power.lastReset == 1 && !leave)
    let bist := !leave && bit s.bistOf 0
    let s := (ids.foldl (fun (s : State) (k : Nat) => s.fillSram k) s).endStage 3
    if leave then .next s.beginS6
    else if !bist then .next s.toS5
    else
      let s := (s.wr .BIST_STATUS_Ran 1).wr .BIST_STATUS_Failed 0xFF
      match bad with
      | none => .next s.toS5
      | some (k, w) =>
        if !ids.contains k.val then .next s.toS5
        else
          let s := ((s.wr .BIST_STATUS_Failed k).raise 0x0803 k w).endStage 4
          .next (if s.pwr = 1 then s else s.enterHold)

/-! S4 (R470, R471) -/

/-- Validate the candidates in order until one is VALID; those already validated are passed over. -/
def validateGo : List Nat → State → State × Bool
  | [], s => (s, false)
  | k :: ks, s =>
    if s.rd (slotResult k) ≠ 0xF then validateGo ks s
    else
      let v := s.validate (s.slotByte k) 67108864
      let s := (s.showVerdict v).wr (slotResult k) v.code
      if v.code = 0 then ((s.wr .IMAGE_STATUS_Source k).wr .IMAGE_SEQ_Sequence (imgSeq (s.slotByte k)), true) else validateGo ks s

/-- The results of slots whose headers fail (R470, R471). -/
def State.headerResults (s : State) : State :=
  (List.range 2).foldl (fun (s : State) (k : Nat) =>
    if s.rd (slotResult k) = 0xF ∧ s.slotHeader k ≠ 0 then s.wr (slotResult k) (s.slotHeader k) else s) s

/-- IMAGE_VALIDATION_DONE: the slots have been read; the first VALID one is used, or the device enters HOLD (R471, R472). -/
def execImageValidationDone (s : State) : Out :=
  if !s.inStage 4 then .next s
  else
    let s := s.headerResults
    let (s, found) := validateGo s.slotOrder s
    let s := s.endStage 4
    .next (if found then s.toS5 else s.enterHold)

/-! S5 (R458, R471, R482, R483, R555) -/

/-- Alarm IMAGE_FALLBACK: the used slot is not the first candidate, or the other slot failed with a code of 2 or more (R471). -/
def State.imageFallback (s : State) : State :=
  let src := s.rd .IMAGE_STATUS_Source
  if 1 < src then s
  else
    let other := s.rd (slotResult (1 - src))
    if s.slotOrder.head? != some src || (other != 0xF && decide (2 ≤ other)) then s.raise 0x0701 src other else s

/-- Put back the remap entries that RETIRE_ROW added before the reset (R359, R482). -/
def State.restoreRetires (s : State) : State :=
  s.image.retireHost.foldl (fun (s : State) (x : Nat × Word) =>
    let ch := if x.1 < 0x501000 then 0 else 1
    let v := x.2.toNat
    let q : Retire := ⟨ch, v / 2 % 2, v / 4 % 4, v / 16 % 4, v / 256 % 2 ^ 17⟩
    if s.hasRetire q then s
    else match s.addRetire ch q.rank q.bg q.ba q.row true with
      | some (_, s) => s
      | none => s) s

/-- The sections of the image that was found, on the state before them. -/
def State.applyImage (s : State) : State :=
  let get := s.imageByte
  let xs := contentsOf get
  let host := s.rd .IMAGE_STATUS_Source == 2
  let digest := imgDigest get
  let shown := (List.range 8).flatMap fun (k : Nat) => le 4 (s.rd (.IMAGE_DIGEST_Digest k))
  let same := decide (4 ≤ s.power.lastReset) && !host && s.image.prevFlash && shown == digest
  let old := s.regs
  let s := if same then s
    else
      let s := { s with regs := imageRegs (keepPhysical s.regs (rfKeep (fun (k : RClass) => k != RClass.c) s.regs)) xs }
      let s := ((ofType xs 0x40).foldl (fun (s : State) (bs : List Byte) => (s.addRetires (retiresOf bs)).getD s) s).restoreRetires
      (List.range 8).foldl (fun (s : State) (k : Nat) => s.wr (.IMAGE_DIGEST_Digest k) (leAt digest (4 * k) 4)) s
  let s := (s.loadFrames xs).loadStores xs
  let s := s.wr .CLK_STATUS_ClkSrc (s.rd .CLK_CFG_ClkSrc)
  let s := (s.timeSwitched (rfRd old .TIME_CFG_TimeSrc)).channelsSwitched old
  { s with image := { s.image with fromHost := host, prevFlash := !host } }

/-- The reasons for which the epoch-0 configuration fails R35; masks and regions of the memory map count as RESOURCE (R353, R354). -/
def State.epoch0Fails (s : State) : List Nat :=
  let fs := s.failReasons s.regs
  if s.imageMemory || fs.contains 9 then fs else fs ++ [9]

/-- A found image fails CHECK at S5: its result and the reason show, and the other candidate is validated, or the device enters HOLD
(R471, R472). DESIGN CHOICE, unsafe: log 91. -/
def State.failImage (s : State) (reason : Nat) : State :=
  let src := s.rd .IMAGE_STATUS_Source
  let s := ((s.wr .IMAGE_STATUS_Reason reason).wr .IMAGE_STATUS_Source 3).wr .IMAGE_SEQ_Sequence 0
  let s := s.updPower fun (w : PowerSt) => { w with begun := setBit w.begun 5 false }
  if src = 2 then (s.wr .IMAGE_STATUS_ResultHost 11).enterHold
  else
    let s := s.wr (slotResult src) 11
    if s.slotOrder.any fun (k : Nat) => s.rd (slotResult k) == 0xF then s.updPower fun (w : PowerSt) => { w with stages := setBit w.stages 4 false }
    else s.enterHold

/-- SECTIONS_APPLIED: the sections are applied and the epoch-0 checks made; S6 begins when they pass (R458, R471). -/
def execSectionsApplied (s : State) : Out :=
  if !s.inStage 5 then .next s
  else
    let t := s.applyImage
    let (reason, t) := t.pickReason t.epoch0Fails
    if reason ≠ 0 then .next ({ s with freeCtr := t.freeCtr }.failImage reason)
    else
      let t := { t with image := { t.image with staged := [], stageLen := 0 } }
      .next (((t.imageFallback).endStage 5).beginS6)

/-- HOST_IMAGE_VALIDATED: validation of a staged image ends: ImageDone sets, and a VALID image continues start-up from S5 (R473, R507). -/
def execHostImageValidated (s : State) : Out :=
  if s.pwr ≠ 1 ∨ s.image.validating = false then .next s
  else
    let get := fun (i : Nat) => s.image.staged.getD i 0
    let v := s.validate get 16777216
    let s := { s with image := { s.image with validating := false } }
    let s := ((s.showVerdict v).wr .IMAGE_STATUS_ResultHost v.code).wr .ALERT_EVENT_ImageDone 1
    if v.code ≠ 0 then .next s
    else
      let s := ((s.wr .IMAGE_STATUS_Source 2).wr .IMAGE_SEQ_Sequence (imgSeq get)).wr .PWR_STATE_State 0
      .next (s.endStage 4).toS5

/-! S7 and S8 (R349, R366, R533) -/

/-- S11 begins once S8 and S9 have completed. DESIGN CHOICE, unsafe: log 94. -/
def State.toS11 (s : State) : State := if s.stageDone 8 && s.stageDone 9 then s.beginStage 11 else s

/-- A channel trained at start-up is READY; one that failed three attempts is FAILED, with Attempts reading 3 (R366). -/
def State.trained (s : State) (ch : Fin 2) (ok : Bool) : State :=
  if !s.on (.MC_CFG_Enable ch) then s.wr (.MC_STATUS_State ch) 5
  else if ok then
    (s.wr (.MC_STATUS_State ch) 2).updChan ch fun (c : ChanSt) =>
      { c with refreshAt := s.xt, mr4At := s.xt, oscAt := s.xt, ceSec := s.now / 1000000000, ceCount := 0, wcrcCount := 0 }
  else (s.wr (.MC_STATUS_Attempts ch) 3).failChannel ch 0

/-- Both channels have failed: filtered ranges and capture produce nothing (R176). -/
def State.prodLost (s : State) : State :=
  if s.modeOf = 3 ∧ (s.on (.MC_CFG_Enable 0) || s.on (.MC_CFG_Enable 1)) = true then
    (List.range 4).foldl (fun (s : State) (p : Nat) => (s.wr (.PROD_STATUS_StateLost p) 1).raise 0x0104 p 0) s
  else s

/-- TRAINING_DONE: DDR5 training ends; `ok0` and `ok1` say that the channel trained within three attempts. The memory mode follows, and the fill
begins; without DRAM there is nothing to fill (R349, R366, R371). -/
def execTrainingDone (ok0 ok1 : Bool) (s : State) : Out :=
  if !s.inStage 7 then .next s
  else
    let s := (s.trained 0 ok0).trained 1 ok1
    let s := ((s.setMemMode s.modeOf).endStage 7).beginStage 8
    .next (if s.memMode = 3 then ((s.prodLost).endStage 8).toS11 else s)

/-- DRAM_FILL_DONE: the DRAM is filled. With BIST_CFG.Dram a march ran in place of the fill; `bad0` and `bad1` give the first failing word of a
channel that failed it, which is then FAILED (R366, R533). -/
def execDramFillDone (bad0 bad1 : Option Nat) (s : State) : Out :=
  if !s.inStage 8 then .next s
  else
    let s := s.fillDram
    let fail := fun (s : State) (ch : Fin 2) (bad : Option Nat) =>
      match bad with
      | some w =>
        if s.rd (.MC_STATUS_State ch) = 2 then
          let s := if s.rd .BIST_STATUS_Failed = 0xFF then s.wr .BIST_STATUS_Failed (0x80 + ch.val) else s
          (s.raise 0x0803 (0x80 + ch.val) w).failChannel ch 0
        else s
      | none => s
    let s := if s.on .BIST_CFG_Dram then
        let s := if s.on .BIST_STATUS_Ran then s else (s.wr .BIST_STATUS_Ran 1).wr .BIST_STATUS_Failed 0xFF
        let s := fail (fail s 0 bad0) 1 bad1
        (s.setMemMode s.modeOf).prodLost
      else s
    .next ((s.endStage 8).toS11)

/-! S9 (R518, R519) -/

/-- The results of the start-up pass for one lane: a TDC table and a threshold trim, each within its limits (R518, R519). -/
def State.startupLane (s : State) (l : Nat) (widths : List Nat) (steps : Int) : State :=
  let temp := s.rdS .DIE_TEMP_Temp
  let every := s.rd .CAL_CFG_Interval
  let s := if tableOk widths then s.updLane l fun (y : LaneSt) => { y with table := widths, ready := none, count := 0, tdc := y.tdc.applied s.xt temp }
    else (s.updLane l fun (y : LaneSt) => { y with tdc := y.tdc.failed s.xt every }).calFailed 3 l
  if -128 < steps ∧ steps < 127 then
    (s.updLane l fun (y : LaneSt) => { y with thr := y.thr.applied s.xt temp }).wrS (.LANE_TRIM_ThrTrim l) steps
  else (s.updLane l fun (y : LaneSt) => { y with thr := y.thr.failed s.xt every }).calFailed 4 l

/-- STARTUP_PASS_DONE: the Roaster start-up pass completes: `res` gives the slices' trims of each port, `widths` and `steps` the tables and
trims of the enabled lanes in rising order; a pass with a supply warning in it is discarded and runs again (R458, R518, R519). -/
def execStartupPassDone (res : List (List CalResult)) (widths : List (List Nat)) (steps : List Int) (s : State) : Out :=
  if !s.inStage 9 then .next s
  else if s.supplyFlag s.power.s9From s.xt != 0 then .next (s.updPower fun (w : PowerSt) => { w with s9From := s.xt })
  else
    let s := (List.finRange 4).foldl (fun (s : State) (p : Fin 4) => s.startupCal p (res.getD p.val [])) s
    let s := s.enabledLanes.zipIdx.foldl (fun (s : State) (x : Nat × Nat) => s.startupLane x.1 (widths.getD x.2 []) (steps.getD x.2 0)) s
    let s := s.endStage 9
    .next (if s.leavingSuspend then s else s.toS11)

/-! Release (R31, R380, R459, R560) -/

/-- The rings at epoch 0: 8, 11 and 12 and those with AutoStart are RUNNING (R380). -/
def State.ringsAtRelease (s : State) : State :=
  (List.range 16).foldl (fun (s : State) (r : Nat) =>
    if r = 8 ∨ r = 11 ∨ r = 12 ∨ s.on (.RING_CFG_AutoStart r) = true then s.wr (.RING_STATE_State r) 1 else s) s

/-- Offer the occurrences held since start-up, each in the window of its own Time; a window that closed before release gives its summaries
now (R560). -/
def offerHeld : List Occ → State → State
  | [], s => s
  | o :: os, s =>
    let w := o.time / 1000000000
    let s := if w = s.alarm.window then s else { s.closeWindow with alarm := { s.closeWindow.alarm with window := w, windowAt := s.xtBack (w * 1000000000) } }
    offerHeld os (s.present o)

/-- The Crema streams of the rings that run from release begin their first generation (R406). -/
def State.streamsAtRelease (s : State) : State :=
  (List.finRange 16).foldl (fun (s : State) (r : Fin 16) =>
    if s.on (.RING_CFG_Crema r) && s.rd (.RING_STATE_State r) == 1 then s.newGeneration r else s) s

/-- Cores with Run = 1 start (R333, R336, R479). -/
def State.startRunCores (s : State) : State :=
  (List.finRange 16).foldl (fun (s : State) (n : Fin 16) => if s.on (.CORE_CTRL_Run n) then s.startCore n else s) s

/-- RELEASE: S11 has completed: every consumer is released at once, and this instant is T_c of epoch 0 (R459, R490, R560). -/
def execRelease (s : State) : Out :=
  if s.power.released || !s.stageDone 11 || !s.locked 1 then .next s
  else
    let at_ := s.xt
    let initial := rfKeep (fun (k : RClass) => k != RClass.c) s.regs
    let s := s.updPower fun (w : PowerSt) => { w with released := true }
    let s := ((s.wr .PWR_STATE_State 2).wr .PWR_STATE_Transit 0).wr .ALERT_EVENT_StateEntered 1
    let s := (s.ringsAtRelease).streamsAtRelease
    let held := s.alarm.held
    let first := match held with | o :: _ => o.time / 1000000000 | [] => s.now / 1000000000
    let s := { s with alarm := { s.alarm with held := [], window := first, windowAt := s.xtBack (first * 1000000000) } }
    let s := offerHeld held s
    let s := if s.alarm.window = s.now / 1000000000 then s else s.closeWindow
    let s := s.raise 0x0702 (s.rd .RESET_CAUSE_Last) (if s.rd .RESET_CAUSE_Last = 7 then s.rd .RESET_CAUSE_Rail else 0)
    let s := s.raise 0x0705 0 2
    let s := ((s.runPorts at_).startRunCores).lidarSwitched initial
    let s := s.beginEpoch 0 s.now 0 []
    let s := (s.auxStart).wdogRestart
    let s := s.beginBlanking s.xu
    .next ((s.showLoads).pumpAll)

/-! Exit from SUSPEND (R336, R477, R479) -/

/-- The store codes of SUSPEND_RELOAD: 1 frame memory, 2 instruction memories, 3 tables (R490). -/
def storeCode (id : Nat) : Nat := if id = 26 then 1 else if id = 8 then 3 else 2

/-- Restore every store from the save area; answers the codes of the stores that held a POISONED word. -/
def State.restoreStores (s : State) : State × List Nat :=
  let (s, _, bad) := saveStores.foldl (fun (x : State × Nat × List Nat) (t : Nat × Nat × Nat) =>
    let (s, b) := restoreGo t.1 t.2.1 x.2.1 (t.2.2 / 8) (x.1, false)
    (s, x.2.1 + t.2.2, if b && !x.2.2.contains (storeCode t.1) then x.2.2 ++ [storeCode t.1] else x.2.2)) (s, s.saveBase, [])
  (s, bad)

/-- The flash holds the running image: the slot that validates first has its digest (R479). -/
def State.sameFlash (s : State) : Option Nat :=
  match s.firstValid with
  | none => none
  | some k =>
    let shown := (List.range 8).flatMap fun (i : Nat) => le 4 (s.rd (.IMAGE_DIGEST_Digest i))
    if imgDigest (s.slotByte k) = shown then some k else none

/-- Reload a store from the flash image (R336, R479). -/
def State.reloadStore (s : State) (slot code : Nat) : State :=
  let xs := contentsOf (s.slotByte slot)
  let s := match code with
    | 1 => (s.fillSram 26).loadFrames xs
    | 2 =>
      let s := (List.range 16).foldl (fun (s : State) (n : Nat) => s.sramWrite 0x32 (9 + n) 458752 (zeros 65536)) s
      (s.loadStores (xs.filter fun (x : Nat × List Byte) => decide (0x10 ≤ x.1 ∧ x.1 < 0x20))).raise 0x0302 0 0
    | _ =>
      let s := (s.sramWrite 0x32 8 5242880 (zeros 3145728))
      s.loadStores (xs.filter fun (x : Nat × List Byte) => x.1 == 0x30)
  s.raise 0x0708 code 0

/-- SUSPEND_EXIT_DONE: S9 has completed and DRAM is ready: the stores are restored, and WakeTo is entered; a store with a POISONED word, and
every store where the DRAM copy is unavailable, is reloaded from an unchanged flash image, else the device resets (R336, R371, R477, R479). -/
def execSuspendExitDone (s : State) : Out :=
  match s.power.trans with
  | some (5, dest) =>
    if !s.stageDone 9 || !s.dramReady || !s.locked 1 then .next s
    else
      let held := s.memMode != 3 && s.modeOf == s.memMode && s.power.saved == some s.mem.lost
      let (t, bad) := if held then s.restoreStores else (s, [2, 1, 3])
      let ready : Option State :=
        if bad.isEmpty then some t
        else match s.sameFlash with
          | some k => some (bad.foldl (fun (s : State) (c : Nat) => s.reloadStore k c) t)
          | none => none
      match ready with
      | none => .next (s.resetBy 9 0)
      | some s =>
        let s := (s.shiftAges (s.xt - s.power.quietFrom)).updPower fun (w : PowerSt) => { w with leftAt := s.xt }
        let s := (s.startRunCores).enterState dest
        if dest ≠ 3 then .next s
        else
          let s := s.beginWatch
          let s := ((((s.dramRest).stopLoop 0).stopLoop 1).stopLoop 2).stopLoop 3
          let s := if s.rd .SENT_CFG_LinkKeep = 0 then s.stopLoop 4 else s
          .next ((s.stopLoop 5).portsOff)
  | _ => .next s

/-! Memory mode (R170, R176, R370, R371, R378) -/

/-- Every ring body empties, its records counted lost (R370, R384). -/
def State.emptyBodies (s : State) : State :=
  (List.finRange 16).foldl (fun (s : State) (r : Fin 16) =>
    let n := (s.rings.get r).body.length
    (s.lose r n).updRing r fun (g : RingSt) => { g with body := [] }) s

/-- A change of memory mode begins a generation on every compressed ring, after the block in progress has closed in the old one (R406). -/
def State.newGenerations (s : State) : State :=
  (List.finRange 16).foldl (fun (s : State) (r : Fin 16) => if s.on (.RING_CFG_Crema r) then (s.closeBlock r).newGeneration r else s) s

/-- MEMORY_MODE_SWITCH: the device completes its switch to the memory mode that its channels' states give (R370, R371). A capture under way ends as by
ABORT, with End = 2. DESIGN CHOICE, unsafe: log 46. -/
def execMemoryModeSwitch (s : State) : Out :=
  let mode := s.modeOf
  if !s.power.released || s.memMode = mode then .next s
  else
    let s := s.emptyBodies.newGenerations
    let s := s.setMemMode mode
    let s := { s with mem := { s.mem with lost := s.freeCtr + 1, words := spDrop isDram s.mem.words }, freeCtr := s.freeCtr + 1 }
    let s := (List.finRange 4).foldl (fun (s : State) (p : Fin 4) =>
      let s := (s.capEnd p).updEv p fun (e : EvCapSt) => { e with history := [], head := 0 }
      s.restartRanges p s.now false) s
    .next ((s.prodLost).pumpAll)

end Sys2Proof.Machine
end

