-- ==== Sys2Proof/Machine/Access.lean ====
section
/-! DEFINITION. Host access to registers: what a read returns, what a write does, which access waits (R13 – R19, R46, R237, R335, R457,
R503, R506, R510 – R513, R554). -/
namespace Sys2Proof.Machine

/-! Addresses -/

/-- The frame-memory window (R243). -/
def inWindow (a : Nat) : Bool := decide (0x330000 ≤ a) && decide (a < 0x340000)
/-- The host buffer (R506). -/
def inBuffer (a : Nat) : Bool := decide (0x1000 ≤ a) && decide (a < 0x2000)
/-- The snapshot mirror (R513). -/
def inMirror (a : Nat) : Bool := decide (0x8000000 ≤ a) && decide (a < 0x8800000)
/-- MEM_DATA of a core. -/
def isMemData (a : Nat) : Bool := decide (0x400000 ≤ a) && decide (a < 0x500000) && a % 0x10000 == 0x1C
/-- The half of a 64-bit quantity that a register is. -/
def halfOf (a : Nat) : Half := match findReg a with | some (d, _) => d.half | none => .whole
/-- RSH registers and the mirror: what they read is the snapshot (R46, R513). -/
def isRsh (a : Nat) : Bool := inMirror a || (decide (a < 0x800000) && rshMask a != 0)

/-- The status of a read's address: 0 when something is there (R502, R513). -/
def readStatus (a : Nat) : Nat :=
  if a % 4 ≠ 0 then stAddress
  else if inBuffer a || inWindow a then stOk
  else if inMirror a then (if mirrorMask (a - 0x8000000) != 0 then stOk else stAddress)
  else if a < 0x800000 ∧ (findReg a).isSome then stOk
  else stAddress

/-- The status of a write's address: no mirror (R513), and no class C field in HOLD (R501). Frame memory is class C (R243).
DESIGN CHOICE, unsafe: log 29. -/
def State.writeStatus (s : State) (a : Nat) : Nat :=
  if a % 4 ≠ 0 then stAddress
  else if inBuffer a then stOk
  else if inWindow a then (if s.pwr = 1 then stState else stOk)
  else if a < 0x800000 ∧ (findReg a).isSome then (if s.pwr = 1 ∧ cMask a ≠ 0 then stState else stOk)
  else stAddress

/-! Which access waits (R345, R503, R554) -/

/-- The loops that a region depends on (R554). -/
def State.regionLoops (s : State) (a : Nat) : List (Fin 6) :=
  if 0x100000 ≤ a ∧ a < 0x140000 then
    (if 0x200 ≤ a % 0x10000 ∧ a % 0x10000 < 0x400 then [1, if s.on .CLK_CFG_ClkSrc then 5 else 0] else [1])
  else if 0x300000 ≤ a ∧ a < 0x350000 then [3]
  else if 0x400000 ≤ a ∧ a < 0x500000 then [1]
  else if 0x500000 ≤ a ∧ a < 0x502000 then [2]
  else if 0x502000 ≤ a ∧ a < 0x504000 then [1]
  else if 0x600000 ≤ a ∧ a < 0x620000 then [1]
  else if 0x620000 ≤ a ∧ a < 0x630000 then [4]
  else if 0x700000 ≤ a ∧ a < 0x720000 then [1]
  else if 0x720000 ≤ a ∧ a < 0x730000 then (if 0x720200 ≤ a ∧ a < 0x720220 then [1, 4] else [1])
  else []

/-- The fields of a register that its block serves: an access to one depends on the region's loops (R554). -/
def servedMask (a : Nat) : Word :=
  maskOf (fun (f : FieldDef) (_ : Nat) => f.acc == .wo || f.acc == .w1c || (f.acc != .rsh && f.cls != .c && f.cls != .p)) a

/-- An access depends on a loop whose output is gated: its block has run since reset, and a loop of its region has no output. Never in HOLD
(R503, R554). -/
def State.loopHeld (s : State) (a : Nat) : Bool :=
  let ls := s.regionLoops a
  s.pwr != 1 && !inMirror a && (inWindow a || servedMask a != 0) && (ls.any fun (k : Fin 6) => !s.loopLocked k) &&
    ls.all fun (k : Fin 6) => (s.loops.get k).ran

/-- An access to a core's data memory waits until the RPT body that runs ends (R298). -/
def State.bodyHeld (s : State) (a : Nat) : Bool :=
  let n := fin 15 ((a - 0x400000) / 0x10000)
  isMemData a && s.inRpt n && !s.on (.MEM_ADDR_Space n)

/-- An access to MEM_ADDR or MEM_DATA of a core comes behind one that waits (R335, R503). -/
def State.memBehind (s : State) (a : Nat) : Bool :=
  let mem := fun (x : Nat) => isMemData x || isMemData (x + 4)
  mem a && s.host.gateWait.any fun (q : Req × Nat) => mem q.1.addr.toNat && q.1.addr.toNat / 0x10000 == a / 0x10000

/-- A COMMIT that has not been checked yet waits for writes accepted before it (R503). -/
def State.commitsWaiting (s : State) : List (Fin 9 × Outst) :=
  byAcceptance ((s.outOf 4).filter fun (x : Fin 9 × Outst) => !s.answered x.1 x.2.tag)

/-- An access waits: for a gated loop (R554), behind another (R335, R503), for an RPT body (R298), a read for the fill of an SRAM (R345), and a
write of class C fields for a COMMIT accepted before it (R503). -/
def State.gated (s : State) (a : Nat) (write : Bool) : Bool :=
  s.bodyHeld a || s.memBehind a || s.loopHeld a ||
    if write then cMask a != 0 && !s.commitsWaiting.isEmpty else (inWindow a || isMemData a) && !s.stageDone 3

/-- A read waits for the snapshot's copy (R46). -/
def State.readHeld (s : State) (a : Nat) : Bool := isRsh a && s.host.snapRun.isSome

/-! What a register reads as -/

/-- REPEAT_HI.Age: whole hours since the first correction (R357). -/
def State.repeatAge (s : State) (b i : Nat) : Nat :=
  if s.on (.REPEAT_HI_Valid b i) then min 31 ((s.xt - (s.mem.firsts.get (fin 2 b)).get (fin 31 i)) / 3600000000000) else 0

/-- The present word of a register: those that follow other state are computed, all others stand in the register file. -/
def State.viewWord (s : State) (a : Nat) : Word :=
  let w := rfWord s.regs a
  if a = 0x10 then BitVec.ofNat 32 Config.dieId
  else if a = 0x14 then BitVec.ofNat 32 (Config.dieId / 2 ^ 32)
  else if a = 0x30 then Fld.HOST_STATUS_Outstanding.put (Fld.HOST_STATUS_Queued.put w s.host.respQ.length) (s.host.paths.get 8).out.length
  else if a = 0x10100 then BitVec.ofNat 32 s.now
  else if a = 0x10104 then BitVec.ofNat 32 (s.now / 2 ^ 32)
  else if a = 0x10108 then BitVec.ofNat 32 s.nowFrac
  else if a = 0x10124 then BitVec.ofInt 32 s.freqCorr
  else if a = 0x10128 then BitVec.ofInt 32 (asr s.freqCorr 32)
  else if a = 0x20010 then BitVec.ofNat 32 (satN 32 (s.xtal.aonNow / 1000000000))
  else if 0x300000 ≤ a ∧ a < 0x3010A0 ∧ a % 16 = 8 then (Fld.LANE_TRIM_Blind 0).put w (bnat (s.laneBlind ((a - 0x300000) / 16)))
  else if 0x500200 ≤ a ∧ a < 0x503000 ∧ a % 0x1000 / 0x100 = 2 ∧ a % 8 = 4 then
    (Fld.REPEAT_HI_Age 0 0).put w (s.repeatAge ((a - 0x500000) / 0x1000) (a % 0x100 / 8))
  else if 0x600000 ≤ a ∧ a < 0x600400 ∧ a % 64 = 16 then (Fld.RING_STATE_Fill 0).put w (s.fill (fin 15 ((a - 0x600000) / 64)))
  else w

/-- The registers that viewWord computes. -/
def viewAddrs : List Nat :=
  [0x10, 0x14, 0x30, 0x10100, 0x10104, 0x10108, 0x10124, 0x10128, 0x20010] ++ ((List.range 266).map fun (l : Nat) => 0x300008 + 16 * l) ++
    ((List.range 96).map fun (k : Nat) => 0x500204 + 0x1000 * (k / 32) + 8 * (k % 32)) ++ (List.range 16).map fun (r : Nat) => 0x600010 + 64 * r

/-- The retention log as ALARM_HIST shows it (R401): the newest entry at Head, older ones below it. -/
def AlarmSt.hist (a : AlarmSt) : List (Nat × Word) :=
  (0x700040, BitVec.ofNat 32 (a.logHead + 65536 * a.logCount)) ::
    (List.range a.log.length).flatMap fun (k : Nat) =>
      match a.log[k]? with
      | none => []
      | some o =>
        let b := 0x701000 + 0x20 * ((a.logHead + 64 - k) % 64)
        [(b, BitVec.ofNat 32 (o.code + 65536 * o.sev + 2 ^ 31)), (b + 4, BitVec.ofNat 32 o.a0), (b + 8, BitVec.ofNat 32 o.a1),
         (b + 16, BitVec.ofNat 32 o.time), (b + 20, BitVec.ofNat 32 (o.time / 2 ^ 32))]

/-- The snapshot that SNAPSHOT takes now (R46). -/
def State.takeSnap (s : State) : Snap :=
  { time := s.now, words := viewAddrs.foldl (fun (r : RegFile) (a : Nat) => rfSet r a (s.viewWord a)) s.regs, hist := s.alarm.hist }

/-- What an RSH register or a mirror word reads as; before the first snapshot, its reset value (R15, R401, R513). -/
def State.rshWord (s : State) (a : Nat) : Word :=
  if inMirror a then
    let b := a - 0x8000000
    (match s.host.snap with
      | some x => rfWord x.words b
      | none => if b = 0x10 ∨ b = 0x14 then s.viewWord b else rfWord s.host.fuses b) &&& mirrorMask b
  else match s.host.snap with
    | none => resetWord a &&& rshMask a
    | some x => match x.hist.find? fun (h : Nat × Word) => h.1 == a with
      | some h => h.2
      | none => resetWord a &&& rshMask a

/-! Core memory through MEM_ADDR and MEM_DATA (R335) -/

/-- The byte of a core's SRAM that MEM_ADDR selects; none outside the two memories. -/
def State.memByte (s : State) (n : Nat) : Option Nat :=
  let a := s.rd (.MEM_ADDR_Addr n) / 4 * 4
  if s.on (.MEM_ADDR_Space n) then (if a < 65536 then some (458752 + a) else none)
  else if a < 458752 then some a else none

/-- MEM_ADDR advances by 4. -/
def State.memNext (s : State) (n : Nat) : State := s.wr (.MEM_ADDR_Addr n) (s.rd (.MEM_ADDR_Addr n) / 4 * 4 + 4)

/-- A read of MEM_DATA: the word, and whether it reads uncorrectable. DESIGN CHOICE, unsafe: log 30. -/
def State.memRead (s : State) (n : Fin 16) : Word × Bool × State :=
  match s.memByte n with
  | none => (0, false, s.memNext n)
  | some b =>
    let ((bs, bad), s) := s.sramLoad 0x30 (coreSram n) b 4
    (BitVec.ofNat 32 (leNat bs), bad, s.memNext n)

/-- A write of MEM_DATA; none where it is refused: instruction memory of a core that runs (R334, R335). An instruction word takes effect
when its high half is written, with the low half written before it. -/
def State.memWrite (s : State) (n : Fin 16) (v : Word) : Option State :=
  let st := s.coreState n
  match s.memByte n with
  | none => some (s.memNext n)
  | some b =>
    if b < 458752 then some ((s.sramWrite 0x30 (coreSram n) b (le 4 v.toNat)).memNext n)
    else if st ≠ 0 ∧ st ≠ 3 ∧ st ≠ 4 then none
    else if b % 8 = 0 then some ((s.updCore n fun (c : CoreSt) => { c with low := v }).memNext n)
    else
      let s := (s.sramWrite 0x30 (coreSram n) (b - 4) (le 4 (s.core n).low.toNat ++ le 4 v.toNat)).memNext n
      some { s with epoch := { s.epoch with stores := if s.epoch.stores.contains n.val then s.epoch.stores else s.epoch.stores ++ [n.val] } }

/-! Reading -/

/-- The result registers of a regression channel that a read of REG_STATUS latches: channel and place among them (R237). -/
def regResult (a : Nat) : Option (Nat × Nat) :=
  if 0x308000 ≤ a ∧ a < 0x308400 ∧ 0x10 ≤ a % 0x40 ∧ a % 0x40 ≤ 0x24 then some ((a - 0x308000) / 0x40, (a % 0x40 - 0x10) / 4) else none

/-- A read of REG_STATUS latches the channel's results for the path (R237). -/
def State.latchResults (s : State) (p : Fin 9) (a : Nat) : State :=
  if 0x308000 ≤ a ∧ a < 0x308400 ∧ a % 0x40 = 0xC then
    let c := (a - 0x308000) / 0x40
    let ws := (List.range 6).map fun (k : Nat) => s.viewWord (a + 4 + 4 * k)
    s.updPath p fun (q : PathSt) => { q with regLatch := (c, ws) :: q.regLatch.filter fun (x : Nat × List Word) => x.1 != c }
  else s

/-- The latched word of a result register, if the path has read REG_STATUS of its channel. -/
def State.latched (s : State) (p : Fin 9) (a : Nat) : Option Word :=
  match regResult a with
  | none => none
  | some (c, k) =>
    match (s.host.paths.get p).regLatch.find? fun (x : Nat × List Word) => x.1 == c with
    | none => none
    | some x => x.2[k]?

/-- A register read under the 64-bit rule (R457, R510): word, TORN_RISK, and the state with the path's shadows.
DESIGN CHOICE, unsafe: log 32. -/
def State.readReg (s : State) (p : Fin 9) (a : Nat) : Word × Nat × State :=
  let w := s.viewWord a &&& readMask a
  let q := s.host.paths.get p
  match halfOf a with
  | .low =>
    (w, 0, s.updPath p fun (q : PathSt) =>
      { q with rdShadow := some (a + 4, s.viewWord (a + 4) &&& readMask (a + 4)),
               fracShadow := if a = 0x10100 then some (s.viewWord 0x10108) else none })
  | .high =>
    match q.rdShadow with
    | some (b, v) => if b = a then (v, 0, s.updPath p fun (q : PathSt) => { q with rdShadow := none }) else (w, 1, s)
    | none => (w, 1, s)
  | .whole =>
    if a = 0x10108 then
      match q.fracShadow with
      | some v => (v, 0, s.updPath p fun (q : PathSt) => { q with fracShadow := none })
      | none => (w, 1, s)
    else (w, 0, s.latchResults p a)

/-- PEEK_DATA of a port whose copied state held an uncorrectable error (R147). -/
def State.peekPoison (s : State) (a : Nat) : Bool :=
  decide (0x100000 ≤ a) && decide (a < 0x140000) && decide (0x444 ≤ a % 0x10000) && decide (a % 0x10000 < 0x460) &&
    (s.chainOf (fin 3 ((a - 0x100000) / 0x10000))).peekBad

/-- What a read returns: data, XFlags, and the state after it (R495, R510, R512). -/
def State.readNow (s : State) (p : Fin 9) (a : Nat) : Word × Nat × State :=
  if inBuffer a then (spGet (fun _ => 0) (s.host.paths.get p).buf ((a - 0x1000) / 4), 0, s)
  else if inWindow a then
    let (w, bad) := s.windowRead (a - 0x330000)
    (w, 2 * bnat bad, (s.sramLoad 0x30 26 (s.windowByte (a - 0x330000) (s.on .EMT_BANK_ReadActive)) 4).2)
  else if isRsh a then (s.rshWord a, 0, s)
  else if isMemData a then
    let (w, bad, s) := s.memRead (fin 15 ((a - 0x400000) / 0x10000))
    (w, 2 * bnat bad, s)
  else match s.latched p a with
    | some w => (w, 0, s)
    | none =>
      let (w, x, s) := s.readReg p a
      (w, x + 2 * bnat (s.peekPoison a), s)

/-- A read completes with its value. -/
def State.finishRead (s : State) (p : Fin 9) (tag : Byte) (addr : Word) : State :=
  let (w, x, s) := s.readNow p addr.toNat
  s.answer p (mkResp 1 tag addr stOk w.toNat 0 x) true

/-! Writing -/

/-- Stage a class C word in the pending bank (R19, R41). -/
def State.stage (s : State) (a : Nat) (v : Word) : State :=
  { s with epoch := { s.epoch with pend := spIns a (v &&& cMask a) s.epoch.pend } }.wr .EPOCH_STATUS_Pending 1

/-- The RW and W1C fields of a register take a written word; class C fields go to the pending bank (R13, R19). -/
def State.putWord (s : State) (a : Nat) (v : Word) : State :=
  let s := if cMask a != 0 then s.stage a v else s
  let w := rfWord s.regs a
  { s with regs := rfSet s.regs a (overlayWord (vMask a) (w &&& ~~~(w1cMask a &&& v)) v) }

/-- EPOCH_CTRL.Discard: the pending bank is emptied (R42). -/
def State.discardPending (s : State) : State := { s with epoch := { s.epoch with pend := [] } }.wr .EPOCH_STATUS_Pending 0

/-- A write of EPOCH_CTRL: Cancel, then Discard (R42). -/
def State.epochCtrl (s : State) (v : Nat) : State :=
  let s := if bit v 1 then s.cancelCommit else s
  if bit v 0 then s.discardPending else s

/-- What a write of a fibre port's register starts (R109, R115, R117, R147, R171, R184). -/
def State.portWrite (s : State) (p : Fin 4) (off v : Nat) (samples : List Sample) : State :=
  if off = 0x210 then s.feClear p v
  else if off = 0x300 then
    let s := if bit v 1 then s.capStop p samples else s
    if bit v 0 then s.capArm p else s
  else if off = 0x440 then s.peekPos p
  else if off = 0x620 then s.capWrite p v
  else if off = 0xE30 then s.updRam p fun (g : RamSt) => { g with refAt := some s.xt }
  else s

/-- What a write starts beyond setting fields, by register. -/
def State.writeEffect (s : State) (a v : Nat) (samples : List Sample) : State :=
  if a = 0x110 then s.epochCtrl v
  else if a = 0x1013C then
    (if bit v 0 then s.updTime fun (t : TimeSt) => { t with armed := some (rfRd64 s.regs 0x10134, s.xt) } else s)
  else if a = 0x20014 then (if v % 65536 = 0xA5C3 then s.updPower fun (w : PowerSt) => { w with softKey := true } else s)
  else if a = 0x20088 then (if v % 65536 = 0x5A5A ∧ s.on .SYS_WDOG_HostKick then s.wdogRestart else s)
  else if 0x100000 ≤ a ∧ a < 0x140000 then s.portWrite (fin 3 ((a - 0x100000) / 0x10000)) (a % 0x10000) v samples
  else if a = 0x304004 then (if bit v 0 then s.clearLanes else s)
  else if a = 0x320020 then (if bit v 0 then s.swapBank else s)
  else if a = 0x342014 then (if bit v 0 then s.clearPoints else s)
  else if 0x400000 ≤ a ∧ a < 0x500000 ∧ a % 0x10000 = 0x10 then
    let n := (a - 0x400000) / 0x10000
    (s.wr (.MBOX_IN_Mail n) v).setSource n 10
  else if a = 0x500030 ∨ a = 0x501030 ∨ a = 0x502030 then s.mcCtrl (fin 2 ((a - 0x500000) / 0x1000)) v
  else if a = 0x710004 then s.calCmd v
  else s

/-- A written word acts whole: its fields are set, and its effects follow. -/
def State.writeWord (s : State) (a : Nat) (v : Word) (samples : List Sample) : State := (s.putWord a v).writeEffect a v.toNat samples

/-- A write under the 64-bit rule (R511): XFlags, and the state after it. A low half is held until its high half is written. -/
def State.writeReg (s : State) (p : Fin 9) (a : Nat) (v : Word) (samples : List Sample) : Nat × State :=
  let rw := (cMask a ||| vMask a) != 0
  match halfOf a, rw with
  | .low, true => (0, s.updPath p fun (q : PathSt) => { q with wrShadow := some (a, v) })
  | .high, true =>
    match (s.host.paths.get p).wrShadow with
    | some (b, lo) =>
      if b + 4 = a then
        let s := s.updPath p fun (q : PathSt) => { q with wrShadow := none }
        (0, (s.writeWord b lo samples).writeWord a v samples)
      else (1, s.writeWord a v samples)
    | none => (1, s.writeWord a v samples)
  | _, _ => (0, s.writeWord a v samples)

/-- A write completes (R19, R243, R335, R502, R506). -/
def State.finishWrite (s : State) (p : Fin 9) (tag : Byte) (addr v : Word) (samples : List Sample) : State :=
  let a := addr.toNat
  let end_ := fun (s : State) (status x : Nat) => s.answer p (mkResp 2 tag addr status 0 0 x) true
  if inBuffer a then end_ (s.updPath p fun (q : PathSt) => { q with buf := spSet (fun _ => 0) q.buf ((a - 0x1000) / 4) v }) stOk 0
  else if inWindow a then
    match s.windowWrite (a - 0x330000) v with
    | some s => end_ s stOk 0
    | none => end_ s stRefused 0
  else if isMemData a then
    match s.memWrite (fin 15 ((a - 0x400000) / 0x10000)) v with
    | some s => end_ s stOk 0
    | none => end_ s stRefused 0
  else
    let (x, s) := s.writeReg p a v samples
    end_ s stOk x

/-! The commands READ and WRITE (R501, R503) -/

/-- A READ on a path: its checks, its waits, its completion. -/
def State.hostRead (s : State) (p : Fin 9) (tag : Byte) (addr : Word) : State :=
  let (s, ok) := s.accept p 1 tag addr 0
  let a := addr.toNat
  let q : Req := ⟨p, 1, tag, addr, 0, none⟩
  if !ok then s
  else if readStatus a ≠ 0 then s.done p 1 tag addr (readStatus a) 0 0
  else if s.readHeld a then { s with host := { s.host with rshWait := s.host.rshWait ++ [q] } }
  else if s.gated a false then { s with host := { s.host with gateWait := s.host.gateWait ++ [(q, s.xt)] } }
  else s.finishRead p tag addr

/-- A WRITE on a path. `samples` are those a capture that the write stops still takes. -/
def State.hostWriteWith (s : State) (p : Fin 9) (tag : Byte) (addr v : Word) (samples : List Sample) : State :=
  let (s, ok) := s.accept p 2 tag addr v
  let a := addr.toNat
  if !ok then s
  else if s.writeStatus a ≠ 0 then s.done p 2 tag addr (s.writeStatus a) 0 0
  else if s.gated a true then { s with host := { s.host with gateWait := s.host.gateWait ++ [(⟨p, 2, tag, addr, v, none⟩, s.xt)] } }
  else s.finishWrite p tag addr v samples

/-- A WRITE on a path. -/
def State.hostWrite (s : State) (p : Fin 9) (tag : Byte) (addr v : Word) : State := s.hostWriteWith p tag addr v []

/-- Complete the waiting reads whose wait has ended (R46). -/
def serveReads : List Req → State → State
  | [], s => s
  | q :: qs, s =>
    if s.readHeld q.addr.toNat then serveReads qs { s with host := { s.host with rshWait := s.host.rshWait ++ [q] } }
    else serveReads qs (s.finishRead (fin 8 q.path) q.tag q.addr)

/-- Complete the accesses whose wait has ended, in the order of acceptance (R298, R335, R345, R503, R554). -/
def serveGated : List (Req × Nat) → State → State
  | [], s => s
  | (q, t) :: qs, s =>
    if s.gated q.addr.toNat (q.code == 2) then serveGated qs { s with host := { s.host with gateWait := s.host.gateWait ++ [(q, t)] } }
    else if q.code = 2 then serveGated qs (s.finishWrite (fin 8 q.path) q.tag q.addr q.data [])
    else serveGated qs (s.finishRead (fin 8 q.path) q.tag q.addr)

/-- Complete every waiting access that can complete now. DESIGN CHOICE, unsafe: log 37. -/
def State.serveWaiting (s : State) : State :=
  let s := serveReads s.host.rshWait { s with host := { s.host with rshWait := [] } }
  serveGated s.host.gateWait { s with host := { s.host with gateWait := [] } }

/-- READ (R501, R503). -/
def execRead (path : Fin 9) (tag : Byte) (addr : Word) (s : State) : Out := .next (s.hostRead path tag addr)
/-- WRITE (R19, R501, R503). -/
def execWrite (path : Fin 9) (tag : Byte) (addr data : Word) (s : State) : Out := .next (s.hostWrite path tag addr data)
/-- LOW_HALF_READ: a READ of a low half fills the path's read shadow (R510). -/
def execLowHalfRead (path : Fin 9) (tag : Byte) (addr : Word) (s : State) : Out :=
  .next (if halfOf addr.toNat = .low then s.hostRead path tag addr else s)
/-- HIGH_HALF_READ: a READ of a high half returns and empties a matching shadow, or the live value with TORN_RISK (R510). -/
def execHighHalfRead (path : Fin 9) (tag : Byte) (addr : Word) (s : State) : Out :=
  .next (if halfOf addr.toNat = .high then s.hostRead path tag addr else s)
/-- LOW_HALF_WRITE: a WRITE of a low half is held in the path's write shadow (R511). -/
def execLowHalfWrite (path : Fin 9) (tag : Byte) (addr data : Word) (s : State) : Out :=
  .next (if halfOf addr.toNat = .low then s.hostWrite path tag addr data else s)
/-- HIGH_HALF_WRITE: a WRITE of a high half applies both halves, or the high half alone with TORN_RISK (R511). -/
def execHighHalfWrite (path : Fin 9) (tag : Byte) (addr data : Word) (s : State) : Out :=
  .next (if halfOf addr.toNat = .high then s.hostWrite path tag addr data else s)
/-- REG_STATUS_READ: a READ of a channel's REG_STATUS latches its result registers for the path (R237). -/
def execRegStatusRead (path : Fin 9) (tag : Byte) (addr : Word) (s : State) : Out :=
  .next (if 0x308000 ≤ addr.toNat ∧ addr.toNat < 0x308400 ∧ addr.toNat % 0x40 = 0xC then s.hostRead path tag addr else s)

/-- GATED_ACCESS_TIMEOUT: an access that has waited 1 ms for a gated loop completes with Status BUSY (R503). -/
def execGatedAccessTimeout (s : State) : Out :=
  let late := fun (x : Req × Nat) => s.loopHeld x.1.addr.toNat && s.due (x.2 + 1000000)
  let out := s.host.gateWait.filter late
  let s := { s with host := { s.host with gateWait := s.host.gateWait.filter fun (x : Req × Nat) => !late x } }
  .next (out.foldl (fun (s : State) (x : Req × Nat) => s.done (fin 8 x.1.path) x.1.code x.1.tag x.1.addr stBusy 0 0) s)

/-! SNAPSHOT (R46) -/

/-- SNAPSHOT: every RSH field is captured at the instant of acceptance; a new snapshot replaces one whose copy runs (R46).
DESIGN CHOICE, unsafe: log 33. -/
def execSnapshot (path : Fin 9) (tag : Byte) (s : State) : Out :=
  let (s, ok) := s.accept path 3 tag 0 0
  if !ok then .next s
  else .next { s with host := { s.host with snapRun := some s.takeSnap, snapBy := s.host.snapBy ++ [(path.val, tag)] } }

/-- SNAPSHOT_COPY_DONE: the copy completes: its registers show it, SnapshotDone sets, the commands and the waiting reads are answered
(R46). -/
def execSnapshotCopyDone (s : State) : Out :=
  match s.host.snapRun with
  | none => .next s
  | some x =>
    let by_ := s.host.snapBy
    let s := { s with host := { s.host with snap := some x, snapRun := none, snapBy := [] } }
    let e := rfRd x.words .EPOCH_STATUS_Epoch
    let s := ((s.wr64 .SNAP_TIME_LO_SnapTime x.time).wr .SNAP_STATUS_SnapEpoch e).wr .SNAP_STATUS_Valid 1
    let s := (s.wr .SNAP_STATUS_SnapApplying (rfRd x.words .EPOCH_STATUS_Applying)).wr .ALERT_EVENT_SnapshotDone 1
    .next (by_.foldl (fun (s : State) (b : Nat × Byte) => s.done (fin 8 b.1) 3 b.2 0 stOk e 0) s).serveWaiting

/-! Writes with a row of their own: each is a WRITE of its register, all fields of the word acting -/

/-- DISCARD: EPOCH_CTRL.Discard, with Cancel where `both` (R42). -/
def execDiscard (path : Fin 9) (tag : Byte) (both : Bool) (s : State) : Out :=
  .next (s.hostWrite path tag 0x110 (BitVec.ofNat 32 (1 + 2 * bnat both)))
/-- CANCEL: EPOCH_CTRL.Cancel (R42). -/
def execCancel (path : Fin 9) (tag : Byte) (s : State) : Out := .next (s.hostWrite path tag 0x110 2)
/-- HOST_SOFT_RESET: 0xA5C3 to RESET_CTRL.Key (R481). DESIGN CHOICE, unsafe: log 40. -/
def execHostSoftReset (path : Fin 9) (tag : Byte) (s : State) : Out := .next (s.hostWrite path tag 0x20014 0xA5C3)
/-- SYS_WDOG_KICK: a write of SYS_WDOG_KICK; only 0x5A5A with HostKick = 1 restarts the watchdog (R484). -/
def execSysWdogKick (path : Fin 9) (tag : Byte) (key : Word) (s : State) : Out := .next (s.hostWrite path tag 0x20088 key)
/-- TIME_ARM (R444). -/
def execTimeArm (path : Fin 9) (tag : Byte) (data : Word) (s : State) : Out := .next (s.hostWrite path tag 0x1013C data)
/-- A register of fibre port p. -/
def portAddr (p : Fin 4) (off : Nat) : Word := BitVec.ofNat 32 (0x100000 + 0x10000 * p.val + off)
/-- CAPTURE_ARM: a write of CAP_CTRL (R115). -/
def execCaptureArm (path : Fin 9) (tag : Byte) (p : Fin 4) (data : Word) (s : State) : Out := .next (s.hostWrite path tag (portAddr p 0x300) data)
/-- CAPTURE_STOP: a write of CAP_CTRL; `samples` are those converted up to the stop (R117). DESIGN CHOICE, unsafe: log 31. -/
def execCaptureStop (path : Fin 9) (tag : Byte) (p : Fin 4) (data : Word) (samples : List Sample) (s : State) : Out :=
  .next (s.hostWriteWith path tag (portAddr p 0x300) data samples)
/-- FE_CLEAR (R109). -/
def execFeClear (path : Fin 9) (tag : Byte) (p : Fin 4) (data : Word) (s : State) : Out := .next (s.hostWrite path tag (portAddr p 0x210) data)
/-- TL_CLEAR (R218). -/
def execTlClear (path : Fin 9) (tag : Byte) (data : Word) (s : State) : Out := .next (s.hostWrite path tag 0x304004 data)
/-- PT_CLEAR (R273). -/
def execPtClear (path : Fin 9) (tag : Byte) (data : Word) (s : State) : Out := .next (s.hostWrite path tag 0x342014 data)
/-- MC_CLEAR_COUNTS: a write of the MC_CTRL of a channel, or of the SRAMs' (R362). -/
def execMcClearCounts (path : Fin 9) (tag : Byte) (blk : Fin 3) (data : Word) (s : State) : Out :=
  .next (s.hostWrite path tag (BitVec.ofNat 32 (0x500030 + 0x1000 * blk.val)) data)
/-- MC_RETRAIN: a write of the MC_CTRL of a channel (R368). -/
def execMcRetrain (path : Fin 9) (tag : Byte) (ch : Fin 2) (data : Word) (s : State) : Out :=
  .next (s.hostWrite path tag (BitVec.ofNat 32 (0x500030 + 0x1000 * ch.val)) data)
/-- BANK_SWAP: a write of EMT_BANK (R243, R244). -/
def execBankSwap (path : Fin 9) (tag : Byte) (data : Word) (s : State) : Out := .next (s.hostWrite path tag 0x320020 data)
/-- FRAME_MEMORY_WRITE: a write of the frame-memory window, at window byte `addr` (R243). -/
def execFrameMemoryWrite (path : Fin 9) (tag : Byte) (addr data : Word) (s : State) : Out :=
  .next (s.hostWrite path tag (BitVec.ofNat 32 (0x330000 + addr.toNat % 65536)) data)
/-- PEEK_POS_WRITE (R147). -/
def execPeekPosWrite (path : Fin 9) (tag : Byte) (p : Fin 4) (data : Word) (s : State) : Out := .next (s.hostWrite path tag (portAddr p 0x440) data)
/-- MEM_DATA_ACCESS: a read or write of a core's MEM_DATA (R335). -/
def execMemDataAccess (path : Fin 9) (tag : Byte) (core : Fin 16) (write : Bool) (data : Word) (s : State) : Out :=
  let a := BitVec.ofNat 32 (0x40001C + 0x10000 * core.val)
  .next (if write then s.hostWrite path tag a data else s.hostRead path tag a)
/-- EVENT_CAPTURE_TRIGGER: a write of CAPEV_CTRL (R171). -/
def execEventCaptureTrigger (path : Fin 9) (tag : Byte) (p : Fin 4) (data : Word) (s : State) : Out :=
  .next (s.hostWrite path tag (portAddr p 0x620) data)
/-- CAL_CMD_COHERENT: a write of CAL_CMD (R517). -/
def execCalCmdCoherent (path : Fin 9) (tag : Byte) (data : Word) (s : State) : Out := .next (s.hostWrite path tag 0x710004 data)
/-- CAL_CMD_RAMAN: a write of CAL_CMD (R517). -/
def execCalCmdRaman (path : Fin 9) (tag : Byte) (data : Word) (s : State) : Out := .next (s.hostWrite path tag 0x710004 data)
/-- CAL_CMD_TDC: a write of CAL_CMD (R517). -/
def execCalCmdTdc (path : Fin 9) (tag : Byte) (data : Word) (s : State) : Out := .next (s.hostWrite path tag 0x710004 data)
/-- CAL_CMD_THRESH: a write of CAL_CMD (R517). -/
def execCalCmdThresh (path : Fin 9) (tag : Byte) (data : Word) (s : State) : Out := .next (s.hostWrite path tag 0x710004 data)
/-- CORE_MBOX_IN_WRITE (R318). -/
def execCoreMboxInWrite (path : Fin 9) (tag : Byte) (core : Fin 16) (data : Word) (s : State) : Out :=
  .next (s.hostWrite path tag (BitVec.ofNat 32 (0x400010 + 0x10000 * core.val)) data)

end Sys2Proof.Machine
end

