-- ==== Sys2Proof/Machine/BrewOps.lean ====
section
/-! DEFINITION. The commands of the Brew cores. A row that names an operation of the instruction set stands for the issue of the core's
next word: it acts when that word contains the operation (R306 – R309). -/
namespace Sys2Proof.Machine

/-- BREW_NOP: a word whose compute slot, or whose control operation, is NOP (R307, R309). -/
def execBrewNop (n : Fin 16) (s : State) : Out := .next (if s.nextHas n (.comp 0) || s.nextHas n (.ctl 0) then s.issue n else s)
/-- ADD: Wd = Wa + Wb, saturating with m (R307). -/
def execAdd (n : Fin 16) (s : State) : Out := .next (s.runOp n (.comp 1))
/-- SUB: Wd = Wa − Wb, saturating with m (R307). -/
def execSub (n : Fin 16) (s : State) : Out := .next (s.runOp n (.comp 2))
/-- AND: Wd = Wa and Wb (R307). -/
def execAndW (n : Fin 16) (s : State) : Out := .next (s.runOp n (.comp 3))
/-- OR: Wd = Wa or Wb (R307). -/
def execOrW (n : Fin 16) (s : State) : Out := .next (s.runOp n (.comp 4))
/-- XOR: Wd = Wa exclusive or Wb (R307). -/
def execXor (n : Fin 16) (s : State) : Out := .next (s.runOp n (.comp 5))
/-- SHL: Wd = Wa shifted left by Wb[4:0], or by b with m (R307). -/
def execShl (n : Fin 16) (s : State) : Out := .next (s.runOp n (.comp 6))
/-- SHRA: arithmetic shift right (R307). -/
def execShra (n : Fin 16) (s : State) : Out := .next (s.runOp n (.comp 7))
/-- SHRL: logical shift right (R307). -/
def execShrl (n : Fin 16) (s : State) : Out := .next (s.runOp n (.comp 8))
/-- MIN: signed, or unsigned with m (R307). -/
def execMinW (n : Fin 16) (s : State) : Out := .next (s.runOp n (.comp 9))
/-- MAX: signed, or unsigned with m (R307). -/
def execMaxW (n : Fin 16) (s : State) : Out := .next (s.runOp n (.comp 0xA))
/-- SLT: set if less than (R307). -/
def execSlt (n : Fin 16) (s : State) : Out := .next (s.runOp n (.comp 0xB))
/-- SEQ: set if equal (R307). -/
def execSeq (n : Fin 16) (s : State) : Out := .next (s.runOp n (.comp 0xC))
/-- ABS: saturating absolute value (R307). -/
def execAbsW (n : Fin 16) (s : State) : Out := .next (s.runOp n (.comp 0xD))
/-- ADD2: add per s16 half (R307). -/
def execAdd2 (n : Fin 16) (s : State) : Out := .next (s.runOp n (.comp 0xE))
/-- SUB2: subtract per s16 half (R307). -/
def execSub2 (n : Fin 16) (s : State) : Out := .next (s.runOp n (.comp 0xF))
/-- MOVT: W register to address register (R307). -/
def execMovt (n : Fin 16) (s : State) : Out := .next (s.runOp n (.comp 0x10))
/-- MOVF: address register to W register (R307). -/
def execMovf (n : Fin 16) (s : State) : Out := .next (s.runOp n (.comp 0x11))
/-- CLZ: leading zeros (R307). -/
def execClz (n : Fin 16) (s : State) : Out := .next (s.runOp n (.comp 0x12))
/-- CMAC: complex multiply-accumulate (R304). -/
def execCmac (n : Fin 16) (s : State) : Out := .next (s.runOp n (.comp 0x20))
/-- CMSB: complex multiply-subtract (R304). -/
def execCmsb (n : Fin 16) (s : State) : Out := .next (s.runOp n (.comp 0x21))
/-- CMUL: complex multiply (R304). -/
def execCmul (n : Fin 16) (s : State) : Out := .next (s.runOp n (.comp 0x22))
/-- DMAC: dual multiply-accumulate (R304). -/
def execDmac (n : Fin 16) (s : State) : Out := .next (s.runOp n (.comp 0x23))
/-- QMAC: four products into two accumulators (R304). -/
def execQmac (n : Fin 16) (s : State) : Out := .next (s.runOp n (.comp 0x24))
/-- MUL32: 32 × 32 multiply into a pair (R304). -/
def execMul32 (n : Fin 16) (s : State) : Out := .next (s.runOp n (.comp 0x25))
/-- RDACC: read an accumulator rounded and saturated (R305). -/
def execRdacc (n : Fin 16) (s : State) : Out := .next (s.runOp n (.comp 0x28))
/-- ACCGET: read a portion of an accumulator (R305). -/
def execAccget (n : Fin 16) (s : State) : Out := .next (s.runOp n (.comp 0x29))
/-- ACCPUT: write a portion of an accumulator (R305). -/
def execAccput (n : Fin 16) (s : State) : Out := .next (s.runOp n (.comp 0x2A))
/-- LD16: load a sign-extended s16 (R308). -/
def execLd16 (n : Fin 16) (s : State) : Out := .next (s.runOp n (.mem 1))
/-- LD32: load a word (R308). -/
def execLd32 (n : Fin 16) (s : State) : Out := .next (s.runOp n (.mem 2))
/-- LD64: load a register pair (R308). -/
def execLd64 (n : Fin 16) (s : State) : Out := .next (s.runOp n (.mem 3))
/-- ST16: store 16 bits (R308). -/
def execSt16 (n : Fin 16) (s : State) : Out := .next (s.runOp n (.mem 4))
/-- ST32: store a word (R308). -/
def execSt32 (n : Fin 16) (s : State) : Out := .next (s.runOp n (.mem 5))
/-- ST64: store a register pair (R308). -/
def execSt64 (n : Fin 16) (s : State) : Out := .next (s.runOp n (.mem 6))
/-- MOVI: Wd = imm (R309). -/
def execMovi (n : Fin 16) (s : State) : Out := .next (s.runOp n (.ctl 1))
/-- ADDI: Wd = Wa + imm (R309). -/
def execAddi (n : Fin 16) (s : State) : Out := .next (s.runOp n (.ctl 2))
/-- SETA: address register = imm (R309). -/
def execSeta (n : Fin 16) (s : State) : Out := .next (s.runOp n (.ctl 3))
/-- BR: conditional branch with two delay slots (R309). -/
def execBr (n : Fin 16) (s : State) : Out := .next (s.runOp n (.ctl 4))
/-- CALL: branch and save the return index (R309). -/
def execCall (n : Fin 16) (s : State) : Out := .next (s.runOp n (.ctl 5))
/-- JR: branch to a register (R309). -/
def execJr (n : Fin 16) (s : State) : Out := .next (s.runOp n (.ctl 6))
/-- DBNZ: decrement and branch if not zero (R309). -/
def execDbnz (n : Fin 16) (s : State) : Out := .next (s.runOp n (.ctl 7))
/-- RPT: zero-overhead repeat (R315, R316). -/
def execRpt (n : Fin 16) (s : State) : Out := .next (s.runOp n (.ctl 8))
/-- SETWSL: set the slide register (R309). -/
def execSetwsl (n : Fin 16) (s : State) : Out := .next (s.runOp n (.ctl 9))
/-- EI: IE = 1 (R309). -/
def execEi (n : Fin 16) (s : State) : Out := .next (s.runOp n (.ctl 0xA))
/-- DI: IE = 0 (R309). -/
def execDi (n : Fin 16) (s : State) : Out := .next (s.runOp n (.ctl 0xB))
/-- RETI: return from interrupt (R319). -/
def execReti (n : Fin 16) (s : State) : Out := .next (s.runOp n (.ctl 0xC))
/-- RACQ: request ring-port credit (R329). -/
def execRacq (n : Fin 16) (s : State) : Out := .next (s.runOp n (.ctl 0xD))
/-- RCOM: commit a record (R330). -/
def execRcom (n : Fin 16) (s : State) : Out := .next (s.runOp n (.ctl 0xE))
/-- RREL: release credit (R330). -/
def execRrel (n : Fin 16) (s : State) : Out := .next (s.runOp n (.ctl 0xF))
/-- HALT: the core enters HALTED (R309). -/
def execHalt (n : Fin 16) (s : State) : Out := .next (s.runOp n (.ctl 0x10))
/-- WFI: the core sleeps (R309). -/
def execWfi (n : Fin 16) (s : State) : Out := .next (s.runOp n (.ctl 0x11))
/-- SWI: source 14 (R309). -/
def execSwi (n : Fin 16) (s : State) : Out := .next (s.runOp n (.ctl 0x12))

/-! Local I/O stores -/

/-- KICK: the core stores SIGNAL with Kick set (R322). -/
def execKick (n : Fin 16) (s : State) : Out := .next (s.runStore n fun (x : Nat × Word) => x.1 == 0x70310 && bit x.2.toNat 0)
/-- DOORBELL: the core stores SIGNAL with a Doorbell bit set (R318). -/
def execDoorbell (n : Fin 16) (s : State) : Out := .next (s.runStore n fun (x : Nat × Word) => x.1 == 0x70310 && decide (65536 ≤ x.2.toNat))
/-- ALARM_RAISE: the core stores ALARM_RAISE (R332). -/
def execAlarmRaise (n : Fin 16) (s : State) : Out := .next (s.runStore n fun (x : Nat × Word) => x.1 == 0x70328)
/-- DMA_GO: the core stores DMA_CTRL of channel c with Go set (R324). -/
def execDmaGo (n : Fin 16) (c : Fin 4) (s : State) : Out :=
  .next (s.runStore n fun (x : Nat × Word) => x.1 == 0x70114 + 0x20 * c.val && bit x.2.toNat 0)
/-- SP_RP_WRITE: the core stores SP_RP of a stream port (R327). -/
def execSpRpWrite (n : Fin 16) (q : Fin 4) (s : State) : Out := .next (s.runStore n fun (x : Nat × Word) => x.1 == 0x70004 + 0x10 * q.val)

/-! DMA, streams -/

/-- DMA_DONE: the last byte is written; Done sets, with IntEn source 4 + c; inside an RPT body the transfer waits (R298, R318, R325). DESIGN CHOICE, unsafe: log 10. -/
def execDmaDone (n : Fin 16) (c : Fin 4) (s : State) : Out :=
  match (s.core n).dma.get c with
  | none => .next s
  | some d =>
    if !s.locked 1 || s.inRpt n then .next s
    else if !d.table && s.memMode == 3 then .next ((s.dmaError n c 5).takeErr n)
    else if !d.table && !s.dramOpen then .next s
    else
      let s := s.dmaRows n c d (s.rd (.DMA_SHAPE_Rows n c)) s
      let s := ((s.wr (.DMA_STATUS_Busy n c) 0).wr (.DMA_STATUS_Done n c) 1).updCore n fun (x : CoreSt) => { x with dma := vupd x.dma c fun _ => none }
      .next (if s.on (.DMA_CTRL_IntEn n c) then s.setSource n (4 + c) else s)

/-- STREAM_RECORD_OFFER: the oldest matched record of a stream port is accepted into its buffer, or dropped (R327). -/
def execStreamRecordOffer (n : Fin 16) (q : Fin 4) (s : State) : Out :=
  let p := (s.core n).sp.get q
  match p.offered with
  | [] => .next s
  | b :: rest =>
    if !s.locked 1 then .next s
    else
      let used := s.spHeld n q + p.accepted.foldl (fun (a : Nat) (x : List Byte) => a + x.length) 0
      let ok := decide (used + b.length ≤ 2 ^ s.rd (.STREAM_CFG_LenLog n q))
      let s := s.updCore n fun (c : CoreSt) =>
        { c with sp := vupd c.sp q fun (p : SpSt) => { offered := rest, accepted := if ok then p.accepted ++ [b] else p.accepted } }
      .next (if ok then s else (s.inc (.SP_DROP_Value n q) 1).setSource n 12)

/-- STREAM_RECORD_WRITTEN: the oldest accepted record is in the buffer, and WP advances; not inside an RPT body (R298, R327). -/
def execStreamRecordWritten (n : Fin 16) (q : Fin 4) (s : State) : Out :=
  match ((s.core n).sp.get q).accepted with
  | [] => .next s
  | b :: rest =>
    if !s.locked 1 || s.inRpt n then .next s
    else
      let len := 2 ^ s.rd (.STREAM_CFG_LenLog n q)
      let base := 64 * s.rd (.STREAM_CFG_Base n q)
      let off := s.rd (.SP_WP_Count n q) % len
      let s := s.sramWrite n (coreSram n) (base + off) (b.take (len - off))
      let s := s.sramWrite n (coreSram n) base (b.drop (len - off))
      let s := s.wr (.SP_WP_Count n q) (s.rd (.SP_WP_Count n q) + b.length)
      let s := s.updCore n fun (c : CoreSt) => { c with sp := vupd c.sp q fun (p : SpSt) => { p with accepted := rest } }
      .next (s.setLevels n)

/-! Ring port -/

/-- RING_CREDIT_GRANTED: the ring's head can take the record, and RACQ returns OK; a ring stopped meanwhile returns STOPPED (R329). -/
def execRingCreditGranted (n : Fin 16) (s : State) : Out :=
  match (s.core n).wait with
  | some (.credit r size phys) =>
    if !s.locked 1 then .next s
    else if s.rd (.RING_STATE_State r) != 1 then .next ((s.portDone n phys 4).takeErr n)
    else if s.headRoom (fin 15 r) size then .next (((s.giveCredit n r size).portDone n phys 0).takeErr n)
    else .next s
  | _ => .next s

/-- RACQ_TIMEOUT: no space within Timeout; RACQ returns TIMEOUT and the ring counts a lost record; where the head has room by then, the
credit is granted (R329). -/
def execRacqTimeout (n : Fin 16) (s : State) : Out :=
  match (s.core n).wait, (s.core n).deadline with
  | some (.credit r size phys), some t =>
    if !(s.locked 1 && s.due t) then .next s
    else if s.rd (.RING_STATE_State r) != 1 || s.headRoom (fin 15 r) size then execRingCreditGranted n s
    else
      let s := ((s.takeSeq (fin 15 r)).2).lose (fin 15 r) 1
      .next ((s.portDone n phys 1).takeErr n)
  | _, _ => .next s

/-- RCOM_COPY_DONE: the record is in the ring's head and takes its sequence (R330). -/
def execRcomCopyDone (n : Fin 16) (s : State) : Out :=
  match (s.core n).wait with
  | some (.copy phys) =>
    if !s.locked 1 then .next s
    else
      let (b, bad) := s.rcomBytes n (s.fetch n).1
      let s := (s.sramLoad n (coreSram n) ((s.core n).a (bits (s.fetch n).1 44 41)).toNat (8 * s.rd (.RING_STATUS_Size n))).2
      let flags := Nat.lor (leAt b 6 2) (bnat (bad || s.on (.CORE_FLAGS_Poison n)) * 2 ^ 8)
      let rec_ := b.take 4 ++ le 2 s.curEpoch ++ le 2 flags ++ b.drop 8
      let r := fin 15 (s.rd (.RING_STATUS_Ring n))
      let s := s.wr (.RING_STATUS_Held n) 0
      .next (((s.offer r rec_).portDone n phys 0).takeErr n)
  | _ => .next s

/-! Interrupts, errors, timers -/

/-- The lowest set bit of sixteen. -/
def lowestSource (m : Nat) : Nat := ((List.range 16).find? fun (k : Nat) => bit m k).getD 0

/-- INTERRUPT_ENTRY: the lowest pending enabled source is taken, unless held off (R318 – R320). DESIGN CHOICE, unsafe: log 72. -/
def execInterruptEntry (n : Fin 16) (s : State) : Out :=
  let c := s.core n
  if s.coreLive n && s.intsOn n && s.takeable n != 0 && c.branch.isNone && c.rpt.isNone then
    let src := lowestSource (s.takeable n)
    let s := ((s.wr (.INT_SAVE_EPC n) c.pc).wr (.INT_SAVE_EWSL n) c.wsl).wr (.INT_SAVE_IE n) 0
    let s := s.updCore n fun (c : CoreSt) =>
      { c.landAll with wait := none, deadline := none, resume := none, pc := (s.rd (.INT_VECBASE_VecBase n) + 4 * src) % 8192,
                       kept := (c.pc, c.deadline.orElse fun _ => c.resume) :: c.kept }
    .next (s.wr (.CORE_STATUS_State n) 1)
  else .next s

/-- WFI_WAKE: an enabled interrupt is pending, and a sleeping core resumes (R309). -/
def execWfiWake (n : Fin 16) (s : State) : Out :=
  if s.locked 1 && s.coreState n == 2 && s.takeable n != 0 then .next (s.wr (.CORE_STATUS_State n) 1) else .next s

/-- NMI_ENTRY: an error that has arisen is taken, or the next word raises one: the handler, or FAULTED (R310, R321). -/
def execNmiEntry (n : Fin 16) (s : State) : Out :=
  if (s.core n).errs != [] then .next (s.takeErr n)
  else if s.canIssue n && ((s.fetch n).2 || s.wordError n (s.fetch n).1 != 0) then .next (s.issue n)
  else .next s

/-- CORE_WATCHDOG_EXPIRY: no Kick within Wdog × 0.1 ms (R322). -/
def execCoreWatchdogExpiry (n : Fin 16) (s : State) : Out :=
  let w := s.rd (.CORE_CTRL_Wdog n)
  if w != 0 && s.coreLive n && s.due ((s.core n).wdogFrom + w * 100000) then
    .next (((s.updCore n fun (c : CoreSt) => { c with wdogFrom := s.xt }).coreErr n 5).takeErr n)
  else .next s

/-- CORE_TIMER_EXPIRY: the periodic timer sets source 8; while the core is frozen, at its resumption (R318, R336). -/
def execCoreTimerExpiry (n : Fin 16) (s : State) : Out :=
  let p := s.rd (.TIMER_Period n) * 1000
  if p != 0 && s.due ((s.core n).timerFrom + p) then
    let s := s.updCore n fun (c : CoreSt) => { c with timerFrom := c.timerFrom + p, timerMissed := c.timerMissed || !s.locked 1 }
    .next (if s.locked 1 then s.setSource n 8 else s)
  else .next s

/-- CORE_ABORT_ACCEPT: an ABORT is accepted at an instruction boundary outside delay slots and RPT blocks; a ring-port wait or WFI
ends at once (R320, R337). DESIGN CHOICE, unsafe: log 78. -/
def execCoreAbortAccept (n : Fin 16) (s : State) : Out :=
  let c := s.core n
  if c.aborting && c.branch.isNone && c.rpt.isNone then .next (s.stopCore n 0) else .next s

end Sys2Proof.Machine
end

