-- ==== Sys2Proof/Machine/Commit.lean ====
section
/-! DEFINITION. COMMIT and the T_c of an accepted commit (R35 – R42, R338, R395, R503). -/
namespace Sys2Proof.Machine

/-- RING_DECL and LINK_LOAD follow the newest configuration from its T_c (R395). -/
def State.loadsAtTc (s : State) : State :=
  let t := ({ s with regs := s.newestRegs }).showLoads
  let s := [0, 1, 2, 3, 4, 15].foldl (fun (s : State) (k : Nat) => s.wr (.RING_DECL_Decl k) (t.rd (.RING_DECL_Decl k))) s
  (List.range 8).foldl (fun (s : State) (x : Nat) => s.wr (.LINK_LOAD_Load x) (t.rd (.LINK_LOAD_Load x))) s

/-- The T_c of a commit has come (R37, R395). -/
def State.commitAt (s : State) (c : Sched) : State :=
  let s := ({ s with epoch := { s.epoch with sched := none } }).wr .EPOCH_STATUS_Scheduled 0
  (s.beginEpoch c.num c.tc 1 c.changes).loadsAtTc

/-- A commit applies: its T_c has come, and no sentinel wake is in progress, whose epoch applies first (R37, R44). DESIGN CHOICE, unsafe: log 79. -/
def State.mayCommit (s : State) (tc : Nat) : Bool := decide (tc ≤ s.now) && s.power.wakeAt.isNone

/-- EPOCH_SWITCH: the T_c of the scheduled commit has come (R37, R44, R447). -/
def execEpochSwitch (s : State) : Out :=
  match s.epoch.sched with
  | none => .next s
  | some c => if s.mayCommit c.tc then .next (s.commitAt c) else .next s

/-- The configuration a COMMIT would result in: the running one, with the changes of epochs still on their way, overlaid with the pending
bank (R35). -/
def State.resulting (s : State) : RegFile := rfOverlay s.newestRegs s.epoch.pend

/-- The reason of a COMMIT and the state after its checks (R35): STATE in HOLD, BUSY behind a scheduled commit, TIME_RANGE, then the checks
of the configuration. -/
def State.commitReason (s : State) (tc : Nat) : Nat × State :=
  if s.pwr = 1 then (7, s)
  else
    let new := s.resulting
    let s := s.showChecks new
    if s.epoch.sched.isSome then (6, s)
    else if s.now + 600000000000 < tc then (5, s)
    else s.pickReason (({ s with regs := s.newestRegs }).failReasons new)

/-- From the acceptance of a commit, the buffer and slices of every port that its configuration uses have power; a pending power-down is
cancelled (R111, R112). -/
def State.powerForCommit (s : State) (new : RegFile) : State :=
  if !s.measuring then s
  else (List.finRange 4).foldl (fun (s : State) (p : Fin 4) =>
    if (planOf new p 0).idle then s else s.powerUp p s.xt (slicesFor new p 0)) s

/-- Accept a commit for T_c: the pending bank becomes the scheduled one, and one whose T_c is not later than now applies at once (R35,
R36). -/
def State.acceptCommit (s : State) (tc : Nat) : State :=
  let n := (s.curEpoch + 1) % 65536
  let s := s.powerForCommit s.resulting
  let c : Sched := ⟨if tc ≤ s.now then s.now else tc, n, s.epoch.pend⟩
  let s := { s with epoch := { s.epoch with sched := some c, pend := [], stores := [] } }
  let s := ((s.wr .EPOCH_STATUS_Scheduled 1).wr .EPOCH_STATUS_Pending 0).wr .COMMIT_RESULT_TargetEpoch n
  if s.mayCommit tc then s.commitAt c else s

/-- A COMMIT is checked, and accepted or rejected (R35). -/
def State.runCommit (s : State) (path : Fin 9) (tag : Byte) : State :=
  let tc := s.rd64 .COMMIT_TIME_LO_TimeLo
  let (reason, s) := s.commitReason tc
  let s := s.wr .COMMIT_RESULT_Reason reason
  let s := if reason = 0 then s.acceptCommit tc else s
  s.done path 4 tag 0 (if reason = 0 then stOk else stFailed) (reason + 256 * s.rd .COMMIT_RESULT_TargetEpoch) reason

/-- A WRITE accepted before a command has not completed (R503). -/
def State.writeBefore (s : State) (no : Nat) : Bool :=
  s.host.gateWait.any fun (q : Req × Nat) => q.1.code == 2 && (s.host.paths.get (fin 8 q.1.path)).out.any fun (o : Outst) =>
    o.tag == q.1.tag && decide (o.no < no)

/-- The COMMITs whose earlier writes have completed are checked, in the order of acceptance (R503). -/
def commitGo : List (Fin 9 × Outst) → State → State
  | [], s => s
  | (p, o) :: rest, s => if s.writeBefore o.no then s else commitGo rest (s.runCommit p o.tag)
/-- The same for every COMMIT that waits. -/
def State.runCommits (s : State) : State := commitGo s.commitsWaiting s

/-- COMMIT: it is checked once every WRITE accepted before it has completed (R35, R501, R503). DESIGN CHOICE, unsafe: log 36. -/
def execCommit (path : Fin 9) (tag : Byte) (s : State) : Out :=
  let (s, ok) := s.accept path 4 tag 0 0
  .next (if ok then s.runCommits else s)

end Sys2Proof.Machine
end

