-- ==== Sys2Proof/Machine/HostCmd.lean ====
section
/-! DEFINITION. The paths and the commands that are not register accesses: MGMT frames, command datagrams, image loading, flash, fuses
(R392, R491 – R509). -/
namespace Sys2Proof.Machine

/-! The MGMT port (R492 – R498) -/

/-- Bytes 1 – 10 of a response frame behind the sync byte (R495); NONE where no response waits. -/
def misoOf (r : Option Resp) : List Byte :=
  let b := match r with
    | some r => le 1 r.status ++ [r.tag] ++ le 1 r.code ++ le 4 r.data.toNat ++ le 1 r.detail ++ le 1 r.xflags
    | none => le 1 0xFF ++ zeros 8
  le 1 0xA5 ++ b ++ le 1 (crc8 b)

/-- The request of an 11-byte frame (R493). -/
def reqOf (path : Nat) (b : List Byte) (peer : Option Peer) : Req :=
  ⟨path, leAt b 0 1, b.getD 1 0, BitVec.ofNat 32 (leAt b 2 4), BitVec.ofNat 32 (leAt b 6 4), peer⟩

/-- A request's Crc is right (R494). -/
def reqCrcOk (b : List Byte) : Bool := crc8 (b.take 10) == leAt b 10 1

/-- Answer a request with a wrong Crc (R497): the Tag as received; it never was outstanding. DESIGN CHOICE, unsafe: log 25. -/
def State.crcAnswer (s : State) (p : Fin 9) (b : List Byte) : State :=
  if p.val = 8 ∧ 16 ≤ s.host.respQ.length then s.inc .HOST_STATUS_CrcErr 1
  else s.answer p (mkResp (leAt b 0 1) (b.getD 1 0) (BitVec.ofNat 32 (leAt b 2 4)) 1 0 0 0) false

/-- A request received on a path joins those that wait for the command engine; one with a wrong Crc or a reserved code is answered
(R497, R501, R502). -/
def State.receiveReq (s : State) (p : Fin 9) (b : List Byte) (peer : Option Peer) : State :=
  let q := reqOf p.val b peer
  if !reqCrcOk b then (s.updPath p fun (x : PathSt) => { x with peer := peer }).crcAnswer p b
  else if 0x10 < q.code then (s.updPath p fun (x : PathSt) => { x with peer := peer }).turnAway p q.code q.tag q.addr stUnknown
  else if q.code = 0 ∨ (q.code = 0x0F ∧ p.val = 8) then s
  else { s with host := { s.host with inQ := s.host.inQ ++ [q] } }

/-- MGMT_TRANSACTION: `bytes` are shifted in during `cycles` cycles of SCLK with CS_N low. A transaction of 88 cycles shifts out the oldest
response, or on REPEAT the last delivered one, and delivers its request; any other count is discarded (R492 – R498).
DESIGN CHOICE, unsafe: log 18. DESIGN CHOICE, unsafe: log 22. -/
def execMgmtTransaction (bytes : List Byte) (cycles : Nat) (s : State) : Out :=
  if !s.engineUp then .next { s with host := { s.host with miso := [] } }
  else
    let again := leAt bytes 0 1 == 0x0F
    let resp := if again then (s.host.paths.get 8).last else s.host.respQ.head?
    let out := (misoOf resp).take (cycles / 8)
    let s := { s with host := { s.host with miso := out } }
    if cycles ≠ 88 then .next (s.inc .HOST_STATUS_Framing 1)
    else
      let s := if again then s
        else match s.host.respQ with
          | [] => s
          | r :: rs =>
            let s := { s with host := { s.host with respQ := rs } }
            (s.updPath 8 fun (q : PathSt) => { q with last := some r }).flushResp
      .next (s.receiveReq 8 bytes none)

/-! Command datagrams (R392, R499) -/

/-- A big-endian number within bytes. -/
def beAt (b : List Byte) (off n : Nat) : Nat := leNat ((b.drop off).take n).reverse

/-- The fields of a received frame that R392 tests: destination and source MAC, VID if tagged, EtherType, and what follows. -/
structure RxFrame where
  dst : List Byte
  src : List Byte
  vid : Option Nat
  type : Nat
  rest : List Byte

/-- Parse a frame without its FCS. DESIGN CHOICE, unsafe: log 26. -/
def parseFrame (f : List Byte) : RxFrame :=
  let t := beAt f 12 2
  if t = 0x8100 then ⟨f.take 6, (f.drop 6).take 6, some (beAt f 14 2 % 4096), beAt f 16 2, f.drop 18⟩
  else ⟨f.take 6, (f.drop 6).take 6, none, t, f.drop 14⟩

/-- A UDP datagram within an IP packet: source address, destination address, UDP bytes (R392). None where the IP header is not one the
link accepts. -/
def ipPayload (v6 : Bool) (b : List Byte) : Option (List Byte × List Byte × List Byte) :=
  if v6 then
    if beAt b 0 1 / 16 = 6 ∧ beAt b 6 1 = 17 ∧ 40 + beAt b 4 2 ≤ b.length then some ((b.drop 8).take 16, (b.drop 24).take 16, (b.drop 40).take (beAt b 4 2))
    else none
  else
    if beAt b 0 1 = 0x45 ∧ inetSum (b.take 20) = 0 ∧ beAt b 6 2 % 16384 = 0 ∧ beAt b 9 1 = 17 ∧ 20 ≤ beAt b 2 2 ∧ beAt b 2 2 ≤ b.length then
      some ((b.drop 12).take 4, (b.drop 16).take 4, (b.drop 20).take (beAt b 2 2 - 20))
    else none

/-- A UDP checksum that is zero or right (R392). -/
def udpSumOk (v6 : Bool) (src dst udp : List Byte) : Bool :=
  let len := beAt udp 4 2
  let pseudo := src ++ dst ++ (if v6 then be 4 len ++ zeros 3 ++ be 1 17 else zeros 1 ++ be 1 17 ++ be 2 len)
  beAt udp 6 2 == 0 || inetSum (pseudo ++ udp.take len) == 0

/-- Two addresses agree in their first `n` bits. -/
def prefixEq (n : Nat) (a b : List Byte) : Bool :=
  let w := 8 * a.length
  leNat a.reverse / 2 ^ (w - min n w) == leNat b.reverse / 2 ^ (w - min n w)

/-- A frame is a command of R392: the UDP payload and its source. -/
def State.commandOf (s : State) (x : Fin 8) (f : List Byte) : Option (List Byte × Peer) :=
  let v6 := s.on (.LINK_CFG_Ipv6 x)
  let fr := parseFrame f
  let vidOk := match fr.vid with | some v => v == s.rd (.LINK_CFG_Vid x) | none => true
  if fr.dst != s.macAt (.LINK_MAC_LO_Mac x) (.LINK_MAC_HI_Mac x) || !vidOk || fr.type != (if v6 then 0x86DD else 0x0800) then none
  else match ipPayload v6 fr.rest with
    | none => none
    | some (src, dst, udp) =>
      let len := beAt udp 4 2
      if dst == s.ipAt x (fun (k : Nat) => .SRC_IP_Addr x k) && decide (8 ≤ len ∧ len ≤ udp.length) && s.on (.LINK_CMD_CmdEnable x) &&
          beAt udp 2 2 == s.rd (.LINK_CMD_CmdPort x) && udpSumOk v6 src dst udp &&
          prefixEq (s.rd (.LINK_CMD_PeerPrefix x)) src (s.ipAt x (fun (k : Nat) => .PEER_IP_Addr x k)) then
        some ((udp.take len).drop 8, ⟨fr.src, src, beAt udp 0 2⟩)
      else none

/-- The payload of R499 is well formed. -/
def payloadOk (b : List Byte) : Bool :=
  leAt b 0 2 == 0x5A43 && leAt b 2 1 == 1 && decide (1 ≤ leAt b 3 1 ∧ leAt b 3 1 ≤ 8) && b.length == 8 + 12 * leAt b 3 1

/-- The record of ring 12 of an accepted command frame: a header of the form of R49 with Type 0, link, source, payload. -/
def State.cmdRecord (s : State) (x : Fin 8) (peer : Peer) (payload : List Byte) : List Byte :=
  mkRecord 0 s.curEpoch 0 s.now (le 1 x.val ++ zeros 1 ++ le 2 peer.port ++ peer.mac ++ peer.ip ++ zeros (22 - peer.ip.length) ++ payload)

/-- MAC control frames: PAUSE and PFC of R393; any other opcode is discarded. -/
def State.macControl (s : State) (x : Fin 8) (b : List Byte) : State :=
  if beAt b 0 2 = 1 then (if s.on (.LINK_CFG_Pfc x) then s else s.pauseLink x (beAt b 2 2))
  else if beAt b 0 2 = 0x0101 then
    let pcp := s.rd (.LINK_CFG_Pcp x)
    if s.on (.LINK_CFG_Pfc x) && bit (beAt b 2 2) pcp then s.pauseLink x (beAt b (4 + 2 * pcp) 2) else s
  else s.inc (.RX_COUNT_Discard x) 1

/-- Between bursts of SENTINEL nothing serves a received command (R474). DESIGN CHOICE, unsafe: log 28. -/
def State.betweenBursts (s : State) : Bool := s.pwr == 3 && s.power.phase != 2

/-- Accept a command frame into ring 12 (R392, R499, R503). -/
def State.acceptCommand (s : State) (x : Fin 8) (payload : List Byte) (peer : Peer) : State :=
  let rec_ := s.cmdRecord x peer payload
  let (q, s) := s.takeSeq 12
  let s := s.inc (.RX_COUNT_Cmd x) 1
  if !s.headRoom 12 rec_.length then s.lose 12 1
  else
    if !payloadOk payload then s.inc (.RX_COUNT_Discard x) 1
    else
      let n := leAt payload 3 1
      let s := (List.range n).foldl (fun (s : State) (k : Nat) => s.receiveReq (fin 8 x.val) ((payload.drop (8 + 12 * k)).take 11) (some peer)) s
      let left := s.host.inQ.any fun (r : Req) => r.path == x.val
      if left then s.putHead 12 ⟨q, rec_, s.xt⟩ else s

/-- FRAME_RECEIVED: a link receives a frame, here without its FCS (R392, R393, R474). -/
def execFrameReceived (x : Fin 8) (frame : List Byte) (fcsOk : Bool) (s : State) : Out :=
  if !s.receives x then .next s
  else
    let discard := s.inc (.RX_COUNT_Discard x) 1
    if !fcsOk || decide (frame.length < 60 ∨ 9212 < frame.length) then .next discard
    else if (parseFrame frame).type = 0x8808 ∧ (parseFrame frame).vid = none then .next (s.macControl x (parseFrame frame).rest)
    else match s.commandOf x frame with
      | none => .next discard
      | some (payload, peer) => if s.betweenBursts then .next discard else .next (s.acceptCommand x payload peer)

/-! NOP, REPEAT, CLEAR_ALARM -/

/-- NOP: at once, with no response (R501). DESIGN CHOICE, unsafe: log 120. -/
def execNop (path : Fin 9) (tag : Byte) (s : State) : Out := .next (s.takeReq path 0 tag)

/-- The response that REPEAT finds: the path's last delivered one, or NONE (R495, R496). -/
def State.lastResp (s : State) (p : Fin 9) : Resp :=
  match (s.host.paths.get p).last with
  | some r => r
  | none => { mkResp 0 0 0 0xFF 0 0 0 with time := s.now, at_ := s.xt }

/-- REPEAT: on MGMT the last delivered response is shifted out again; on a link's path a copy of it is produced (R496, R500).
DESIGN CHOICE, unsafe: log 24. -/
def execRepeatLast (path : Fin 9) (tag : Byte) (s : State) : Out :=
  if !s.engineUp || !s.turnOf path 0x0F tag then .next s
  else if path.val = 8 then .next { s with host := { s.host with miso := misoOf (s.host.paths.get 8).last } }
  else
    let s := s.takeReq path 0x0F tag
    .next (s.answerAgain path { s.lastResp path with peer := (s.host.paths.get path).peer } false)

/-- CLEAR_ALARM: the latch of every occurrence raised before its acceptance is cleared (R401). -/
def execClearAlarm (path : Fin 9) (tag : Byte) (s : State) : Out :=
  let (s, ok) := s.accept path 0x0E tag 0 0
  if !ok then .next s
  else .next (((s.wr .ALARM_STATUS_Latched 0).wr .ALARM_STATUS_Severity 0).done path 0x0E tag 0 stOk 0 0)

/-! LOAD_IMAGE (R506, R507) -/

/-- The first bytes of a path's host buffer. -/
def State.bufBytes (s : State) (p : Fin 9) (n : Nat) : List Byte :=
  let buf := (s.host.paths.get p).buf
  ((List.range ((n + 3) / 4)).flatMap fun (k : Nat) => le 4 (spGet (fun _ => (0 : Word)) buf k).toNat).take n

/-- Fill a path's host buffer from byte 0; the bytes beyond stay. -/
def State.fillBuf (s : State) (p : Fin 9) (bs : List Byte) : State :=
  let n := (bs.length + 3) / 4
  let rest := ((s.bufBytes p (4 * n)).drop bs.length)
  let all := bs ++ rest
  s.updPath p fun (q : PathSt) =>
    { q with buf := (List.range n).foldl (fun (m : Sparse Word) (k : Nat) => spSet (fun _ => 0) m k (BitVec.ofNat 32 (leAt all (4 * k) 4))) q.buf }

/-- LOAD_IMAGE: a chunk of the host buffer joins the staging store; the one that completes the image starts its validation (R507). -/
def execLoadImage (path : Fin 9) (tag : Byte) (addr data : Word) (s : State) : Out :=
  let (s, ok) := s.accept path 9 tag addr data
  let n := data.toNat
  let base := if addr = 0 then [] else s.image.staged
  let all := base ++ s.bufBytes path (min n 4096)
  let len := if 64 ≤ all.length then leAt all 12 4 else 0
  if !ok then .next s
  else if s.image.validating then .next (s.done path 9 tag addr stBusy 0 0)
  else if n < 8 ∨ 4096 < n ∨ n % 8 ≠ 0 ∨ addr.toNat ≠ base.length ∨ (64 ≤ all.length ∧ (16777216 < len ∨ len < all.length)) then
    .next (s.done path 9 tag addr stInvalid 0 0)
  else
    let s := { s with image := { s.image with staged := all, stageLen := len, validating := decide (64 ≤ all.length) && len == all.length } }
    .next (s.done path 9 tag addr stOk all.length 0)

/-! Flash (R505, R508) -/

/-- A flash command whose arguments pass begins to run; one at a time (R503, R508). DESIGN CHOICE, unsafe: log 34. -/
def State.flashBegin (s : State) (path : Fin 9) (tag : Byte) (code : Nat) (addr : Word) (len : Nat) (argsOk : Bool) (bytes : List Byte) : State :=
  if s.host.flashRun.isSome then s.done path code tag addr stBusy 0 0
  else if !argsOk || decide (s.image.flashSize < addr.toNat + len) then s.done path code tag addr stInvalid 0 0
  else { s with host := { s.host with flashRun := some ⟨path.val, tag, code, addr.toNat, len, s.xt, bytes⟩ } }

/-- FLASH_READ (R508). -/
def execFlashRead (path : Fin 9) (tag : Byte) (addr data : Word) (s : State) : Out :=
  let (s, ok) := s.accept path 0x0A tag addr data
  if !ok then .next s else .next (s.flashBegin path tag 0x0A addr data.toNat (decide (1 ≤ data.toNat ∧ data.toNat ≤ 4096)) [])

/-- FLASH_ERASE: Data 0 erases 4 KiB, 1 erases 64 KiB, at an offset aligned to that size (R508). -/
def execFlashErase (path : Fin 9) (tag : Byte) (addr data : Word) (s : State) : Out :=
  let (s, ok) := s.accept path 0x0B tag addr data
  let len := if data = 1 then 65536 else 4096
  if !ok then .next s else .next (s.flashBegin path tag 0x0B addr len (decide (data.toNat ≤ 1 ∧ addr.toNat % len = 0)) [])

/-- FLASH_WRITE: 1 – 256 bytes of the host buffer, within one page (R501, R508). -/
def execFlashWrite (path : Fin 9) (tag : Byte) (addr data : Word) (s : State) : Out :=
  let (s, ok) := s.accept path 0x0C tag addr data
  let n := data.toNat
  let fits := decide (1 ≤ n ∧ n ≤ 256 ∧ addr.toNat % 256 + n ≤ 256)
  if !ok then .next s else .next (s.flashBegin path tag 0x0C addr n fits (s.bufBytes path (min n 256)))

/-- Put bytes into the flash. -/
def State.setFlash (s : State) (a : Nat) (bs : List Byte) : State :=
  { s with image := { s.image with flash := spSetRun (fun _ => 255) s.image.flash a bs } }

/-- A flash command ends: its result is queued and FlashDone sets (R508). -/
def State.flashEnd (s : State) (r : Running) (status detail : Nat) : State :=
  let s := ({ s with host := { s.host with flashRun := none } }).wr .ALERT_EVENT_FlashDone 1
  s.done (fin 8 r.path) r.code r.tag (BitVec.ofNat 32 r.addr) status 0 detail

/-- The `n` bytes that the flash holds after an erase or a program, as it returns them. -/
def backBytes (back : List Byte) (n : Nat) : List Byte := (List.range n).map fun (k : Nat) => back.getD k 255

/-- FLASH_COMMAND_DONE: the flash finishes the running command (R508). `latched`: its write enable was latched; `back`: what a programmed
range reads back as. -/
def execFlashCommandDone (latched : Bool) (back : List Byte) (s : State) : Out :=
  match s.host.flashRun with
  | none => .next s
  | some r =>
    if r.code = 0x0A then
      .next ((s.fillBuf (fin 8 r.path) (spGetRun (fun _ => 255) s.image.flash r.addr r.len)).flashEnd r stOk 0)
    else if !latched then .next (s.flashEnd r stFailed 3)
    else if r.code = 0x0B then .next ((s.setFlash r.addr (List.replicate r.len 255)).flashEnd r stOk 0)
    else
      let bs := backBytes back r.len
      .next ((s.setFlash r.addr bs).flashEnd r (if bs = r.data then stOk else stFailed) (if bs = r.data then 0 else 1))

/-- The limit of a flash command, ns (R505). -/
def flashLimit (r : Running) : Nat := if r.code ≠ 0x0B then 10000000 else if r.len = 4096 then 1000000000 else 4000000000

/-- FLASH_TIMEOUT: a flash command exceeds its limit and ends with FAILED and Detail 2 (R505). `back`: what the range of an erase or a
program holds then. -/
def execFlashTimeout (back : List Byte) (s : State) : Out :=
  match s.host.flashRun with
  | none => .next s
  | some r =>
    if !s.due (r.since + flashLimit r) then .next s
    else .next ((if r.code = 0x0A then s else s.setFlash r.addr (backBytes back r.len)).flashEnd r stFailed 2)

/-! Fuses (R469, R509) -/

/-- FUSE_PROGRAM: Address 1 burns the key hash from FUSE_STAGE, 2 the lock (R509). -/
def execFuseProgram (path : Fin 9) (tag : Byte) (addr data : Word) (s : State) : Out :=
  let (s, ok) := s.accept path 0x10 tag addr data
  let key := s.on .FUSE_STATUS_KeyHash
  let fits := data = 0x46555345 && ((addr = 1 && !key) || (addr = 2 && key && !s.on .FUSE_STATUS_Lock))
  let stage := (List.range 8).flatMap fun (k : Nat) => le 4 (s.rd (.FUSE_STAGE_Hash k))
  if !ok then .next s
  else if s.host.fuseRun.isSome then .next (s.done path 0x10 tag addr stBusy 0 0)
  else if !fits then .next (s.done path 0x10 tag addr stInvalid 0 0)
  else .next { s with host := { s.host with fuseRun := some ⟨path.val, tag, 0x10, addr.toNat, 32, s.xt, stage⟩ } }

/-- FUSE_BURN_DONE: the fuse is burned and reads back as `back`: 32 bytes of a key hash, or the lock in bit 0 of the first (R509).
DESIGN CHOICE, unsafe: log 35. -/
def execFuseBurnDone (back : List Byte) (s : State) : Out :=
  match s.host.fuseRun with
  | none => .next s
  | some r =>
    let s := { s with host := { s.host with fuseRun := none } }
    let bs := (List.range 32).map fun (k : Nat) => back.getD k 0
    let good := if r.addr = 1 then bs == r.data else bit (leAt bs 0 1) 0
    let s := if r.addr = 1 then
        let s := { s with image := { s.image with keyHash := bs } }
        (List.range 8).foldl (fun (s : State) (k : Nat) => s.wr (.FUSE_KEYHASH_Hash k) (leAt bs (4 * k) 4)) (s.wr .FUSE_STATUS_KeyHash 1)
      else s.wrB .FUSE_STATUS_Lock good
    let s := if good then s else s.wr .FUSE_STATUS_ReadbackFault 1
    .next (s.done (fin 8 r.path) 0x10 r.tag (BitVec.ofNat 32 r.addr) (if good then stOk else stFailed)
      (rfWord s.regs (Fld.FUSE_STATUS_KeyHash).addr).toNat (bnat (!good)))

end Sys2Proof.Machine
end

