-- ==== Sys2Proof/Machine/Dispatch.lean ====
section
/-! DEFINITION. One arm per command: a direct call of its meaning. -/
namespace Sys2Proof.Machine

def exec (i : Instr) (s : State) : Host.Outcome State Fault Refusal :=
  match i with
  | .mgmtTransaction bytes cycles => Sys2Proof.Machine.execMgmtTransaction bytes cycles s
  | .frameReceived x frame fcsOk => Sys2Proof.Machine.execFrameReceived x frame fcsOk s
  | .nop path tag => Sys2Proof.Machine.execNop path tag s
  | .read path tag addr => Sys2Proof.Machine.execRead path tag addr s
  | .write path tag addr data => Sys2Proof.Machine.execWrite path tag addr data s
  | .lowHalfRead path tag addr => Sys2Proof.Machine.execLowHalfRead path tag addr s
  | .highHalfRead path tag addr => Sys2Proof.Machine.execHighHalfRead path tag addr s
  | .lowHalfWrite path tag addr data => Sys2Proof.Machine.execLowHalfWrite path tag addr data s
  | .highHalfWrite path tag addr data => Sys2Proof.Machine.execHighHalfWrite path tag addr data s
  | .regStatusRead path tag addr => Sys2Proof.Machine.execRegStatusRead path tag addr s
  | .snapshot path tag => Sys2Proof.Machine.execSnapshot path tag s
  | .snapshotCopyDone => Sys2Proof.Machine.execSnapshotCopyDone s
  | .commit path tag => Sys2Proof.Machine.execCommit path tag s
  | .discard path tag both => Sys2Proof.Machine.execDiscard path tag both s
  | .cancel path tag => Sys2Proof.Machine.execCancel path tag s
  | .abort path tag kind inst => Sys2Proof.Machine.execAbort path tag kind inst s
  | .abortComplete kind inst => Sys2Proof.Machine.execAbortComplete kind inst s
  | .start path tag kind inst => Sys2Proof.Machine.execStart path tag kind inst s
  | .stop path tag kind inst => Sys2Proof.Machine.execStop path tag kind inst s
  | .setState path tag target => Sys2Proof.Machine.execSetState path tag target s
  | .stateEntryComplete => Sys2Proof.Machine.execStateEntryComplete s
  | .loadImage path tag addr data => Sys2Proof.Machine.execLoadImage path tag addr data s
  | .hostImageValidated => Sys2Proof.Machine.execHostImageValidated s
  | .flashRead path tag addr data => Sys2Proof.Machine.execFlashRead path tag addr data s
  | .flashErase path tag addr data => Sys2Proof.Machine.execFlashErase path tag addr data s
  | .flashWrite path tag addr data => Sys2Proof.Machine.execFlashWrite path tag addr data s
  | .flashCommandDone latched back => Sys2Proof.Machine.execFlashCommandDone latched back s
  | .flashTimeout back => Sys2Proof.Machine.execFlashTimeout back s
  | .retireRow path tag addr data => Sys2Proof.Machine.execRetireRow path tag addr data s
  | .rowCopyDone ch => Sys2Proof.Machine.execRowCopyDone ch s
  | .clearAlarm path tag => Sys2Proof.Machine.execClearAlarm path tag s
  | .repeatLast path tag => Sys2Proof.Machine.execRepeatLast path tag s
  | .fuseProgram path tag addr data => Sys2Proof.Machine.execFuseProgram path tag addr data s
  | .fuseBurnDone back => Sys2Proof.Machine.execFuseBurnDone back s
  | .hostSoftReset path tag => Sys2Proof.Machine.execHostSoftReset path tag s
  | .softResetBegin => Sys2Proof.Machine.execSoftResetBegin s
  | .sysWdogKick path tag key => Sys2Proof.Machine.execSysWdogKick path tag key s
  | .timeArm path tag data => Sys2Proof.Machine.execTimeArm path tag data s
  | .captureArm path tag p data => Sys2Proof.Machine.execCaptureArm path tag p data s
  | .captureStop path tag p data samples => Sys2Proof.Machine.execCaptureStop path tag p data samples s
  | .captureStart p first => Sys2Proof.Machine.execCaptureStart p first s
  | .captureComplete p samples => Sys2Proof.Machine.execCaptureComplete p samples s
  | .feClear path tag p data => Sys2Proof.Machine.execFeClear path tag p data s
  | .tlClear path tag data => Sys2Proof.Machine.execTlClear path tag data s
  | .ptClear path tag data => Sys2Proof.Machine.execPtClear path tag data s
  | .mcClearCounts path tag blk data => Sys2Proof.Machine.execMcClearCounts path tag blk data s
  | .mcRetrain path tag ch data => Sys2Proof.Machine.execMcRetrain path tag ch data s
  | .bankSwap path tag data => Sys2Proof.Machine.execBankSwap path tag data s
  | .bankValidationDone => Sys2Proof.Machine.execBankValidationDone s
  | .frameMemoryWrite path tag addr data => Sys2Proof.Machine.execFrameMemoryWrite path tag addr data s
  | .peekPosWrite path tag p data => Sys2Proof.Machine.execPeekPosWrite path tag p data s
  | .peekCopyDone p => Sys2Proof.Machine.execPeekCopyDone p s
  | .memDataAccess path tag core write data => Sys2Proof.Machine.execMemDataAccess path tag core write data s
  | .eventCaptureTrigger path tag p data => Sys2Proof.Machine.execEventCaptureTrigger path tag p data s
  | .calCmdCoherent path tag data => Sys2Proof.Machine.execCalCmdCoherent path tag data s
  | .calCmdRaman path tag data => Sys2Proof.Machine.execCalCmdRaman path tag data s
  | .calCmdTdc path tag data => Sys2Proof.Machine.execCalCmdTdc path tag data s
  | .calCmdThresh path tag data => Sys2Proof.Machine.execCalCmdThresh path tag data s
  | .coreMboxInWrite path tag core data => Sys2Proof.Machine.execCoreMboxInWrite path tag core data s
  | .epochSwitch => Sys2Proof.Machine.execEpochSwitch s
  | .wakeEpochBoundary => Sys2Proof.Machine.execWakeEpochBoundary s
  | .shotLaunch p moved => Sys2Proof.Machine.execShotLaunch p moved s
  | .toneLaunch p k => Sys2Proof.Machine.execToneLaunch p k s
  | .pgateOpen p => Sys2Proof.Machine.execPgateOpen p s
  | .pgateClose p => Sys2Proof.Machine.execPgateClose p s
  | .rtrigRelease p => Sys2Proof.Machine.execRtrigRelease p s
  | .toneWindowOpen p k => Sys2Proof.Machine.execToneWindowOpen p k s
  | .toneWindowClose p k x y => Sys2Proof.Machine.execToneWindowClose p k x y s
  | .ramanWindowOpen p => Sys2Proof.Machine.execRamanWindowOpen p s
  | .ramanWindowClose p ra rs => Sys2Proof.Machine.execRamanWindowClose p ra rs s
  | .completionPassDone p => Sys2Proof.Machine.execCompletionPassDone p s
  | .syncInPulse width sub => Sys2Proof.Machine.execSyncInPulse width sub s
  | .extEventTimeout p => Sys2Proof.Machine.execExtEventTimeout p s
  | .refLeadComplete p => Sys2Proof.Machine.execRefLeadComplete p s
  | .refPowerDown p => Sys2Proof.Machine.execRefPowerDown p s
  | .fusionUpdate p => Sys2Proof.Machine.execFusionUpdate p s
  | .fusedItem p => Sys2Proof.Machine.execFusedItem p s
  | .bandWindowClose p r => Sys2Proof.Machine.execBandWindowClose p r s
  | .backscatterTrace p => Sys2Proof.Machine.execBackscatterTrace p s
  | .captureSelectionEnd p => Sys2Proof.Machine.execCaptureSelectionEnd p s
  | .captureReadoutDone p => Sys2Proof.Machine.execCaptureReadoutDone p s
  | .sentinelBurstLead => Sys2Proof.Machine.execSentinelBurstLead s
  | .sentinelBurstStart => Sys2Proof.Machine.execSentinelBurstStart s
  | .burstDrainDone => Sys2Proof.Machine.execBurstDrainDone s
  | .wakePinEdge level => Sys2Proof.Machine.execWakePinEdge level s
  | .auxScanStart => Sys2Proof.Machine.execAuxScanStart s
  | .burnoutPulseEnd k rise => Sys2Proof.Machine.execBurnoutPulseEnd k rise s
  | .auxConversionEnd slot value => Sys2Proof.Machine.execAuxConversionEnd slot value s
  | .zoneUpdate mv => Sys2Proof.Machine.execZoneUpdate mv s
  | .vratioLow => Sys2Proof.Machine.execVratioLow s
  | .laneEdge l place uv => Sys2Proof.Machine.execLaneEdge l place uv s
  | .startSearchEnd e => Sys2Proof.Machine.execStartSearchEnd e s
  | .regressionFit c => Sys2Proof.Machine.execRegressionFit c s
  | .gateStale c => Sys2Proof.Machine.execGateStale c s
  | .syncEdgeTimeout k => Sys2Proof.Machine.execSyncEdgeTimeout k s
  | .lineEvent k => Sys2Proof.Machine.execLineEvent k s
  | .frameSync => Sys2Proof.Machine.execFrameSync s
  | .walkingPatternTest low high => Sys2Proof.Machine.execWalkingPatternTest low high s
  | .linePrecharge stat => Sys2Proof.Machine.execLinePrecharge stat s
  | .pchgFall e => Sys2Proof.Machine.execPchgFall e s
  | .shotFire e => Sys2Proof.Machine.execShotFire e s
  | .fireFall e => Sys2Proof.Machine.execFireFall e s
  | .candidateSearch e => Sys2Proof.Machine.execCandidateSearch e s
  | .finalSearch e => Sys2Proof.Machine.execFinalSearch e s
  | .isolationSequence e => Sys2Proof.Machine.execIsolationSequence e s
  | .diagnosticFiring e k => Sys2Proof.Machine.execDiagnosticFiring e k s
  | .shortTestStale => Sys2Proof.Machine.execShortTestStale s
  | .brewNop n => Sys2Proof.Machine.execBrewNop n s
  | .add n => Sys2Proof.Machine.execAdd n s
  | .sub n => Sys2Proof.Machine.execSub n s
  | .andW n => Sys2Proof.Machine.execAndW n s
  | .orW n => Sys2Proof.Machine.execOrW n s
  | .xor n => Sys2Proof.Machine.execXor n s
  | .shl n => Sys2Proof.Machine.execShl n s
  | .shra n => Sys2Proof.Machine.execShra n s
  | .shrl n => Sys2Proof.Machine.execShrl n s
  | .minW n => Sys2Proof.Machine.execMinW n s
  | .maxW n => Sys2Proof.Machine.execMaxW n s
  | .slt n => Sys2Proof.Machine.execSlt n s
  | .seq n => Sys2Proof.Machine.execSeq n s
  | .absW n => Sys2Proof.Machine.execAbsW n s
  | .add2 n => Sys2Proof.Machine.execAdd2 n s
  | .sub2 n => Sys2Proof.Machine.execSub2 n s
  | .movt n => Sys2Proof.Machine.execMovt n s
  | .movf n => Sys2Proof.Machine.execMovf n s
  | .clz n => Sys2Proof.Machine.execClz n s
  | .cmac n => Sys2Proof.Machine.execCmac n s
  | .cmsb n => Sys2Proof.Machine.execCmsb n s
  | .cmul n => Sys2Proof.Machine.execCmul n s
  | .dmac n => Sys2Proof.Machine.execDmac n s
  | .qmac n => Sys2Proof.Machine.execQmac n s
  | .mul32 n => Sys2Proof.Machine.execMul32 n s
  | .rdacc n => Sys2Proof.Machine.execRdacc n s
  | .accget n => Sys2Proof.Machine.execAccget n s
  | .accput n => Sys2Proof.Machine.execAccput n s
  | .ld16 n => Sys2Proof.Machine.execLd16 n s
  | .ld32 n => Sys2Proof.Machine.execLd32 n s
  | .ld64 n => Sys2Proof.Machine.execLd64 n s
  | .st16 n => Sys2Proof.Machine.execSt16 n s
  | .st32 n => Sys2Proof.Machine.execSt32 n s
  | .st64 n => Sys2Proof.Machine.execSt64 n s
  | .movi n => Sys2Proof.Machine.execMovi n s
  | .addi n => Sys2Proof.Machine.execAddi n s
  | .seta n => Sys2Proof.Machine.execSeta n s
  | .br n => Sys2Proof.Machine.execBr n s
  | .call n => Sys2Proof.Machine.execCall n s
  | .jr n => Sys2Proof.Machine.execJr n s
  | .dbnz n => Sys2Proof.Machine.execDbnz n s
  | .rpt n => Sys2Proof.Machine.execRpt n s
  | .setwsl n => Sys2Proof.Machine.execSetwsl n s
  | .ei n => Sys2Proof.Machine.execEi n s
  | .di n => Sys2Proof.Machine.execDi n s
  | .reti n => Sys2Proof.Machine.execReti n s
  | .racq n => Sys2Proof.Machine.execRacq n s
  | .ringCreditGranted n => Sys2Proof.Machine.execRingCreditGranted n s
  | .racqTimeout n => Sys2Proof.Machine.execRacqTimeout n s
  | .rcom n => Sys2Proof.Machine.execRcom n s
  | .rcomCopyDone n => Sys2Proof.Machine.execRcomCopyDone n s
  | .rrel n => Sys2Proof.Machine.execRrel n s
  | .halt n => Sys2Proof.Machine.execHalt n s
  | .wfi n => Sys2Proof.Machine.execWfi n s
  | .wfiWake n => Sys2Proof.Machine.execWfiWake n s
  | .swi n => Sys2Proof.Machine.execSwi n s
  | .interruptEntry n => Sys2Proof.Machine.execInterruptEntry n s
  | .nmiEntry n => Sys2Proof.Machine.execNmiEntry n s
  | .coreWatchdogExpiry n => Sys2Proof.Machine.execCoreWatchdogExpiry n s
  | .coreTimerExpiry n => Sys2Proof.Machine.execCoreTimerExpiry n s
  | .kick n => Sys2Proof.Machine.execKick n s
  | .doorbell n => Sys2Proof.Machine.execDoorbell n s
  | .alarmRaise n => Sys2Proof.Machine.execAlarmRaise n s
  | .dmaGo n c => Sys2Proof.Machine.execDmaGo n c s
  | .dmaDone n c => Sys2Proof.Machine.execDmaDone n c s
  | .streamRecordOffer n q => Sys2Proof.Machine.execStreamRecordOffer n q s
  | .spRpWrite n q => Sys2Proof.Machine.execSpRpWrite n q s
  | .coreAbortAccept n => Sys2Proof.Machine.execCoreAbortAccept n s
  | .memoryRead req target reached flips newer => Sys2Proof.Machine.execMemoryRead req target reached flips newer s
  | .writeCrcError ch sa req again => Sys2Proof.Machine.execWriteCrcError ch sa req again s
  | .patrolRead blk flips => Sys2Proof.Machine.execPatrolRead blk flips s
  | .repeatEntryExpiry blk ent => Sys2Proof.Machine.execRepeatEntryExpiry blk ent s
  | .refresh ch issued => Sys2Proof.Machine.execRefresh ch issued s
  | .mr4Poll ch doubled quadrupled => Sys2Proof.Machine.execMr4Poll ch doubled quadrupled s
  | .dqsOscillatorRead ch drift => Sys2Proof.Machine.execDqsOscillatorRead ch drift s
  | .retrainStep ch => Sys2Proof.Machine.execRetrainStep ch s
  | .retrainAttemptDone ch ok => Sys2Proof.Machine.execRetrainAttemptDone ch ok s
  | .memoryModeSwitch => Sys2Proof.Machine.execMemoryModeSwitch s
  | .priorityScrubDone ch => Sys2Proof.Machine.execPriorityScrubDone ch s
  | .datagramClose r => Sys2Proof.Machine.execDatagramClose r s
  | .flushTimeout r => Sys2Proof.Machine.execFlushTimeout r s
  | .ageLimitExpiry r => Sys2Proof.Machine.execAgeLimitExpiry r s
  | .datagramAgeExpiry x => Sys2Proof.Machine.execDatagramAgeExpiry x s
  | .frameBegin x => Sys2Proof.Machine.execFrameBegin x s
  | .frameComplete x => Sys2Proof.Machine.execFrameComplete x s
  | .pauseFrame x quanta => Sys2Proof.Machine.execPauseFrame x quanta s
  | .pfcFrame x enabled quanta => Sys2Proof.Machine.execPfcFrame x enabled quanta s
  | .pauseTimerExpiry x => Sys2Proof.Machine.execPauseTimerExpiry x s
  | .linkStalled x => Sys2Proof.Machine.execLinkStalled x s
  | .linkRecovered x => Sys2Proof.Machine.execLinkRecovered x s
  | .linkUp x => Sys2Proof.Machine.execLinkUp x s
  | .linkDown x remote => Sys2Proof.Machine.execLinkDown x remote s
  | .ringDrained r => Sys2Proof.Machine.execRingDrained r s
  | .alarmWindowClose => Sys2Proof.Machine.execAlarmWindowClose s
  | .blockClose r => Sys2Proof.Machine.execBlockClose r s
  | .blockFlushTimeout r => Sys2Proof.Machine.execBlockFlushTimeout r s
  | .blockVerifyDone r ok => Sys2Proof.Machine.execBlockVerifyDone r ok s
  | .engineResume e => Sys2Proof.Machine.execEngineResume e s
  | .crystalRunning cycles => Sys2Proof.Machine.execCrystalRunning cycles s
  | .xtalStartTimeout => Sys2Proof.Machine.execXtalStartTimeout s
  | .xtalLoss => Sys2Proof.Machine.execXtalLoss s
  | .aonPeriodMeasure ps => Sys2Proof.Machine.execAonPeriodMeasure ps s
  | .loopLockDeclared k => Sys2Proof.Machine.execLoopLockDeclared k s
  | .loopLossDeclared k why => Sys2Proof.Machine.execLoopLossDeclared k why s
  | .acquisitionTimeout k => Sys2Proof.Machine.execAcquisitionTimeout k s
  | .ppsEdge sub => Sys2Proof.Machine.execPpsEdge sub s
  | .ppsLossTimeout => Sys2Proof.Machine.execPpsLossTimeout s
  | .ppsRejectedReport => Sys2Proof.Machine.execPpsRejectedReport s
  | .timeStep => Sys2Proof.Machine.execTimeStep s
  | .slewComplete => Sys2Proof.Machine.execSlewComplete s
  | .dailyMean => Sys2Proof.Machine.execDailyMean s
  | .ppsOutRise => Sys2Proof.Machine.execPpsOutRise s
  | .ppsOutFall => Sys2Proof.Machine.execPpsOutFall s
  | .syncOutPulse => Sys2Proof.Machine.execSyncOutPulse s
  | .timeStateRecord => Sys2Proof.Machine.execTimeStateRecord s
  | .powerOnReset => Sys2Proof.Machine.execPowerOnReset s
  | .pinReset => Sys2Proof.Machine.execPinReset s
  | .resetNRelease => Sys2Proof.Machine.execResetNRelease s
  | .sramFillDone bad => Sys2Proof.Machine.execSramFillDone bad s
  | .imageValidationDone => Sys2Proof.Machine.execImageValidationDone s
  | .sectionsApplied => Sys2Proof.Machine.execSectionsApplied s
  | .trainingDone ok0 ok1 => Sys2Proof.Machine.execTrainingDone ok0 ok1 s
  | .dramFillDone bad0 bad1 => Sys2Proof.Machine.execDramFillDone bad0 bad1 s
  | .startupPassDone res widths steps => Sys2Proof.Machine.execStartupPassDone res widths steps s
  | .release => Sys2Proof.Machine.execRelease s
  | .watchdogExpiry => Sys2Proof.Machine.execWatchdogExpiry s
  | .wdogWarn => Sys2Proof.Machine.execWdogWarn s
  | .markedRestart => Sys2Proof.Machine.execMarkedRestart s
  | .suspendWake cs level => Sys2Proof.Machine.execSuspendWake cs level s
  | .suspTimerExpiry => Sys2Proof.Machine.execSuspTimerExpiry s
  | .suspendExitDone => Sys2Proof.Machine.execSuspendExitDone s
  | .dieTempUpdate temp => Sys2Proof.Machine.execDieTempUpdate temp s
  | .overTemp => Sys2Proof.Machine.execOverTemp s
  | .railBelowWarning rail level => Sys2Proof.Machine.execRailBelowWarning rail level s
  | .supplyOk rail => Sys2Proof.Machine.execSupplyOk rail s
  | .railBelowReset rail => Sys2Proof.Machine.execRailBelowReset rail s
  | .jtagInstruction extest => Sys2Proof.Machine.execJtagInstruction extest s
  | .calIntervalExpiry item unit => Sys2Proof.Machine.execCalIntervalExpiry item unit s
  | .calStepStart p raman => Sys2Proof.Machine.execCalStepStart p raman s
  | .calForceTimeout p raman => Sys2Proof.Machine.execCalForceTimeout p raman s
  | .calPassDone p raman res => Sys2Proof.Machine.execCalPassDone p raman res s
  | .tdcTableReady l widths => Sys2Proof.Machine.execTdcTableReady l widths s
  | .tdcSourceSwitch l => Sys2Proof.Machine.execTdcSourceSwitch l s
  | .tdcTableLoad l => Sys2Proof.Machine.execTdcTableLoad l s
  | .thresholdTrim l steps => Sys2Proof.Machine.execThresholdTrim l steps s
  | .railsAboveResetLevel => Sys2Proof.Machine.execRailsAboveResetLevel s
  | .ref10mEdge sub => Sys2Proof.Machine.execRef10mEdge sub s
  | .sdrvEdge k => Sys2Proof.Machine.execSdrvEdge k s
  | .gatedAccessTimeout => Sys2Proof.Machine.execGatedAccessTimeout s
  | .selfRefreshExit ch moved => Sys2Proof.Machine.execSelfRefreshExit ch moved s
  | .streamRecordWritten n q => Sys2Proof.Machine.execStreamRecordWritten n q s
  | .prbsBitError x => Sys2Proof.Machine.execPrbsBitError x s
  | .prbsCheckerResync x => Sys2Proof.Machine.execPrbsCheckerResync x s

end Sys2Proof.Machine
end

