-- ==== Sys2Proof/Machine/Step.lean ====
section
/-! DEFINITION. One step of the block: the command at the front of the queue, or one tick of the crystal when the queue is empty. -/
namespace Sys2Proof.Machine

/-- The queue is empty: one crystal tick passes, 25 ns (R440). Responses that wait for room leave where there is room, accesses and commits whose wait has
ended complete, the stages of start-up advance, and calibration of a lane that has reached its instant takes effect (R458, R503, R516). Copies of retired rows go a burst on (R358). DESIGN CHOICE, unsafe: log 2. -/
def State.idle (s : State) : State :=
  let s := ((((s.tick.flushResp).serveWaiting).runCommits).advStages).copyBursts
  s.settleLanes s.xu

/-- A step: the meaning of the command at the front, run with the queue's rest; on an empty queue, a tick. DESIGN CHOICE, unsafe: log 1.
DESIGN CHOICE, unsafe: log 20. -/
def step (s : State) : Host.Outcome State Fault Refusal :=
  match s.pending with
  | [] => .next s.idle
  | c :: rest => exec c { s with pending := rest }

/-- The state with the command that a word spells put at the front of the queue; unchanged where it spells none. -/
def State.withFetchWord (s : State) (nbits w : Nat) : State :=
  match decodeTableWord nbits w with
  | some c => { s with pending := c :: s.pending }
  | none => s

end Sys2Proof.Machine
end

