-- ==== Sys2Proof/Safety.lean ====
section
/-! DEFINITION. What counts as a safe run, the invariant of the block's plain data, and the terms in which the statements speak: what a
command does, what it leaves unchanged, when the command engine takes it, when a core issues a word. -/
namespace Sys2Proof.Machine

/-! Runs -/

/-- A step is safe when it gives a next state. -/
def Safe (o : Host.Outcome State Fault Refusal) : Prop := ∃ t, o = .next t

/-- A run of `n` steps from a state is safe. -/
def SafeRun : Nat → State → Prop
  | 0, _ => True
  | n + 1, s => ∃ t, step s = .next t ∧ SafeRun n t

/-! The invariant -/

/-- The register file is in its canonical form. -/
def State.regsWf (s : State) : Bool := spWf resetWord s.regs

/-- The stored words of every memory are in their canonical form. -/
def State.memWf (s : State) : Bool := spWf (memDflt s.mem.lost) s.mem.words

/-- The stored bytes of the flash are in their canonical form. -/
def State.flashWf (s : State) : Bool := spWf (fun _ => (255 : Byte)) s.image.flash

/-- No path has more than eight commands outstanding (R504), and the MGMT response queue holds at most 16 responses (R497). -/
def State.hostWf (s : State) : Prop :=
  (∀ p, (s.host.paths.get p).out.length ≤ 8) ∧ s.host.respQ.length ≤ 16

/-- The retention log holds at most 64 occurrences (R401), and a window tracks at most 512 codes (R399). -/
def State.alarmWf (s : State) : Prop := s.alarm.log.length ≤ 64 ∧ s.alarm.tracks.length ≤ 512

/-! What a command does -/

/-- The command completes: exec answers a next state, which is as `P` says. -/
def Does (c : Instr) (s : State) (P : State → Prop) : Prop := ∃ t, exec c s = .next t ∧ P t

/-- A host command completes at once: its effect leads to a state as `P` says, and its response is then delivered to its path (R503). -/
def Answers (c : Instr) (s : State) (p : Fin 9) (r : Resp) (P : State → Prop) : Prop :=
  ∃ u, exec c s = .next (u.answer p r true) ∧ P u

/-- The command completes: its effect leads to a state as `P` says, on which `f` then runs. -/
def Leads (c : Instr) (s : State) (f : State → State) (P : State → Prop) : Prop := ∃ u, exec c s = .next (f u) ∧ P u

/-- A host command as acceptance leaves it (R503, R504). -/
def State.taken (s : State) (p : Fin 9) (code : Nat) (tag : Byte) (addr data : Word) : State := (s.accept p code tag addr data).1

/-- The path, code, tag and address of a command that the command engine takes (R501). -/
def request : Instr → Option (Fin 9 × Nat × Byte × Word)
  | .read p tag addr => some (p, 1, tag, addr)
  | .write p tag addr _ => some (p, 2, tag, addr)
  | .snapshot p tag => some (p, 3, tag, 0)
  | .commit p tag => some (p, 4, tag, 0)
  | .abort p tag _ _ => some (p, 5, tag, 0)
  | .start p tag _ _ => some (p, 6, tag, 0)
  | .stop p tag _ _ => some (p, 7, tag, 0)
  | .setState p tag _ => some (p, 8, tag, 0)
  | .loadImage p tag addr _ => some (p, 9, tag, addr)
  | .flashRead p tag addr _ => some (p, 10, tag, addr)
  | .flashErase p tag addr _ => some (p, 11, tag, addr)
  | .flashWrite p tag addr _ => some (p, 12, tag, addr)
  | .retireRow p tag addr _ => some (p, 13, tag, addr)
  | .clearAlarm p tag => some (p, 14, tag, 0)
  | .fuseProgram p tag addr _ => some (p, 16, tag, addr)
  | .discard p tag _ => some (p, 2, tag, 0x110)
  | .cancel p tag => some (p, 2, tag, 0x110)
  | .timeArm p tag _ => some (p, 2, tag, 0x1013C)
  | .hostSoftReset p tag => some (p, 2, tag, 0x20014)
  | .sysWdogKick p tag _ => some (p, 2, tag, 0x20088)
  | .tlClear p tag _ => some (p, 2, tag, 0x304004)
  | .ptClear p tag _ => some (p, 2, tag, 0x342014)
  | .bankSwap p tag _ => some (p, 2, tag, 0x320020)
  | .calCmdCoherent p tag _ => some (p, 2, tag, 0x710004)
  | .calCmdRaman p tag _ => some (p, 2, tag, 0x710004)
  | .calCmdTdc p tag _ => some (p, 2, tag, 0x710004)
  | .calCmdThresh p tag _ => some (p, 2, tag, 0x710004)
  | _ => none

/-- The command engine takes a host command of this code: it runs, no other transaction goes first, the path has less than eight commands
outstanding and none with the tag, and the power state serves the command (R498, R501, R503, R504). -/
structure State.Takes (s : State) (p : Fin 9) (code : Nat) (tag : Byte) : Prop where
  up : s.engineUp = true
  room : (s.host.paths.get p).out.length < 8
  fresh : ∀ o ∈ (s.host.paths.get p).out, o.tag ≠ tag
  turn : s.turnOf p code tag = true
  served : servedIn code s.pwr = true

/-! Frames -/

/-- A part of the state. -/
inductive Part
  | pending | regs | time | loops | xtal | power | epoch | host | rings | links | alarm | engs | image | mem | ports | aux | zone | lidar
  | cores | cal | freeCtr
deriving DecidableEq, Repr

/-- A word of a ring's head or body (R376 – R378). -/
def State.ringWord (s : State) (l : Nat) : Prop :=
  (∃ (r : Fin 16) (w : Nat), l = s.areaLoc (headArea r) w) ∨ ∃ (r : Fin 16) (w : Nat), s.bodySize r ≠ 0 ∧ l = s.areaLoc (s.bodyArea r) w

/-- A word that a fibre port keeps: its position-state SRAM, and the product-state and capture areas of the DRAM (R133, R170, R174, R354). -/
def State.portWord (s : State) (l : Nat) : Prop :=
  (∃ (p : Fin 4) (w : Nat), l = sramLoc p w) ∨ ∃ sa, l = s.dramLoc sa ∧
    (sa < s.regionSize 0 ∨ (s.regionBase 2 ≤ sa ∧ sa < s.regionBase 2 + s.regionSize 2))

/-- The stored words at some locations, and the answers to reads of them that a requester has not yet used, are unchanged. -/
def State.sameWords (s t : State) (at_ : Nat → Prop) : Prop :=
  (∀ l, at_ l → t.cell l = s.cell l) ∧ ∀ a, at_ a.loc → (a ∈ t.mem.answers ↔ a ∈ s.mem.answers)

/-- A part is unchanged. The words of the rings belong to the rings, those that the fibre ports keep to the ports. -/
def State.same (s t : State) : Part → Prop
  | .pending => t.pending = s.pending
  | .regs => t.regs = s.regs
  | .time => t.time = s.time
  | .loops => t.loops = s.loops
  | .xtal => t.xtal = s.xtal
  | .power => t.power = s.power
  | .epoch => t.epoch = s.epoch
  | .host => t.host = s.host
  | .rings => t.rings = s.rings ∧ s.sameWords t fun (l : Nat) => s.ringWord l ∧ ¬ s.portWord l
  | .links => t.links = s.links
  | .alarm => t.alarm = s.alarm
  | .engs => t.engs = s.engs
  | .image => t.image = s.image
  | .mem => { t.mem with words := s.mem.words, answers := s.mem.answers } = s.mem ∧
      s.sameWords t fun (l : Nat) => ¬ s.ringWord l ∧ ¬ s.portWord l
  | .ports => t.ports = s.ports ∧ s.sameWords t fun (l : Nat) => s.portWord l ∧ ¬ s.ringWord l
  | .aux => t.aux = s.aux
  | .zone => t.zone = s.zone
  | .lidar => t.lidar = s.lidar
  | .cores => t.cores = s.cores
  | .cal => t.cal = s.cal
  | .freeCtr => t.freeCtr = s.freeCtr

/-- Every part but those named is unchanged. -/
def State.keeps (s t : State) (but : List Part) : Prop := ∀ q, q ∉ but → s.same t q

/-- Every register but those at the addresses named is unchanged. -/
def State.keepsRegs (s t : State) (but : List Nat) : Prop := ∀ a, a ∉ but → rfWord t.regs a = rfWord s.regs a

/-- What acceptance changes: the transaction leaves its queue and the command becomes outstanding on its path. Every part but the host's and
those named is unchanged, and of the rings only ring 12. -/
structure State.keepsTaken (s t : State) (p : Fin 9) (but : List Part) : Prop where
  parts : s.keeps t (.host :: .rings :: but)
  rings : ∀ r, r ≠ 12 → t.rings.get r = s.rings.get r
  words : .mem ∉ but → .ports ∉ but → t.mem = s.mem
  paths : ∀ q, q ≠ p → t.host.paths.get q = s.host.paths.get q
  host : t.host = { s.host with paths := t.host.paths, inQ := t.host.inQ, mgmtLast := t.host.mgmtLast, accepted := t.host.accepted }

/-- Every other fibre port is unchanged. -/
def State.otherPorts (s t : State) (p : Fin 4) : Prop := ∀ q, q ≠ p → t.ports.get q = s.ports.get q

/-- The latest entry of the retention log is this alarm, but for RING_HIGH of the rings that its own records fill (R397, R398, R401). -/
def State.alarmed (t : State) (code a0 a1 : Nat) : Prop :=
  ∃ later o rest, t.alarm.log = later ++ o :: rest ∧ (∀ x ∈ later, x.code = 0x0501) ∧ o.code = code ∧ o.a0 = a0 ∧ o.a1 = a1

/-- Every other ring is as it was, and so are the words of its head. -/
def State.otherRings (s t : State) (r : Fin 16) : Prop :=
  ∀ q, q ≠ r → t.rings.get q = s.rings.get q ∧ ∀ w, t.cell (s.areaLoc (headArea q) w) = s.cell (s.areaLoc (headArea q) w)

/-- The registers that show what becomes of the records of a ring (R34, R360, R384). -/
def ringRegs (r : Nat) : List Nat :=
  [(Fld.RING_SEQ_Next r).addr, (Fld.RING_LOST_LO_Lost r).addr, (Fld.RING_LOST_LO_Lost r).addr + 4, (Fld.UE_COUNT_PoisonReads 0).addr,
   (Fld.UE_COUNT_PoisonReads 1).addr, (Fld.UE_COUNT_PoisonReads 2).addr]

/-! Brew cores -/

/-- The next word of a core is `w`, and the core issues it without an error (R310, R321). -/
structure State.Issues (s : State) (n : Fin 16) (w : Nat) : Prop where
  live : s.canIssue n = true
  word : s.fetch n = (w, false)
  good : s.wordError n w = 0
  calm : (s.core n).errs = []

/-- The rows of the instruction set, each with the operation that its word contains (R307 – R309). -/
def brewRows (n : Fin 16) : List (Instr × BrewOp) :=
  [(.brewNop n, .comp 0), (.brewNop n, .ctl 0), (.add n, .comp 0x01), (.sub n, .comp 0x02), (.andW n, .comp 0x03), (.orW n, .comp 0x04),
    (.xor n, .comp 0x05), (.shl n, .comp 0x06), (.shra n, .comp 0x07), (.shrl n, .comp 0x08), (.minW n, .comp 0x09), (.maxW n, .comp 0x0A),
    (.slt n, .comp 0x0B), (.seq n, .comp 0x0C), (.absW n, .comp 0x0D), (.add2 n, .comp 0x0E), (.sub2 n, .comp 0x0F), (.movt n, .comp 0x10),
    (.movf n, .comp 0x11), (.clz n, .comp 0x12), (.cmac n, .comp 0x20), (.cmsb n, .comp 0x21), (.cmul n, .comp 0x22), (.dmac n, .comp 0x23),
    (.qmac n, .comp 0x24), (.mul32 n, .comp 0x25), (.rdacc n, .comp 0x28), (.accget n, .comp 0x29), (.accput n, .comp 0x2A)] ++
  [(.ld16 n, .mem 1), (.ld32 n, .mem 2), (.ld64 n, .mem 3), (.st16 n, .mem 4), (.st32 n, .mem 5), (.st64 n, .mem 6)] ++
  [(.movi n, .ctl 0x01), (.addi n, .ctl 0x02), (.seta n, .ctl 0x03), (.br n, .ctl 0x04), (.call n, .ctl 0x05), (.jr n, .ctl 0x06),
    (.dbnz n, .ctl 0x07), (.rpt n, .ctl 0x08), (.setwsl n, .ctl 0x09), (.ei n, .ctl 0x0A), (.di n, .ctl 0x0B), (.reti n, .ctl 0x0C),
    (.racq n, .ctl 0x0D), (.rcom n, .ctl 0x0E), (.rrel n, .ctl 0x0F), (.halt n, .ctl 0x10), (.wfi n, .ctl 0x11), (.swi n, .ctl 0x12)]

/-- Both memory slots of the word are NOP (R308). -/
def slotsIdle (w : Nat) : Bool := mOp (mSlot w false) == 0 && mOp (mSlot w true) == 0

/-- The core as the word issues: the results it is the first to see have landed (R311). -/
def State.before (s : State) (n : Fin 16) : CoreSt := (s.core n).advance

/-- A pointer value folded into the circular buffer of pointer p, where it has one (R301). -/
def CoreSt.folded (c : CoreSt) (p : Nat) (q : Int) : Word :=
  let k : Int := (c.a (32 + p)).toNat
  let b : Int := (c.a (48 + p)).toNat
  BitVec.ofInt 32 (if k = 0 then q else b + (q - b) % k)

/-- The address that a memory slot uses with its pointer at `p` (R301). -/
def CoreSt.used (c : CoreSt) (x : Nat) (p : Word) : Word :=
  if mMode x = 4 then c.folded (mN x) (p.toNat + (c.a (16 + mN x)).toInt) else p

/-- What the pointer of a memory slot holds after an access with it at `p` (R301). -/
def CoreSt.after (c : CoreSt) (x : Nat) (p : Word) : Word :=
  if mMode x = 1 then c.folded (mN x) (p.toNat + mSize (mOp x))
  else if mMode x = 2 then c.folded (mN x) (p.toNat - mSize (mOp x))
  else if mMode x = 3 then c.folded (mN x) (p.toNat + (c.a (16 + mN x)).toInt)
  else p

/-- A memory slot modifies its pointer (R301). -/
def moves (x : Nat) : Prop := mOp x ≠ 0 ∧ 1 ≤ mMode x ∧ mMode x ≤ 3

/-- The pointers of slots A and B as each finds them: slot B addresses through a pointer that slot A has modified (R303). -/
def CoreSt.pointers (c : CoreSt) (w : Nat) : Word × Word :=
  let xa := mSlot w false
  let xb := mSlot w true
  (c.a (mN xa), if mOp xa ≠ 0 ∧ mN xb = mN xa then c.after xa (c.a (mN xa)) else c.a (mN xb))

/-- The accesses of a word go where R301 says, slot A first (R303). -/
def State.addressed (s : State) (n : Fin 16) (w : Nat) : Prop :=
  let c := s.before n
  let xa := mSlot w false
  let xb := mSlot w true
  (c.accesses w).map Acc.addr =
    (if mOp xa = 0 then [] else [(c.used xa (c.pointers w).1).toNat]) ++ (if mOp xb = 0 then [] else [(c.used xb (c.pointers w).2).toNat])

/-- The next instruction finds the pointers that a word's slots modify as R301 says, slot B's after slot A's; and every other address register as it
was, where no earlier result lands in one. -/
def State.pointed (s : State) (n : Fin 16) (w : Nat) (t : State) : Prop :=
  let c := s.before n
  let xa := mSlot w false
  let xb := mSlot w true
  let finds := fun (p : Nat) (v : Word) => (t.core n).advance.addr.get (fin 63 p) = v
  (moves xb → finds (mN xb) (c.after xb (c.pointers w).2)) ∧
  (moves xa → ¬ moves xb ∨ mN xb ≠ mN xa → finds (mN xa) (c.after xa (c.pointers w).1)) ∧
  (c.flights = [] → cOp w = 0 → ∀ f, f < 64 → (moves xa → f ≠ mN xa) → (moves xb → f ≠ mN xb) → finds f (c.a f))

/-- The next instruction of the core reads `v` in the data register with this name (R299, R311). -/
def State.nextReads (s t : State) (n : Fin 16) (k : Nat) (v : Word) : Prop :=
  (t.core n).advance.w.get (fin 63 (physOf (s.before n).wsl k)) = v

/-- Every part but the registers and the cores, every other core and every register but those named is unchanged. -/
structure State.coreKeeps (s t : State) (n : Fin 16) (regs : List Nat) : Prop where
  parts : s.keeps t [.regs, .cores]
  regs : s.keepsRegs t regs
  others : ∀ m, m ≠ n → t.core m = s.core m

/-- A core without its results in flight, its place in the program with the handlers it has entered, and its slide. -/
def CoreSt.still (c : CoreSt) : CoreSt := { c with flights := [], pc := 0, wsl := 0, branch := none, rpt := none, kept := [], resume := none }

/-- The word that issues stands in the last delay slot of a RETI, whose target then restores the slide and IE (R319). -/
def CoreSt.returning (c : CoreSt) : Bool := match c.branch with | some (k, none) => decide (k ≤ 1) | _ => false

/-- What an instruction without a memory slot leaves unchanged: every part but the registers and the cores, every other core, every register
but those named, and of its own core all but the results in flight, the place in the program and the slide. -/
structure State.brewKeeps (s t : State) (n : Fin 16) (regs : List Nat) : Prop extends s.coreKeeps t n regs where
  own : (t.core n).still = (s.before n).still
  entered : (s.before n).returning = false → (t.core n).kept = (s.core n).kept ∧ (t.core n).resume = none

/-- The next instruction but one of the core reads `v` in the data register with this name (R304, R311). -/
def State.laterReads (s t : State) (n : Fin 16) (k : Nat) (v : Word) : Prop :=
  (t.core n).advance.advance.w.get (fin 63 (physOf (s.before n).wsl k)) = v

/-- The third instruction from here reads `v` in the data register with this name (R308, R311). -/
def State.thirdReads (s t : State) (n : Fin 16) (k : Nat) (v : Word) : Prop :=
  (t.core n).advance.advance.advance.w.get (fin 63 (physOf (s.before n).wsl k)) = v

/-- The instruction after next finds these halves in an accumulator (R304, R311). -/
def State.laterAcc (t : State) (n : Fin 16) (d : Nat) (v : Int × Int) : Prop := (t.core n).advance.advance.acc.get (fin 7 d) = v

/-- The instruction after next finds `v` in an address register (R309, R311). -/
def State.laterAddr (t : State) (n : Fin 16) (f : Nat) (v : Word) : Prop := (t.core n).advance.advance.addr.get (fin 63 f) = v

/-- Where flow goes on from a core outside delay slots and repeats (R309). -/
def CoreSt.plain (c : CoreSt) : Bool := c.branch.isNone && c.rpt.isNone

end Sys2Proof.Machine
end

