-- ==== Sys2Proof/Certificates/Slice0/Obligations.lean ====
section
/-! DEFINITION. The statements for the provers. -/
open Sys2Proof Sys2Proof.Machine

/-! Brew cores -/

/-- R307: sums, differences, logic and absolute value of data registers, in a word without memory slots. With m, a sum saturates.
The model's choice in it: log 71. -/
def Obligations.AluSumsAndLogic : Prop :=
  ∀ (s : State) (n : Fin 16) (w : Nat), s.Issues n w → slotsIdle w = true →
    let c := s.before n
    let a := c.get (cA w)
    let b := c.get (cB w)
    let does := fun (i : Instr) (v : Word) => Does i s fun t =>
      s.nextReads t n (cD w) v ∧ s.brewKeeps t n [(Fld.CORE_STATUS_Pc n).addr, (Fld.INT_SAVE_IE n).addr]
    (hasOp w (.comp 0x01) = true → does (.add n) (if cM w then BitVec.ofInt 32 (satS 32 (a.toInt + b.toInt)) else a + b)) ∧
    (hasOp w (.comp 0x02) = true → does (.sub n) (if cM w then BitVec.ofInt 32 (satS 32 (a.toInt - b.toInt)) else a - b)) ∧
    (hasOp w (.comp 0x03) = true → does (.andW n) (a &&& b)) ∧
    (hasOp w (.comp 0x04) = true → does (.orW n) (a ||| b)) ∧
    (hasOp w (.comp 0x05) = true → does (.xor n) (a ^^^ b)) ∧
    (hasOp w (.comp 0x0D) = true → does (.absW n) (if a = 0x80000000 then 0x7FFFFFFF else if a.toInt < 0 then -a else a)) ∧
    (hasOp w (.comp 0x0E) = true →
      does (.add2 n) (packHalves (sumHalf (cM w) (c.lo (cA w) + c.lo (cB w))) (sumHalf (cM w) (c.hi (cA w) + c.hi (cB w))))) ∧
    (hasOp w (.comp 0x0F) = true →
      does (.sub2 n) (packHalves (sumHalf (cM w) (c.lo (cA w) - c.lo (cB w))) (sumHalf (cM w) (c.hi (cA w) - c.hi (cB w)))))

/-- R307: shifts, comparisons, leading zeros and moves between data and address registers, in a word without memory slots. A shift takes its
count from Wb[4:0], or from the field b with m; a field of 32 or more gives an open value (log 15).
The model's choice in it: log 71. -/
def Obligations.AluShiftsAndComparisons : Prop :=
  ∀ (s : State) (n : Fin 16) (w : Nat), s.Issues n w → slotsIdle w = true →
    let c := s.before n
    let a := c.get (cA w)
    let b := c.get (cB w)
    let m := cM w
    let k := if m then cB w else b.toNat % 32
    let keep := fun (t : State) => s.brewKeeps t n [(Fld.CORE_STATUS_Pc n).addr, (Fld.INT_SAVE_IE n).addr]
    let does := fun (i : Instr) (v : Word) => Does i s fun t => s.nextReads t n (cD w) v ∧ keep t
    let lt := if m then decide (a.toNat < b.toNat) else decide (a.toInt < b.toInt)
    (hasOp w (.comp 0x06) = true → does (.shl n) (if k < 32 then a <<< k else Config.wideShift 0x06 a (cB w))) ∧
    (hasOp w (.comp 0x07) = true → does (.shra n) (if k < 32 then a.sshiftRight k else Config.wideShift 0x07 a (cB w))) ∧
    (hasOp w (.comp 0x08) = true → does (.shrl n) (if k < 32 then a >>> k else Config.wideShift 0x08 a (cB w))) ∧
    (hasOp w (.comp 0x09) = true → does (.minW n) (if lt then a else b)) ∧
    (hasOp w (.comp 0x0A) = true → does (.maxW n) (if lt then b else a)) ∧
    (hasOp w (.comp 0x0B) = true → does (.slt n) (if lt then 1 else 0)) ∧
    (hasOp w (.comp 0x0C) = true → does (.seq n) (if a = b then 1 else 0)) ∧
    (hasOp w (.comp 0x12) = true → ∀ z, z < 32 → a.getLsbD z = true → (∀ y, z < y → a.getLsbD y = false) → does (.clz n) (BitVec.ofNat 32 (31 - z))) ∧
    (hasOp w (.comp 0x12) = true → a = 0 → does (.clz n) 32) ∧
    (hasOp w (.comp 0x11) = true → does (.movf n) (c.addr.get (fin 63 (cA w)))) ∧
    (hasOp w (.comp 0x10) = true → Does (.movt n) s fun t => t.laterAddr n (cD w) a ∧ keep t)

/-- R304: products and accumulation on 40-bit halves with saturation, in a word without memory slots. An accumulating operation reads its
accumulator as forwarded from the one before it (R311). AccSat is set when a sum saturates, and is otherwise unchanged.
The model's choices in it: logs 71, 73. -/
def Obligations.AccumulatingProducts : Prop :=
  ∀ (s : State) (n : Fin 16) (w : Nat), s.Issues n w → slotsIdle w = true →
    let c := s.before n
    let d := cD w
    let ar := c.lo (cA w)
    let ai := c.hi (cA w)
    let br := c.lo (cB w)
    let bi := if cM w then -c.hi (cB w) else c.hi (cB w)
    let pr := ar * br - ai * bi
    let pi := ar * bi + ai * br
    let regs := [(Fld.CORE_STATUS_Pc n).addr, (Fld.INT_SAVE_IE n).addr, (Fld.CORE_FLAGS_AccSat n).addr]
    let flag := fun (t : State) (acted : Bool) =>
      t.rd (.CORE_FLAGS_AccSat n) = (if acted then 1 else s.rd (.CORE_FLAGS_AccSat n)) ∧ t.rd (.CORE_FLAGS_Poison n) = s.rd (.CORE_FLAGS_Poison n) ∧
        t.rd (.CORE_FLAGS_NmiActive n) = s.rd (.CORE_FLAGS_NmiActive n) ∧ t.rd (.CORE_FLAGS_AlarmErr n) = s.rd (.CORE_FLAGS_AlarmErr n)
    let adds := fun (i : Instr) (x y : Int) => Does i s fun t =>
      t.laterAcc n d ((sat40 (c.accIn d false + x)).1, (sat40 (c.accIn d true + y)).1) ∧
        flag t ((sat40 (c.accIn d false + x)).2 || (sat40 (c.accIn d true + y)).2) ∧ s.brewKeeps t n regs
    (hasOp w (.comp 0x20) = true → adds (.cmac n) pr pi) ∧
    (hasOp w (.comp 0x21) = true → adds (.cmsb n) (-pr) (-pi)) ∧
    (hasOp w (.comp 0x22) = true → Does (.cmul n) s fun t => t.laterAcc n d (pr, pi) ∧ flag t false ∧ s.brewKeeps t n regs) ∧
    (hasOp w (.comp 0x23) = true →
      let k := if cM w then c.hi (cB w) else br
      adds (.dmac n) (ar * k) (ai * k)) ∧
    (hasOp w (.comp 0x24) = true →
      let bh := c.hi (cB w)
      let sum := fun (e : Nat) (im : Bool) (x : Int) => if cM w then (x, false) else sat40 (c.accIn e im + x)
      Does (.qmac n) s fun t =>
        t.laterAcc n d ((sum d false (ar * br)).1, (sum d true (ar * bh)).1) ∧
          t.laterAcc n (d + 1) ((sum (d + 1) false (ai * br)).1, (sum (d + 1) true (ai * bh)).1) ∧
          flag t ((sum d false (ar * br)).2 || (sum d true (ar * bh)).2 || (sum (d + 1) false (ai * br)).2 || (sum (d + 1) true (ai * bh)).2) ∧
          s.brewKeeps t n regs) ∧
    (hasOp w (.comp 0x25) = true →
      let p : Int := if cM w then ((c.get (cA w)).toNat : Int) * (c.get (cB w)).toNat else (c.get (cA w)).toInt * (c.get (cB w)).toInt
      Does (.mul32 n) s fun t =>
        s.laterReads t n d (BitVec.ofInt 32 p) ∧ s.laterReads t n (d + 1) (BitVec.ofInt 32 (p / 2 ^ 32)) ∧ flag t false ∧ s.brewKeeps t n regs)

/-- R305: an accumulator read with rounding and saturation, its portions read and written, in a word without memory slots.
The model's choices in it: logs 71, 73. -/
def Obligations.AccumulatorMoves : Prop :=
  ∀ (s : State) (n : Fin 16) (w : Nat), s.Issues n w → slotsIdle w = true →
    let c := s.before n
    let x := c.acc.get (fin 7 (cA w))
    let old := c.acc.get (fin 7 (cD w))
    let v := (c.get (cA w)).toNat
    let b := cB w
    let half := fun (y : Int) => if b = 0 ∨ cM w = true then satS 16 (y / 2 ^ b) else satS 16 ((y + 2 ^ (b - 1)) / 2 ^ b)
    let keep := fun (t : State) => s.brewKeeps t n [(Fld.CORE_STATUS_Pc n).addr, (Fld.INT_SAVE_IE n).addr]
    (hasOp w (.comp 0x28) = true → Does (.rdacc n) s fun t => s.nextReads t n (cD w) (packHalves (ofS 16 (half x.1)) (ofS 16 (half x.2))) ∧ keep t) ∧
    (hasOp w (.comp 0x29) = true → b = 0 → Does (.accget n) s fun t => s.nextReads t n (cD w) (BitVec.ofInt 32 x.1) ∧ keep t) ∧
    (hasOp w (.comp 0x29) = true → b = 1 → Does (.accget n) s fun t => s.nextReads t n (cD w) (BitVec.ofInt 32 x.2) ∧ keep t) ∧
    (hasOp w (.comp 0x29) = true → b = 2 →
      Does (.accget n) s fun t => s.nextReads t n (cD w) (BitVec.ofNat 32 (ofS 8 (x.1 / 2 ^ 32) + ofS 8 (x.2 / 2 ^ 32) * 256)) ∧ keep t) ∧
    (hasOp w (.comp 0x2A) = true → c.flights = [] → Does (.accput n) s fun t =>
      t.laterAcc n (cD w) (if b = 0 then (toS 40 (ofS 40 old.1 / 2 ^ 32 * 2 ^ 32 + v), old.2)
        else if b = 1 then (old.1, toS 40 (ofS 40 old.2 / 2 ^ 32 * 2 ^ 32 + v))
        else (toS 40 (ofS 40 old.1 % 2 ^ 32 + v % 256 * 2 ^ 32), toS 40 (ofS 40 old.2 % 2 ^ 32 + v / 256 % 256 * 2 ^ 32))) ∧ keep t)

/-- R301 – R303: the addresses of the memory slots, and the pointers after a word that loads. R302, R308, R323: a load from data memory, alone in its word. The register is written after two more instructions have issued. A word
that reads POISONED is used, and sets Poison; the same for the answer of a bad read that the core has not yet used (log 97).
The model's choices in it: logs 7, 71, 97. -/
def Obligations.LoadsFromDataMemory : Prop :=
  ∀ (s : State) (n : Fin 16) (w : Nat), s.Issues n w → isCtl w = false →
    s.addressed n w ∧
    ((∀ x ∈ (s.before n).accesses w, x.addr < dataEnd) →
      (hasOp w (.mem 1) = true → Does (.ld16 n) s (s.pointed n w)) ∧
      (hasOp w (.mem 2) = true → Does (.ld32 n) s (s.pointed n w)) ∧
      (hasOp w (.mem 3) = true → Does (.ld64 n) s (s.pointed n w))) ∧
    ∀ x : Acc, cOp w = 0 → (s.before n).accesses w = [x] → x.addr < dataEnd →
      let l := sramLoc (coreSram n) (x.addr / 8)
      let k := (s.word l).kind
      let v := (s.fetchWord n l).1 / 2 ^ (8 * (x.addr % 8))
      let regs := [(Fld.CORE_STATUS_Pc n).addr, (Fld.INT_SAVE_IE n).addr]
      let gets := fun (i : Instr) (val : State → Prop) =>
        Does i s val ∧
        (s.answerOf n l = none → k = .clean → Does i s fun t => val t ∧ s.brewKeeps t n regs) ∧
        (s.answerOf n l = none → k = .poisoned → Does i s fun t => val t ∧ t.rd (.CORE_FLAGS_Poison n) = 1 ∧
          s.brewKeeps t n ([(Fld.CORE_FLAGS_Poison n).addr, (Fld.UE_COUNT_PoisonReads 2).addr] ++ regs)) ∧
        (s.answerOf n l ≠ none → Does i s fun t => val t ∧ t.rd (.CORE_FLAGS_Poison n) = 1 ∧ t.answerOf n l = none ∧
          t.mem = { s.mem with answers := t.mem.answers } ∧ s.brewKeeps { t with mem := s.mem } n ((Fld.CORE_FLAGS_Poison n).addr :: regs))
      (x.op = 1 → gets (.ld16 n) fun t => s.thirdReads t n x.r (BitVec.ofInt 32 (toS 16 v))) ∧
      (x.op = 2 → gets (.ld32 n) fun t => s.thirdReads t n x.r (BitVec.ofNat 32 v)) ∧
      (x.op = 3 → gets (.ld64 n) fun t => s.thirdReads t n x.r (BitVec.ofNat 32 v) ∧ s.thirdReads t n (x.r + 1) (BitVec.ofNat 32 (v / 2 ^ 32)))

/-- R301 – R303: the addresses of the memory slots, and the pointers after a word that stores. R302, R308, R341, R346: a store to data memory, alone in
its word: the word at the address the store computes takes the bytes, and every
other word of every memory is unchanged. A store narrower than the word merges with it, and leaves it poisoned where it was (R360).
The model's choices in it: logs 71, 97. -/
def Obligations.StoresToDataMemory : Prop :=
  ∀ (s : State) (n : Fin 16) (w : Nat), s.Issues n w → isCtl w = false →
    s.addressed n w ∧
    ((∀ x ∈ (s.before n).accesses w, x.addr < dataEnd) →
      (hasOp w (.mem 4) = true → Does (.st16 n) s (s.pointed n w)) ∧
      (hasOp w (.mem 5) = true → Does (.st32 n) s (s.pointed n w)) ∧
      (hasOp w (.mem 6) = true → Does (.st64 n) s (s.pointed n w))) ∧
    ∀ x : Acc, cOp w = 0 → (s.before n).accesses w = [x] → x.addr < dataEnd →
      let c := s.before n
      let l := sramLoc (coreSram n) (x.addr / 8)
      let old := s.fetchWord n l
      let merged := mergeBytes old.1 (x.addr % 8) (le x.size (c.get x.r).toNat)
      let stored := if old.2 then poisonWord l merged else encodeWord l merged
      let keep := fun (t : State) =>
        s.keeps { t with mem := s.mem } [.regs, .cores] ∧ (∀ k, k ≠ l → t.cell k = s.cell k) ∧
          t.mem = { s.mem with words := t.mem.words, answers := s.mem.answers.filter fun (a : Answer) => a.loc != l } ∧
          s.keepsRegs t [(Fld.CORE_STATUS_Pc n).addr, (Fld.INT_SAVE_IE n).addr, (Fld.UE_COUNT_PoisonReads 2).addr] ∧
          (∀ m, m ≠ n → t.core m = s.core m) ∧ (t.core n).still = c.still
      (x.op = 4 → Does (.st16 n) s fun t => t.cell l = stored ∧ keep t) ∧
      (x.op = 5 → Does (.st32 n) s fun t => t.cell l = stored ∧ keep t) ∧
      (x.op = 6 → Does (.st64 n) s fun t => t.cell l = encodeWord l ((c.get x.r).toNat + 2 ^ 32 * (c.get (x.r + 1)).toNat) ∧ keep t)

/-- R309: immediates, address registers, the slide, the interrupt enable, SWI. In the last delay slot of a RETI the return restores the slide
and IE after them.
The model's choices in it: logs 71, 72. -/
def Obligations.ImmediatesAndEnables : Prop :=
  ∀ (s : State) (n : Fin 16) (w : Nat), s.Issues n w →
    let c := s.before n
    let regs := [(Fld.CORE_STATUS_Pc n).addr, (Fld.INT_SAVE_IE n).addr]
    (hasOp w (.ctl 0x01) = true → Does (.movi n) s fun t => s.nextReads t n (bits w 56 51) (BitVec.ofNat 32 (bits w 31 0)) ∧ s.brewKeeps t n regs) ∧
    (hasOp w (.ctl 0x02) = true → Does (.addi n) s fun t =>
      s.nextReads t n (bits w 56 51) (c.get (bits w 50 45) + BitVec.ofNat 32 (bits w 31 0)) ∧ s.brewKeeps t n regs) ∧
    (hasOp w (.ctl 0x03) = true → Does (.seta n) s fun t => t.laterAddr n (bits w 56 51) (BitVec.ofNat 32 (bits w 31 0)) ∧ s.brewKeeps t n regs) ∧
    (hasOp w (.ctl 0x09) = true → Does (.setwsl n) s fun t =>
      (t.core n).wsl = (if c.returning then s.rd (.INT_SAVE_EWSL n) else bits w 4 0) ∧ s.brewKeeps t n regs) ∧
    (hasOp w (.ctl 0x0A) = true → Does (.ei n) s fun t => t.rd (.INT_SAVE_IE n) = 1 ∧ s.brewKeeps t n regs) ∧
    (hasOp w (.ctl 0x0B) = true → Does (.di n) s fun t =>
      t.rd (.INT_SAVE_IE n) = (if c.returning then 1 else 0) ∧ s.brewKeeps t n regs) ∧
    (hasOp w (.ctl 0x12) = true → Does (.swi n) s fun t =>
      bit (t.rd (.INT_PENDING_Sources n)) 14 = true ∧ (∀ k, k ≠ 14 → k < 16 → bit (t.rd (.INT_PENDING_Sources n)) k = bit (s.rd (.INT_PENDING_Sources n)) k) ∧
        s.brewKeeps t n ((Fld.INT_PENDING_Sources n).addr :: regs))

/-- R309, R315, R316, R319: where a core goes on after a word that does not branch, whatever the word computes, loads or stores: the next index,
through delay slots to their target, through a RETI to EPC with the slide and IE restored, through the words and iterations of a repeat. A BR whose
condition fails and a DBNZ that counts to zero do not branch. Of the words with memory slots, those that store to the local I/O are left to the
statements of the registers they write: such a store can raise an error. A NOP word changes nothing else.
The model's choices in it: logs 37, 71, 72. -/
def Obligations.FlowThroughSlotsAndRepeats : Prop :=
  ∀ (s : State) (n : Fin 16) (w : Nat), s.Issues n w →
    let c := s.before n
    let next := (c.pc + 1) % 8192
    let slide := if isCtl w = true ∧ kOp w = 0x09 then bits w 4 0 else c.wsl
    let a := c.get (bits w 50 45)
    let stays := if isCtl w = true then
        kOp w ∈ [0x00, 0x01, 0x02, 0x03, 0x09, 0x0A, 0x0B, 0x0F, 0x10, 0x11, 0x12] ∨ (kOp w = 0x04 ∧ brHolds (bits w 56 54) a.toInt = false) ∨
          (kOp w = 0x07 ∧ a = 1)
      else ∀ x ∈ c.accesses w, x.addr < dataEnd ∨ mStore x.op = false
    let goes := fun (t : State) =>
      let d := t.core n
      (c.plain = true → d.pc = next ∧ d.wsl = slide ∧ d.branch = none ∧ d.rpt = none) ∧
      (∀ k g, c.branch = some (k, g) → 1 < k → d.pc = next ∧ d.branch = some (k - 1, g) ∧ d.wsl = slide) ∧
      (∀ k g, c.branch = some (k, some g) → k ≤ 1 → d.pc = g % 8192 ∧ d.branch = none ∧ d.wsl = slide) ∧
      (∀ k, c.branch = some (k, none) → k ≤ 1 →
        d.pc = s.rd (.INT_SAVE_EPC n) ∧ d.wsl = s.rd (.INT_SAVE_EWSL n) ∧ t.rd (.INT_SAVE_IE n) = 1 ∧ d.branch = none) ∧
      (∀ r, c.branch = none → c.rpt = some r → r.at_ + 1 < r.words → d.pc = next ∧ d.rpt = some { r with at_ := r.at_ + 1 } ∧ d.wsl = slide) ∧
      (∀ r, c.branch = none → c.rpt = some r → r.words ≤ r.at_ + 1 → 1 < r.left →
        d.pc = r.first ∧ d.rpt = some { r with at_ := 0, left := r.left - 1 } ∧ d.wsl = (slide + r.step) % 32) ∧
      (∀ r, c.branch = none → c.rpt = some r → r.words ≤ r.at_ + 1 → r.left ≤ 1 → d.pc = next ∧ d.rpt = none ∧ d.wsl = (slide + r.step) % 32)
    (stays → ∀ i op, (i, op) ∈ brewRows n → hasOp w op = true → Does i s goes) ∧
    (hasOp w (.ctl 0x00) = true ∨ (hasOp w (.comp 0x00) = true ∧ slotsIdle w = true) → Does (.brewNop n) s fun t =>
      s.brewKeeps t n [(Fld.CORE_STATUS_Pc n).addr, (Fld.INT_SAVE_IE n).addr] ∧ (t.core n).flights = c.flights ∧ goes t)

/-- R309, R315, R319: branches with two delay slots, the link of CALL, the count of DBNZ, the block of RPT, the return from an interrupt.
The model's choices in it: logs 71, 72, 74. -/
def Obligations.BranchesAndRepeats : Prop :=
  ∀ (s : State) (n : Fin 16) (w : Nat), s.Issues n w →
    let c := s.before n
    let next := (c.pc + 1) % 8192
    let keep := fun (t : State) => s.brewKeeps t n [(Fld.CORE_STATUS_Pc n).addr, (Fld.INT_SAVE_IE n).addr]
    let takes := fun (t : State) (g : Option Nat) => (t.core n).pc = next ∧ (t.core n).branch = some (2, g) ∧ (t.core n).wsl = c.wsl ∧ keep t
    let a := c.get (bits w 50 45)
    let holds := match bits w 56 54 with
      | 0 => true
      | 1 => a == 0
      | 2 => a != 0
      | 3 => decide (a.toInt < 0)
      | 4 => decide (0 ≤ a.toInt)
      | 5 => decide (0 < a.toInt)
      | _ => decide (a.toInt ≤ 0)
    (hasOp w (.ctl 0x04) = true → holds = true → Does (.br n) s fun t => takes t (some (bits w 12 0))) ∧
    (hasOp w (.ctl 0x04) = true → holds = false → c.branch = none → c.rpt = none → Does (.br n) s fun t =>
      (t.core n).pc = next ∧ (t.core n).branch = none ∧ keep t) ∧
    (hasOp w (.ctl 0x05) = true → Does (.call n) s fun t =>
      takes t (some (bits w 12 0)) ∧ s.nextReads t n (bits w 56 51) (BitVec.ofNat 32 ((c.pc + 3) % 8192))) ∧
    (hasOp w (.ctl 0x06) = true → Does (.jr n) s fun t => takes t (some (a.toNat % 8192))) ∧
    (hasOp w (.ctl 0x07) = true → a ≠ 1 → Does (.dbnz n) s fun t => takes t (some (bits w 12 0)) ∧ s.nextReads t n (bits w 50 45) (a - 1)) ∧
    (hasOp w (.ctl 0x07) = true → a = 1 → c.branch = none → c.rpt = none → Does (.dbnz n) s fun t =>
      (t.core n).pc = next ∧ (t.core n).branch = none ∧ s.nextReads t n (bits w 50 45) 0 ∧ keep t) ∧
    (hasOp w (.ctl 0x08) = true →
      let words := bits w 56 52 + 1
      let count := if bit w 51 then a.toNat else bits w 41 32 + 1
      Does (.rpt n) s fun t =>
        (count = 0 → (t.core n).pc = (c.pc + 1 + words) % 8192 ∧ (t.core n).rpt = c.rpt) ∧
        (0 < count → (t.core n).pc = next ∧ (t.core n).rpt = some ⟨next, words, 0, count, bits w 31 29⟩) ∧ keep t) ∧
    (hasOp w (.ctl 0x0C) = true → Does (.reti n) s fun t => takes t none)

/-- R329, R330: the ring port. RACQ refuses while credit is held, for a bad size, for a ring that does not run; it grants where the head has
room and otherwise waits until Timeout. RCOM without credit and with a bad header completes at once, with a good header it waits for its copy;
RREL releases.
The model's choices in it: logs 71, 74, 75. -/
def Obligations.RingPortRequests : Prop :=
  ∀ (s : State) (n : Fin 16) (w : Nat), s.Issues n w →
    let c := s.before n
    let phys := physOf c.wsl (bits w 56 51)
    let r := bits w 44 41
    let size := (c.get (bits w 50 45)).toNat
    let held := s.on (.RING_STATUS_Held n)
    let badSize := size % 8 ≠ 0 ∨ size < 16 ∨ 8 * s.rd (.CORE_RING_MaxLen n) < size
    let runs := s.rd (.RING_STATE_State r) = 1
    let regs := [(Fld.CORE_STATUS_Pc n).addr, (Fld.INT_SAVE_IE n).addr, (Fld.RING_STATUS_Held n).addr]
    let lost := s.rd (.RING_STATUS_Ring n)
    let done := fun (t : State) (v : Nat) =>
      (t.core n).advance.w.get (fin 63 phys) = BitVec.ofNat 32 v ∧ t.rd (.RING_STATUS_Last n) = v ∧ (t.core n).wait = none ∧
        (t.core n).deadline = none
    (hasOp w (.ctl 0x0D) = true → held = true → Does (.racq n) s fun t => done t 2 ∧ s.coreKeeps t n regs) ∧
    (hasOp w (.ctl 0x0D) = true → held = false → badSize → Does (.racq n) s fun t => done t 3 ∧ s.coreKeeps t n regs) ∧
    (hasOp w (.ctl 0x0D) = true → held = false → ¬ badSize → ¬ runs → Does (.racq n) s fun t => done t 4 ∧ s.coreKeeps t n regs) ∧
    (hasOp w (.ctl 0x0D) = true → held = false → ¬ badSize → runs → s.headRoom (fin 15 r) size = true → Does (.racq n) s fun t =>
      done t 0 ∧ t.on (.RING_STATUS_Held n) = true ∧ t.rd (.RING_STATUS_Ring n) = r ∧ t.rd (.RING_STATUS_Size n) = size / 8 ∧ s.coreKeeps t n regs) ∧
    (hasOp w (.ctl 0x0D) = true → held = false → ¬ badSize → runs → s.headRoom (fin 15 r) size = false → Does (.racq n) s fun t =>
      (t.core n).wait = some (.credit r size phys) ∧ (t.core n).pc = c.pc ∧ (t.core n).w = c.w ∧
        (t.core n).deadline = some ((s.core n).resume.getD (s.xt + s.rd (.CORE_RING_Timeout n) * 10000)) ∧ s.coreKeeps t n regs) ∧
    (hasOp w (.ctl 0x0E) = true → held = false → Does (.rcom n) s fun t => done t 5 ∧ s.coreKeeps t n regs) ∧
    (hasOp w (.ctl 0x0E) = true → held = true →
      let b := ((s.updCore n CoreSt.advance).rcomBytes n w).1
      let good := leAt b 2 2 = s.rd (.RING_STATUS_Size n) ∧
        ((s.rd (.RING_STATUS_Ring n) = 7 ∧ 0x0400 ≤ leAt b 0 2 ∧ leAt b 0 2 ≤ 0x04FF) ∨
          (s.rd (.RING_STATUS_Ring n) = 9 ∧ 0x0680 ≤ leAt b 0 2 ∧ leAt b 0 2 ≤ 0x06FF))
      Does (.rcom n) s fun t =>
        (good → (t.core n).wait = some (.copy phys) ∧ (t.core n).pc = c.pc ∧ t.on (.RING_STATUS_Held n) = true) ∧
        (¬ good → done t 6 ∧ t.on (.RING_STATUS_Held n) = false ∧ t.rd64 (.RING_LOST_LO_Lost lost) = (s.rd64 (.RING_LOST_LO_Lost lost) + 1) % 2 ^ 64 ∧
          t.rd (.RING_SEQ_Next lost) = (s.rd (.RING_SEQ_Next lost) + 1) % 2 ^ 32 ∧
          s.coreKeeps { t with rings := s.rings } n
            (regs ++ [(Fld.RING_LOST_LO_Lost lost).addr, (Fld.RING_LOST_LO_Lost lost).addr + 4, (Fld.RING_SEQ_Next lost).addr]))) ∧
    (hasOp w (.ctl 0x0F) = true → Does (.rrel n) s fun t =>
      t.on (.RING_STATUS_Held n) = false ∧ t.rd (.RING_STATUS_Last n) = s.rd (.RING_STATUS_Last n) ∧ s.brewKeeps t n regs)

/-- R329, R330: the ends of a ring-port wait: a grant, a ring stopped meanwhile, the timeout with its lost record, or with the credit where the
head has room by then, and the end of a copy, whose record takes the ring's next sequence and is the last of the ring's head.
The model's choices in it: logs 4, 72, 75. -/
def Obligations.RingPortWaits : Prop :=
  ∀ (s : State) (n : Fin 16) (phys : Nat), (s.core n).errs = [] → s.locked 1 = true →
    let done := fun (t : State) (v : Nat) =>
      (t.core n).advance.w.get (fin 63 phys) = BitVec.ofNat 32 v ∧ t.rd (.RING_STATUS_Last n) = v ∧ (t.core n).wait = none ∧ (t.core n).deadline = none
    let regs := [(Fld.INT_SAVE_IE n).addr, (Fld.RING_STATUS_Held n).addr]
    (∀ r size, (s.core n).wait = some (.credit r size phys) → r < 16 →
      (s.rd (.RING_STATE_State r) = 1 → s.headRoom (fin 15 r) size = true → Does (.ringCreditGranted n) s fun t =>
        done t 0 ∧ t.on (.RING_STATUS_Held n) = true ∧ t.rd (.RING_STATUS_Ring n) = r ∧ s.coreKeeps t n regs) ∧
      (s.rd (.RING_STATE_State r) ≠ 1 → Does (.ringCreditGranted n) s fun t =>
        done t 4 ∧ t.on (.RING_STATUS_Held n) = s.on (.RING_STATUS_Held n) ∧ s.coreKeeps t n regs) ∧
      (∀ d, (s.core n).deadline = some d → s.due d = true → s.rd (.RING_STATE_State r) = 1 → s.headRoom (fin 15 r) size = true →
        Does (.racqTimeout n) s fun t => done t 0 ∧ t.on (.RING_STATUS_Held n) = true ∧ t.rd (.RING_STATUS_Ring n) = r ∧ s.coreKeeps t n regs) ∧
      (∀ d, (s.core n).deadline = some d → s.due d = true → s.rd (.RING_STATE_State r) = 1 → s.headRoom (fin 15 r) size = false →
        Does (.racqTimeout n) s fun t =>
        done t 1 ∧ t.rd64 (.RING_LOST_LO_Lost r) = (s.rd64 (.RING_LOST_LO_Lost r) + 1) % 2 ^ 64 ∧
          t.rd (.RING_SEQ_Next r) = (s.rd (.RING_SEQ_Next r) + 1) % 2 ^ 32 ∧
          (∀ q : Fin 16, q.val ≠ r → t.rings.get q = s.rings.get q) ∧
          s.coreKeeps { t with rings := s.rings } n (regs ++ [(Fld.RING_LOST_LO_Lost r).addr, (Fld.RING_LOST_LO_Lost r).addr + 4, (Fld.RING_SEQ_Next r).addr]))) ∧
    ((s.core n).wait = some (.copy phys) → Does (.rcomCopyDone n) s fun t =>
      (t.core n).wait = none ∧ t.on (.RING_STATUS_Held n) = false ∧ t.rd (.RING_STATUS_Last n) = 0) ∧
    ((s.core n).wait = some (.copy phys) →
      let w := (s.fetch n).1
      let b := s.rcomBytes n w
      let k : Fin 16 := fin 15 (s.rd (.RING_STATUS_Ring n))
      let free := s.wr (.RING_STATUS_Held n) 0
      let record := b.1.take 4 ++ le 2 s.curEpoch ++ le 2 (Nat.lor (leAt b.1 6 2) (if b.2 || s.on (.CORE_FLAGS_Poison n) then 256 else 0)) ++ b.1.drop 8
      5 < k.val → k.val ≠ 15 → s.rd (.RING_STATE_State k) = 1 → s.bodySize k = 0 → free.headRoom k record.length = true →
      Leads (.rcomCopyDone n) s (fun u => (((u.pump k).pump 8).portDone n phys 0).takeErr n) fun u =>
        ∃ v : State, u = v.putHead k ⟨s.seqOf k, record, s.xt⟩ ∧ (v.rings.get k).head = (s.rings.get k).head ∧
          (v.rings.get k).headAt = (s.rings.get k).headAt ∧ v.rd (.RING_SEQ_Next k) = (s.rd (.RING_SEQ_Next k) + 1) % 2 ^ 32 ∧
          v.rd64 (.RING_LOST_LO_Lost k) = s.rd64 (.RING_LOST_LO_Lost k) ∧ v.on (.RING_STATUS_Held n) = false)

/-- R309, R318 – R321, R337: sleeping and waking, the entry to an interrupt and to the NMI, a fault, the acceptance of an abort.
The model's choices in it: logs 4, 72, 74, 78. -/
def Obligations.SleepAndEntries : Prop :=
  ∀ (s : State) (n : Fin 16),
    let c := s.core n
    let ready := s.takeable n
    (∀ w, s.Issues n w → hasOp w (.ctl 0x10) = true → Does (.halt n) s fun t =>
      t.coreState n = 3 ∧ s.brewKeeps t n [(Fld.CORE_STATUS_Pc n).addr, (Fld.INT_SAVE_IE n).addr]) ∧
    (∀ w, s.Issues n w → hasOp w (.ctl 0x11) = true → Does (.wfi n) s fun t =>
      t.coreState n = (if ready = 0 then 2 else 1) ∧ s.brewKeeps t n [(Fld.CORE_STATUS_Pc n).addr, (Fld.INT_SAVE_IE n).addr]) ∧
    (s.locked 1 = true → s.coreState n = 2 → ready ≠ 0 → Does (.wfiWake n) s fun t =>
      t.coreState n = 1 ∧ t.core n = c ∧ s.coreKeeps t n [(Fld.CORE_STATUS_Pc n).addr]) ∧
    (s.coreLive n = true → s.intsOn n = true → c.branch = none → c.rpt = none →
      ∀ k, k < 16 → bit ready k = true → (∀ j, j < k → bit ready j = false) → Does (.interruptEntry n) s fun t =>
        t.rd (.INT_SAVE_EPC n) = c.pc % 8192 ∧ t.rd (.INT_SAVE_EWSL n) = c.wsl % 32 ∧ t.intsOn n = false ∧
          (t.core n).pc = (s.rd (.INT_VECBASE_VecBase n) + 4 * k) % 8192 ∧ t.coreState n = 1 ∧ (t.core n).flights = [] ∧ (t.core n).wait = none ∧
          (t.core n).w = c.advance.advance.advance.w ∧ (t.core n).acc = c.advance.advance.advance.acc ∧
          (t.core n).addr = c.advance.advance.advance.addr ∧ (t.core n).deadline = none ∧
          (∀ d, c.deadline = some d → (t.core n).kept = (c.pc, some d) :: c.kept) ∧
          (c.deadline = none → (t.core n).kept = (c.pc, c.resume) :: c.kept) ∧
          t.rd (.INT_SAVE_Cause n) = s.rd (.INT_SAVE_Cause n) ∧ s.coreKeeps t n [(Fld.CORE_STATUS_Pc n).addr, (Fld.INT_SAVE_IE n).addr]) ∧
    (∀ e es, c.errs = e :: es → e < 16 → s.coreLive n = true → s.nmiActive n = false → e ≠ 6 → Does (.nmiEntry n) s fun t =>
      t.rd (.INT_SAVE_EPC n) = c.pc % 8192 ∧ t.rd (.INT_SAVE_Cause n) = e ∧ t.nmiActive n = true ∧ t.rd (.CORE_STATUS_Cause n) = e ∧
        (t.core n).pc = (s.rd (.INT_VECBASE_VecBase n) + 64) % 8192 ∧ (t.core n).errs = es ∧ t.coreState n = 1 ∧
        s.coreKeeps t n [(Fld.CORE_STATUS_Pc n).addr, (Fld.INT_SAVE_IE n).addr, (Fld.CORE_FLAGS_AccSat n).addr]) ∧
    (∀ w e, c.errs = [] → s.canIssue n = true → s.fetch n = (w, false) → s.wordError n w = e → e ≠ 0 → e < 6 → s.nmiActive n = false →
      Does (.nmiEntry n) s fun t => t.rd (.INT_SAVE_EPC n) = c.pc % 8192 ∧ t.rd (.INT_SAVE_Cause n) = e ∧ t.nmiActive n = true ∧
        (t.core n).pc = (s.rd (.INT_VECBASE_VecBase n) + 64) % 8192 ∧
        s.coreKeeps t n [(Fld.CORE_STATUS_Pc n).addr, (Fld.INT_SAVE_IE n).addr, (Fld.CORE_FLAGS_AccSat n).addr]) ∧
    (∀ e es, c.errs = e :: es → s.coreLive n = true → s.nmiActive n = true → Does (.nmiEntry n) s fun t =>
      t.coreState n = 4 ∧ t.rd (.CORE_STATUS_Cause n) = 7 ∧ t.alarmed 0x0301 n 7 ∧ (t.core n).aborting = c.aborting) ∧
    (c.errs = [] → s.canIssue n = true → (s.fetch n).2 = true → s.nmiActive n = false → Does (.nmiEntry n) s fun t =>
      t.coreState n = 4 ∧ t.rd (.CORE_STATUS_Cause n) = 6 ∧ t.alarmed 0x0301 n 6 ∧ (t.core n).aborting = c.aborting) ∧
    (c.aborting = true → c.branch = none → c.rpt = none → Does (.coreAbortAccept n) s fun t =>
      t.coreState n = 0 ∧ (t.core n).aborting = false ∧ (t.core n).wait = none ∧ (t.core n).w = c.w ∧ t.on (.RING_STATUS_Held n) = false ∧
        (∀ k : Fin 4, t.on (.DMA_STATUS_Busy n k) = false ∧ (t.core n).dma.get k = none ∧
          ((t.core n).sp.get k).offered = [] ∧ ((t.core n).sp.get k).accepted = (c.sp.get k).accepted))

/-- R318, R322, R332: the watchdog and the timer of a core, and its stores to SIGNAL and ALARM_RAISE, each alone in its word.
The model's choices in it: logs 4, 71, 77. -/
def Obligations.CoreTimersAndSignals : Prop :=
  ∀ (s : State) (n : Fin 16),
    let c := s.core n
    let wdog := s.rd (.CORE_CTRL_Wdog n)
    let period := s.rd (.TIMER_Period n)
    (wdog ≠ 0 → s.coreLive n = true → c.errs = [] → s.nmiActive n = false → s.due (c.wdogFrom + wdog * 100000) = true →
      Does (.coreWatchdogExpiry n) s fun t => t.rd (.INT_SAVE_Cause n) = 5 ∧ t.nmiActive n = true ∧ (t.core n).wdogFrom = s.xt ∧
        (t.core n).pc = (s.rd (.INT_VECBASE_VecBase n) + 64) % 8192 ∧
        s.coreKeeps t n [(Fld.CORE_STATUS_Pc n).addr, (Fld.INT_SAVE_IE n).addr, (Fld.CORE_FLAGS_AccSat n).addr]) ∧
    (period ≠ 0 → s.due (c.timerFrom + period * 1000) = true → s.locked 1 = true → Does (.coreTimerExpiry n) s fun t =>
      bit (t.rd (.INT_PENDING_Sources n)) 8 = true ∧ t.core n = { c with timerFrom := c.timerFrom + period * 1000 } ∧
        s.coreKeeps t n [(Fld.INT_PENDING_Sources n).addr]) ∧
    (∀ w x v, s.Issues n w → isCtl w = false → cOp w = 0 → (s.before n).accesses w = [x] → x.op = 5 → (s.before n).get x.r = v →
      (x.addr = 0x70310 → bit v.toNat 0 = true → Does (.kick n) s fun t =>
        (t.core n).wdogFrom = s.xt ∧ (bit (s.rd .SYS_WDOG_CORES_CoreMask) n = true → t.power.wdogFrom = s.xt ∧ t.power.wdogWarned = false) ∧
          (bit (s.rd .SYS_WDOG_CORES_CoreMask) n = false → t.power = s.power)) ∧
      (x.addr = 0x70310 → 65536 ≤ v.toNat → Does (.doorbell n) s fun t =>
        ∀ m : Fin 16, m ≠ n → bit (t.rd (.INT_PENDING_Sources m)) 9 = (bit (s.rd (.INT_PENDING_Sources m)) 9 || bit v.toNat (16 + m))) ∧
      (x.addr = 0x70328 → 0xF000 ≤ v.toNat % 65536 → Does (.alarmRaise n) s fun t =>
        t.alarmed (v.toNat % 65536) (s.rd (.ALARM_ARG0_Arg n)) (s.rd (.ALARM_ARG1_Arg n))) ∧
      (x.addr = 0x70328 → v.toNat % 65536 < 0xF000 → Does (.alarmRaise n) s fun t =>
        t.on (.CORE_FLAGS_AlarmErr n) = true ∧ t.alarm = s.alarm ∧ s.keeps t [.regs, .cores]))

/-- R318, R324, R325, R327: the DMA channels and stream ports of a core.
The model's choices in it: logs 4, 10. -/
def Obligations.DmaAndStreamPorts : Prop :=
  ∀ (s : State) (n : Fin 16),
    (∀ w x, ∀ k : Fin 4, s.Issues n w → isCtl w = false → cOp w = 0 → (s.before n).accesses w = [x] → x.op = 5 → x.addr = 0x70114 + 0x20 * k.val →
      bit ((s.before n).get x.r).toNat 0 = true →
      (s.on (.DMA_STATUS_Busy n k) = true → Does (.dmaGo n k) s fun t =>
        t.rd (.DMA_STATUS_Error n k) = 7 ∧ t.on (.DMA_STATUS_Busy n k) = true ∧ (t.core n).dma = (s.core n).dma) ∧
      (s.on (.DMA_STATUS_Busy n k) = false →
        let v := ((s.before n).get x.r).toNat
        s.dmaCheck n k (bit v 1) (bit v 2) = 0 → Does (.dmaGo n k) s fun t =>
          t.on (.DMA_STATUS_Busy n k) = true ∧ t.rd (.DMA_STATUS_Error n k) = 0 ∧ (t.core n).dma.get k = some ⟨bit v 1, bit v 2⟩ ∧
            s.keeps t [.regs, .cores])) ∧
    (∀ k : Fin 4, ∀ d, (s.core n).dma.get k = some d → s.locked 1 = true → d.table = true ∨ (s.memMode ≠ 3 ∧ s.dramOpen = true) →
      let area := s.dmaArea n d.table
      let far := area.1 + s.dmaRemote n k
      let here := sramLoc (coreSram n) (s.rd (.DMA_LOCAL_Addr n k) / 8)
      let there := if d.table then sramLoc 8 (far / 8) else s.dramLoc far
      let src := if d.toRemote then here else there
      let dst := if d.toRemote then there else here
      (s.inRpt n = true → exec (.dmaDone n k) s = .next s) ∧
      (s.inRpt n = false → Does (.dmaDone n k) s fun t =>
        t.on (.DMA_STATUS_Busy n k) = false ∧ t.on (.DMA_STATUS_Done n k) = true ∧ (t.core n).dma.get k = none ∧
          (s.on (.DMA_CTRL_IntEn n k) = true → bit (t.rd (.INT_PENDING_Sources n)) (4 + k) = true) ∧
          (s.rd (.DMA_SHAPE_Rows n k) = 1 → s.rd (.DMA_SHAPE_RowBytes n k) = 8 →
            t.cell dst = (if (s.fetchWord n src).2 then poisonWord dst (s.fetchWord n src).1 else encodeWord dst (s.fetchWord n src).1) ∧
              ∀ l, l ≠ dst → t.cell l = s.cell l) ∧
          s.keeps { t with mem := s.mem } [.regs, .cores])) ∧
    (∀ k : Fin 4, ∀ d, (s.core n).dma.get k = some d → d.table = false → s.memMode ≠ 3 → s.dramOpen = false → exec (.dmaDone n k) s = .next s) ∧
    (∀ k : Fin 4, ∀ d, (s.core n).dma.get k = some d → d.table = false → s.memMode = 3 → s.locked 1 = true → s.inRpt n = false →
      s.coreLive n = true → s.nmiActive n = false → (s.core n).errs = [] → Does (.dmaDone n k) s fun t =>
        t.rd (.DMA_STATUS_Error n k) = 5 ∧ t.on (.DMA_STATUS_Busy n k) = false ∧ t.rd (.INT_SAVE_Cause n) = 4 ∧ t.nmiActive n = true ∧
          t.mem = s.mem) ∧
    (∀ q : Fin 4, ∀ b rest, ((s.core n).sp.get q).offered = b :: rest → s.locked 1 = true →
      let used := s.spHeld n q + (((s.core n).sp.get q).accepted.map List.length).sum
      let room := 2 ^ s.rd (.STREAM_CFG_LenLog n q)
      Does (.streamRecordOffer n q) s fun t =>
        ((t.core n).sp.get q).offered = rest ∧
        (used + b.length ≤ room → ((t.core n).sp.get q).accepted = ((s.core n).sp.get q).accepted ++ [b] ∧ s.coreKeeps t n []) ∧
        (room < used + b.length → ((t.core n).sp.get q).accepted = ((s.core n).sp.get q).accepted ∧
          t.rd (.SP_DROP_Value n q) = min (s.rd (.SP_DROP_Value n q) + 1) (2 ^ 32 - 1) ∧ bit (t.rd (.INT_PENDING_Sources n)) 12 = true ∧
          s.coreKeeps t n [(Fld.SP_DROP_Value n q).addr, (Fld.INT_PENDING_Sources n).addr])) ∧
    (∀ q : Fin 4, ∀ b rest, ((s.core n).sp.get q).accepted = b :: rest → s.locked 1 = true →
      (s.inRpt n = true → exec (.streamRecordWritten n q) s = .next s) ∧
      (s.inRpt n = false → Does (.streamRecordWritten n q) s fun t =>
        ((t.core n).sp.get q).accepted = rest ∧ t.rd (.SP_WP_Count n q) = (s.rd (.SP_WP_Count n q) + b.length) % 2 ^ 32 ∧
          (∀ l, (∀ w, l ≠ sramLoc (coreSram n) w) → t.cell l = s.cell l) ∧ s.keeps { t with mem := s.mem } [.regs, .cores])) ∧
    (∀ w x, ∀ q : Fin 4, s.Issues n w → isCtl w = false → cOp w = 0 → (s.before n).accesses w = [x] → x.op = 5 → x.addr = 0x70004 + 0x10 * q.val →
      let v := ((s.before n).get x.r).toNat
      let frees := (s.rd (.SP_WP_Count n q) + 2 ^ 32 - v) % 2 ^ 32 ≤ 2 ^ s.rd (.STREAM_CFG_LenLog n q)
      Does (.spRpWrite n q) s fun t =>
        t.rd (.SP_RP_Count n q) = (if frees then v else s.rd (.SP_RP_Count n q)) ∧ s.keeps t [.regs, .cores])

/-! Host interface -/

/-- R498, R501 – R504: what the command engine turns away. While it does not run, or another transaction goes first, nothing happens; a ninth
outstanding command is answered OVERFLOW, an outstanding tag DUP_TAG, a command that the power state does not serve BUSY in STARTING and STATE
elsewhere (log 21). Nothing else changes. -/
def Obligations.HostCommandsTurnedAway : Prop :=
  ∀ (c : Instr) (s : State) (p : Fin 9) (code : Nat) (tag : Byte) (addr : Word), request c = some (p, code, tag, addr) →
    let out := (s.host.paths.get p).out
    let q := s.takeReq p code tag
    let away := fun (status : Nat) => exec c s = .next (q.answer p (mkResp code tag addr status 0 0 0) false)
    let ready := s.engineUp = true ∧ s.turnOf p code tag = true
    (¬ ready → exec c s = .next s) ∧
    (ready → 8 ≤ out.length → away 8) ∧
    (ready → out.length < 8 → (∃ o ∈ out, o.tag = tag) → away 9) ∧
    (ready → out.length < 8 → (∀ o ∈ out, o.tag ≠ tag) → servedIn code s.pwr = false → away (if s.pwr = 0 then 5 else 6)) ∧
    s.keepsTaken q p [] ∧ (q.host.paths.get p).out = out ∧ q.host.accepted = s.host.accepted

/-- R504: a command is outstanding from its acceptance until its response is queued on MGMT or produced into ring 11; the ninth and one with an
outstanding tag are not executed; NOP and REPEAT are never outstanding.
The model's choice in it: log 120. -/
def Obligations.OutstandingUntilAnswered : Prop :=
  ∀ (s : State) (p : Fin 9) (tag : Byte),
    let out := (s.host.paths.get p).out
    (∀ code addr data, s.Takes p code tag → ∃ peer,
      ((s.taken p code tag addr data).host.paths.get p).out = out ++ [⟨tag, code, addr, data, s.xt, peer, s.host.accepted⟩] ∧
        (s.taken p code tag addr data).host.accepted = s.host.accepted + 1 ∧ s.keepsTaken (s.taken p code tag addr data) p []) ∧
    (∀ r, s.respRoom p = true → (∀ w ∈ s.host.respWait, w.1 ≠ p.val) →
      ((s.answer p r true).host.paths.get p).out = out.filter fun (o : Outst) => o.tag != r.tag) ∧
    (∀ r, s.respRoom p = false → (s.answer p r true).host.paths = s.host.paths) ∧
    (∀ c code addr, request c = some (p, code, tag, addr) → s.engineUp = true → s.turnOf p code tag = true → 8 ≤ out.length →
      exec c s = .next ((s.takeReq p code tag).answer p (mkResp code tag addr 8 0 0 0) false)) ∧
    (∀ c code addr, request c = some (p, code, tag, addr) → s.engineUp = true → s.turnOf p code tag = true → out.length < 8 → (∃ o ∈ out, o.tag = tag) →
      exec c s = .next ((s.takeReq p code tag).answer p (mkResp code tag addr 9 0 0 0) false)) ∧
    Does (.nop p tag) s (fun t => (t.host.paths.get p).out = out) ∧
    Does (.repeatLast p tag) s (fun t => (t.host.paths.get p).out = out)

/-- R492 – R498, R502: a transaction on MGMT. One of 88 cycles delivers its request and takes the oldest response; another count is discarded; a
wrong Crc and a reserved code are answered; with REPEAT the last delivered response is shifted out again. NOP takes the oldest response too, is
handed to nothing and has no response of its own.
The model's choices in it: logs 22, 23, 25. -/
def Obligations.MgmtTransactions : Prop :=
  ∀ (s : State) (b : List Byte),
    let code := leAt b 0 1
    let tag := b.getD 1 0
    let addr : Word := BitVec.ofNat 32 (leAt b 2 4)
    let joins := reqCrcOk b = true ∧ 1 ≤ code ∧ code ≤ 16
    let does := fun (n : Nat) (P : State → Prop) => Does (.mgmtTransaction b n) s P
    (∀ n, s.engineUp = false → does n fun t => t.host = { s.host with miso := [] } ∧ s.keeps t [.host]) ∧
    (∀ n, n ≠ 88 → s.engineUp = true → does n fun t =>
      t.host = { s.host with miso := t.host.miso } ∧ t.rd .HOST_STATUS_Framing = min (s.rd .HOST_STATUS_Framing + 1) 255 ∧ s.keeps t [.host, .regs] ∧
        s.keepsRegs t [Fld.HOST_STATUS_Framing.addr]) ∧
    (∀ r rs, s.engineUp = true → s.host.respQ = r :: rs → s.host.respWait = [] → code ≠ 15 → joins → does 88 fun t =>
      t.host.respQ = rs ∧ (t.host.paths.get 8).last = some r ∧ t.host.miso = misoOf (some r) ∧ t.host.inQ = s.host.inQ ++ [reqOf 8 b none] ∧
        (t.host.paths.get 8).out = (s.host.paths.get 8).out ∧ s.keeps t [.host]) ∧
    (s.engineUp = true → s.host.respQ = [] → code ≠ 15 → joins → does 88 fun t =>
      t.host = { s.host with miso := misoOf none, inQ := s.host.inQ ++ [reqOf 8 b none] } ∧ s.keeps t [.host]) ∧
    (∀ r rs, s.engineUp = true → s.host.respQ = r :: rs → s.host.respWait = [] → code = 0 → reqCrcOk b = true → does 88 fun t =>
      t.host.respQ = rs ∧ (t.host.paths.get 8).last = some r ∧ t.host.miso = misoOf (some r) ∧ t.host.inQ = s.host.inQ ∧
        (t.host.paths.get 8).out = (s.host.paths.get 8).out ∧ (∀ q, q ≠ 8 → t.host.paths.get q = s.host.paths.get q) ∧ s.keeps t [.host]) ∧
    (s.engineUp = true → s.host.respQ = [] → code = 0 → reqCrcOk b = true → does 88 fun t =>
      t.host = { s.host with miso := misoOf none } ∧ s.keeps t [.host]) ∧
    (s.engineUp = true → code = 15 → reqCrcOk b = true → does 88 fun t =>
      t.host = { s.host with miso := misoOf (s.host.paths.get 8).last } ∧ s.keeps t [.host]) ∧
    (s.engineUp = true → s.host.respQ = [] → s.host.respWait = [] → code ≠ 15 → reqCrcOk b = false → does 88 fun t =>
      t.host.respQ = [{ mkResp code tag addr 1 0 0 0 with time := s.now, at_ := s.xt }] ∧ t.host.inQ = s.host.inQ ∧ (t.host.paths.get 8).out = (s.host.paths.get 8).out ∧
        s.keeps t [.host]) ∧
    (s.engineUp = true → code = 15 → reqCrcOk b = false → 16 ≤ s.host.respQ.length → does 88 fun t =>
      t.host.respQ = s.host.respQ ∧ t.rd .HOST_STATUS_CrcErr = min (s.rd .HOST_STATUS_CrcErr + 1) 255 ∧ s.keeps t [.host, .regs]) ∧
    (s.engineUp = true → s.host.respQ = [] → s.host.respWait = [] → reqCrcOk b = true → 17 ≤ code → does 88 fun t =>
      t.host.respQ = [{ mkResp code tag addr 2 0 0 0 with time := s.now, at_ := s.xt }] ∧ t.host.inQ = s.host.inQ ∧ s.keeps t [.host])

/-- R496, R500, R501: NOP has no response; REPEAT shifts out the last delivered response on MGMT, and produces a copy of it on a link's path.
The model's choice in it: log 24. -/
def Obligations.NopAndRepeat : Prop :=
  ∀ (s : State) (p : Fin 9) (tag : Byte),
    Does (.nop p tag) s (fun t => s.keepsTaken t p [] ∧ t.host.respQ = s.host.respQ ∧ (t.host.paths.get p).out = (s.host.paths.get p).out) ∧
    (s.engineUp = false ∨ s.turnOf p 15 tag = false → exec (.repeatLast p tag) s = .next s) ∧
    (s.engineUp = true → s.turnOf p 15 tag = true → p = 8 → Does (.repeatLast p tag) s fun t =>
      t.host = { s.host with miso := misoOf (s.host.paths.get 8).last } ∧ s.keeps t [.host]) ∧
    (s.engineUp = true → s.turnOf p 15 tag = true → p ≠ 8 → ∀ r, (s.host.paths.get p).last = some r → ∃ peer,
      Leads (.repeatLast p tag) s (fun u => u.answerAgain p { r with peer := peer } false) fun u =>
        s.keepsTaken u p [] ∧ (u.host.paths.get p).out = (s.host.paths.get p).out) ∧
    (s.engineUp = true → s.turnOf p 15 tag = true → p ≠ 8 → (s.host.paths.get p).last = none → ∃ peer,
      Leads (.repeatLast p tag) s (fun u => u.answer p { mkResp 0 0 0 0xFF 0 0 0 with peer := peer } false) fun u => s.keepsTaken u p [])

/-- R15, R16, R46, R237, R502, R506, R510, R513: what a read returns. A low half fills the path's read shadow with its high half; the next read of
that high half returns and empties it; another high half reads its live value with TORN_RISK. A read of REG_STATUS latches its channel's results. -/
def Obligations.RegisterReads : Prop :=
  ∀ (s : State) (p : Fin 9) (tag : Byte) (addr : Word), s.Takes p 1 tag →
    let a := addr.toNat
    let t := s.taken p 1 tag addr 0
    let reads := fun (i : Instr) (status : Nat) (v : Word) (x : Nat) (P : State → Prop) =>
      Answers i s p (mkResp 1 tag addr status v.toNat 0 x) fun u => s.keepsTaken u p [] ∧ P u
    let served := readStatus a = 0 ∧ s.readHeld a = false ∧ s.gated a false = false
    let plain := served ∧ inBuffer a = false ∧ inWindow a = false ∧ isRsh a = false ∧ isMemData a = false ∧ s.peekPoison a = false ∧
      s.latched p a = none
    let live := t.viewWord a &&& readMask a
    (a % 4 ≠ 0 → reads (.read p tag addr) 3 0 0 fun u => u.host.paths = t.host.paths) ∧
    (served → inBuffer a = true → reads (.read p tag addr) 0 (spGet (fun _ => 0) (s.host.paths.get p).buf ((a - 0x1000) / 4)) 0 fun u =>
      u.host.paths = t.host.paths) ∧
    (served → inBuffer a = false → inWindow a = false → isRsh a = true → reads (.read p tag addr) 0 (s.rshWord a) 0 fun u => u.host.paths = t.host.paths) ∧
    (plain → halfOf a = .whole → a ≠ 0x10108 → reads (.read p tag addr) 0 live 0 fun u =>
      (u.host.paths.get p).out = (t.host.paths.get p).out ∧ (u.host.paths.get p).rdShadow = (s.host.paths.get p).rdShadow) ∧
    (plain → halfOf a = .low → ∀ i ∈ [Instr.read p tag addr, .lowHalfRead p tag addr], reads i 0 live 0 fun u =>
      (u.host.paths.get p).rdShadow = some (a + 4, t.viewWord (a + 4) &&& readMask (a + 4))) ∧
    (plain → halfOf a = .high → ∀ i ∈ [Instr.read p tag addr, .highHalfRead p tag addr],
      (∀ v, (s.host.paths.get p).rdShadow = some (a, v) → reads i 0 v 0 fun u => (u.host.paths.get p).rdShadow = none) ∧
      ((∀ v, (s.host.paths.get p).rdShadow ≠ some (a, v)) → reads i 0 live 1 fun u => u.host.paths = t.host.paths)) ∧
    (served → 0x308000 ≤ a → a < 0x308400 → a % 0x40 = 0xC → reads (.regStatusRead p tag addr) 0 live 0 fun u =>
      ∀ k, k < 6 → u.latched p (a + 4 + 4 * k) = some (t.viewWord (a + 4 + 4 * k))) ∧
    (∀ v, served → inBuffer a = false → inWindow a = false → isRsh a = false → isMemData a = false → s.latched p a = some v →
      reads (.read p tag addr) 0 v 0 fun u => u.host.paths = t.host.paths)

/-- R13, R19, R41, R501, R502, R506, R511: what a write does. RW fields that are not of class C take the word, W1C bits written 1 clear, class C
fields go to the pending bank; a low half with RW fields is held until its high half is written.
The model's choice in it: log 29. -/
def Obligations.RegisterWrites : Prop :=
  ∀ (s : State) (p : Fin 9) (tag : Byte) (addr v : Word), s.Takes p 2 tag →
    let a := addr.toNat
    let writes := fun (i : Instr) (status : Nat) (x : Nat) (P : State → Prop) => Answers i s p (mkResp 2 tag addr status 0 0 x) P
    let served := s.writeStatus a = 0 ∧ s.gated a true = false
    let plain := served ∧ inBuffer a = false ∧ inWindow a = false ∧ isMemData a = false
    let inert := fun (b : Nat) (w : Word) => ∀ t : State, t.writeEffect b w.toNat [] = t
    let rw := (cMask a ||| vMask a) != 0
    let sets := fun (u : State) (b : Nat) (w : Word) =>
      (∀ k, k < 32 → (rfWord u.regs b).getLsbD k = if (vMask b).getLsbD k then w.getLsbD k
        else (rfWord s.regs b).getLsbD k && !((w1cMask b).getLsbD k && w.getLsbD k)) ∧
      (cMask b ≠ 0 → spGet (fun _ => 0) u.epoch.pend b = w &&& cMask b ∧ u.on .EPOCH_STATUS_Pending = true) ∧
      (∀ c, c ≠ b → spGet (fun _ => 0) u.epoch.pend c = spGet (fun _ => 0) s.epoch.pend c)
    (a % 4 ≠ 0 ∨ inMirror a = true → writes (.write p tag addr v) 3 0 fun u => s.keepsTaken u p []) ∧
    (a % 4 = 0 → a < 0x800000 → inBuffer a = false → inWindow a = false → (findReg a).isSome = true → s.pwr = 1 → cMask a ≠ 0 →
      writes (.write p tag addr v) 6 0 fun u => s.keepsTaken u p []) ∧
    (served → inBuffer a = true → writes (.write p tag addr v) 0 0 fun u => s.keepsTaken u p [] ∧
      ∀ k, spGet (fun _ => 0) (u.host.paths.get p).buf k = if k = (a - 0x1000) / 4 then v else spGet (fun _ => 0) (s.host.paths.get p).buf k) ∧
    (plain → halfOf a = .whole → inert a v → a ≠ Fld.EPOCH_STATUS_Pending.addr → writes (.write p tag addr v) 0 0 fun u =>
      sets u a v ∧ s.keepsTaken u p [.regs, .epoch] ∧ s.keepsRegs u [a, Fld.EPOCH_STATUS_Pending.addr] ∧
        u.epoch = { s.epoch with pend := u.epoch.pend }) ∧
    (plain → halfOf a = .low → rw = true → ∀ i ∈ [Instr.write p tag addr v, .lowHalfWrite p tag addr v], writes i 0 0 fun u =>
      s.keepsTaken u p [] ∧ (u.host.paths.get p).wrShadow = some (a, v)) ∧
    (plain → halfOf a = .high → rw = true → ∀ i ∈ [Instr.write p tag addr v, .highHalfWrite p tag addr v],
      (∀ b lo, (s.host.paths.get p).wrShadow = some (b, lo) → b + 4 = a → inert b lo → inert a v → writes i 0 0 fun u =>
        (∀ k, k < 32 → (vMask b).getLsbD k = true → (rfWord u.regs b).getLsbD k = lo.getLsbD k) ∧
        (∀ k, k < 32 → (vMask a).getLsbD k = true → (rfWord u.regs a).getLsbD k = v.getLsbD k) ∧
        (cMask b ≠ 0 → spGet (fun _ => 0) u.epoch.pend b = lo &&& cMask b) ∧ (cMask a ≠ 0 → spGet (fun _ => 0) u.epoch.pend a = v &&& cMask a) ∧
        (u.host.paths.get p).wrShadow = none ∧ s.keepsTaken u p [.regs, .epoch] ∧ s.keepsRegs u [a, b, Fld.EPOCH_STATUS_Pending.addr]) ∧
      ((∀ b lo, (s.host.paths.get p).wrShadow = some (b, lo) → b + 4 ≠ a) → inert a v → a ≠ Fld.EPOCH_STATUS_Pending.addr → writes i 0 1 fun u =>
        sets u a v ∧ s.keepsTaken u p [.regs, .epoch] ∧ s.keepsRegs u [a, Fld.EPOCH_STATUS_Pending.addr])) ∧
    (halfOf a ≠ .low → exec (.lowHalfWrite p tag addr v) s = .next s) ∧ (halfOf a ≠ .high → exec (.highHalfWrite p tag addr v) s = .next s)

/-- R46, R345, R503: SNAPSHOT captures the registers at its acceptance; the copy's end shows it, answers the commands and serves the reads that
waited; an access to a gated block waits, and after 1 ms is answered BUSY.
The model's choices in it: logs 4, 21, 33, 37. -/
def Obligations.SnapshotsAndWaitingAccesses : Prop :=
  ∀ (s : State) (p : Fin 9) (tag : Byte),
    (s.Takes p 3 tag → Does (.snapshot p tag) s fun t => ∃ x, t.host.snapRun = some x ∧ x.time = s.now ∧
      (∀ a, a ∉ viewAddrs → rfWord x.words a = rfWord s.regs a) ∧
      (∀ a ∈ viewAddrs, rfWord x.words a = (s.taken p 3 tag 0 0).viewWord a) ∧ x.hist = s.alarm.hist ∧
      t.host.snapBy = s.host.snapBy ++ [(p.val, tag)] ∧ t.host.snap = s.host.snap ∧ s.keeps t [.host, .rings]) ∧
    (∀ x, s.host.snapRun = some x →
      let e := rfRd x.words .EPOCH_STATUS_Epoch
      Leads .snapshotCopyDone s
        (fun u => (s.host.snapBy.foldl (fun (u : State) (b : Nat × Byte) => u.done (fin 8 b.1) 3 b.2 0 0 e 0) u).serveWaiting) fun u =>
        u.host.snap = some x ∧ u.host.snapRun = none ∧ u.host.snapBy = [] ∧ u.on .SNAP_STATUS_Valid = true ∧
          u.rd64 .SNAP_TIME_LO_SnapTime = x.time % 2 ^ 64 ∧ u.rd .SNAP_STATUS_SnapEpoch = e ∧
          u.rd .SNAP_STATUS_SnapApplying = rfRd x.words .EPOCH_STATUS_Applying ∧ u.on .ALERT_EVENT_SnapshotDone = true ∧ s.keeps u [.host, .regs]) ∧
    (∀ addr, s.Takes p 1 tag → readStatus addr.toNat = 0 → s.readHeld addr.toNat = true → Does (.read p tag addr) s fun t =>
      t.host.rshWait = s.host.rshWait ++ [⟨p.val, 1, tag, addr, 0, none⟩] ∧ s.keeps t [.host, .rings]) ∧
    (∀ addr, s.Takes p 1 tag → readStatus addr.toNat = 0 → s.readHeld addr.toNat = false → s.gated addr.toNat false = true →
      Does (.read p tag addr) s fun t => t.host.gateWait = s.host.gateWait ++ [(⟨p.val, 1, tag, addr, 0, none⟩, s.xt)] ∧ s.keeps t [.host, .rings]) ∧
    (∀ addr v, s.Takes p 2 tag → s.writeStatus addr.toNat = 0 → s.gated addr.toNat true = true →
      Does (.write p tag addr v) s fun t => t.host.gateWait = s.host.gateWait ++ [(⟨p.val, 2, tag, addr, v, none⟩, s.xt)] ∧ s.keeps t [.host, .rings]) ∧
    (∀ q since, s.host.gateWait = [(q, since)] → s.loopHeld q.addr.toNat = true → s.due (since + 1000000) = true →
      Leads .gatedAccessTimeout s (fun u => u.done (fin 8 q.path) q.code q.tag q.addr 5 0 0) fun u =>
        u.host = { s.host with gateWait := [] } ∧ s.keeps u [.host]) ∧
    ((∀ x ∈ s.host.gateWait, s.loopHeld x.1.addr.toNat = false ∨ s.due (x.2 + 1000000) = false) → exec .gatedAccessTimeout s = .next s)

/-- R42, R318, R401, R444, R481, R484: the writes of EPOCH_CTRL, TIME_CTRL, RESET_CTRL, SYS_WDOG_KICK and a core's MBOX_IN, and CLEAR_ALARM. A
wrong watchdog key and a clear Arm bit change nothing. Each other part and register keeps its value. -/
def Obligations.KeysLatchesAndMailboxes : Prop :=
  ∀ (s : State) (p : Fin 9) (tag : Byte) (v : Word),
    let wrote := fun (i : Instr) (addr : Word) (parts : List Part) (regs : List Nat) (P : State → Prop) =>
      Answers i s p (mkResp 2 tag addr 0 0 0 0) fun u => P u ∧ s.keepsTaken u p parts ∧ s.keepsRegs u regs
    let es := Fld.EPOCH_STATUS_Pending.addr
    (s.Takes p 2 tag → ∀ both, wrote (.discard p tag both) 0x110 [.regs, .epoch] [es] fun u =>
      u.epoch.pend = [] ∧ u.on .EPOCH_STATUS_Pending = false ∧ (both = false → u.epoch.sched = s.epoch.sched) ∧
        (∀ c, both = true → s.epoch.sched = some c → s.now < c.tc → u.epoch.sched = none ∧ u.on .EPOCH_STATUS_Scheduled = false)) ∧
    (s.Takes p 2 tag → ∀ c, s.epoch.sched = some c → s.now < c.tc → (c.changes.map Prod.fst).Nodup →
      wrote (.cancel p tag) 0x110 [.regs, .epoch] [es] fun u =>
        u.epoch.sched = none ∧ u.on .EPOCH_STATUS_Scheduled = false ∧
        (∀ x ∈ c.changes, (∀ y ∈ s.epoch.pend, y.1 ≠ x.1) → spGet (fun _ => 0) u.epoch.pend x.1 = x.2) ∧
        (∀ y ∈ s.epoch.pend, spGet (fun _ => 0) u.epoch.pend y.1 = spGet (fun _ => 0) s.epoch.pend y.1)) ∧
    (s.Takes p 2 tag → (s.epoch.sched = none ∨ ∃ c, s.epoch.sched = some c ∧ c.tc ≤ s.now) →
      wrote (.cancel p tag) 0x110 [.regs] [] fun _ => True) ∧
    (s.Takes p 2 tag → v.getLsbD 0 = true → wrote (.timeArm p tag v) 0x1013C [.regs, .time] [] fun u =>
      u.time = { s.time with armed := some (rfRd64 s.regs 0x10134, s.xt) }) ∧
    (s.Takes p 2 tag → v.getLsbD 0 = false → wrote (.timeArm p tag v) 0x1013C [.regs] [] fun _ => True) ∧
    (s.Takes p 2 tag → wrote (.hostSoftReset p tag) 0x20014 [.regs, .power] [] fun u => u.power = { s.power with softKey := true }) ∧
    (s.Takes p 2 tag → s.respRoom p = true → (∀ w ∈ s.host.respWait, w.1 ≠ p.val) → Does (.hostSoftReset p tag) s fun t =>
      t.power.softResetAt = some (s.xt + 1000000)) ∧
    (s.Takes p 2 tag → v.toNat % 65536 = 0x5A5A → s.on .SYS_WDOG_HostKick = true → wrote (.sysWdogKick p tag v) 0x20088 [.regs, .power] [] fun u =>
      u.power = { s.power with wdogFrom := s.xt, wdogWarned := false }) ∧
    (s.Takes p 2 tag → ¬ (v.toNat % 65536 = 0x5A5A ∧ s.on .SYS_WDOG_HostKick = true) → wrote (.sysWdogKick p tag v) 0x20088 [.regs] [] fun _ => True) ∧
    (∀ n : Fin 16, s.Takes p 2 tag → s.gated (0x400010 + 0x10000 * n.val) true = false →
      wrote (.coreMboxInWrite p tag n v) (BitVec.ofNat 32 (0x400010 + 0x10000 * n.val)) [.regs]
        [(Fld.MBOX_IN_Mail n).addr, (Fld.INT_PENDING_Sources n).addr] fun u =>
        u.rd (.MBOX_IN_Mail n) = v.toNat ∧ bit (u.rd (.INT_PENDING_Sources n)) 10 = true ∧
          ∀ k, k ≠ 10 → bit (u.rd (.INT_PENDING_Sources n)) k = bit (s.rd (.INT_PENDING_Sources n)) k) ∧
    (s.Takes p 14 tag → Answers (.clearAlarm p tag) s p (mkResp 14 tag 0 0 0 0 0) fun u =>
      u.on .ALARM_STATUS_Latched = false ∧ u.rd .ALARM_STATUS_Severity = 0 ∧ u.rd .ALARM_STATUS_Tracked = s.rd .ALARM_STATUS_Tracked ∧
        u.rd .ALARM_STATUS_Coalescing = s.rd .ALARM_STATUS_Coalescing ∧ s.keepsTaken u p [.regs] ∧ s.keepsRegs u [Fld.ALARM_STATUS_Latched.addr])

/-- R392, R393, R499, R503: a frame received on a link. An accepted command datagram enters ring 12 with a record and its transactions wait for the
command engine; a frame that is no command, and one of a wrong length or FCS, is counted in RX_COUNT.Discard.
The model's choices in it: logs 23, 26, 27, 134. -/
def Obligations.CommandDatagrams : Prop :=
  ∀ (s : State) (x : Fin 8) (f : List Byte),
    let counts := [(Fld.RX_COUNT_Discard x).addr]
    let inc := fun (t : State) (g : Fld) => t.rd g = min (s.rd g + 1) 65535
    let does := fun (ok : Bool) (P : State → Prop) => Does (.frameReceived x f ok) s P
    let discards := fun (ok : Bool) => does ok fun t => inc t (.RX_COUNT_Discard x) ∧ s.keeps t [.regs] ∧ s.keepsRegs t counts
    let sized := 60 ≤ f.length ∧ f.length ≤ 9212
    let control := (parseFrame f).type = 0x8808 ∧ (parseFrame f).vid = none
    (∀ ok, s.receives x = false → exec (.frameReceived x f ok) s = .next s) ∧
    (s.receives x = true → discards false) ∧
    (s.receives x = true → ¬ sized → discards true) ∧
    (s.receives x = true → sized → control → beAt (parseFrame f).rest 0 2 ≠ 1 → beAt (parseFrame f).rest 0 2 ≠ 0x0101 → discards true) ∧
    (s.receives x = true → sized → control → beAt (parseFrame f).rest 0 2 = 1 → s.on (.LINK_CFG_Pfc x) = false →
      exec (.frameReceived x f true) s = exec (.pauseFrame x (beAt (parseFrame f).rest 2 2)) s) ∧
    (s.receives x = true → sized → ¬ control → s.commandOf x f = none → discards true) ∧
    (∀ b peer, s.receives x = true → sized → ¬ control → s.commandOf x f = some (b, peer) →
      let r := s.cmdRecord x peer b
      let n := leAt b 3 1
      (s.betweenBursts = true → discards true) ∧
      let counted := fun (t : State) =>
        inc t (.RX_COUNT_Cmd x) ∧ t.rd (.RING_SEQ_Next 12) = (s.rd (.RING_SEQ_Next 12) + 1) % 2 ^ 32 ∧ s.otherRings t 12
      (s.betweenBursts = false → s.headRoom 12 r.length = false → does true fun t =>
        counted t ∧ t.rd64 (.RING_LOST_LO_Lost 12) = (s.rd64 (.RING_LOST_LO_Lost 12) + 1) % 2 ^ 64 ∧ (t.rings.get 12).head = (s.rings.get 12).head ∧
          s.keeps t [.regs, .rings] ∧ s.keepsRegs t (ringRegs 12 ++ counts) ∧ t.mem = s.mem) ∧
      (s.betweenBursts = false → s.headRoom 12 r.length = true → payloadOk b = false → does true fun t =>
        counted t ∧ inc t (.RX_COUNT_Discard x) ∧ (t.rings.get 12).head = (s.rings.get 12).head ∧ s.keeps t [.regs, .rings] ∧
          s.keepsRegs t ((Fld.RING_SEQ_Next 12).addr :: counts) ∧ t.mem = s.mem) ∧
      (s.betweenBursts = false → s.headRoom 12 r.length = true → payloadOk b = true →
        (∀ k, k < n → reqCrcOk ((b.drop (8 + 12 * k)).take 11) = true ∧ 1 ≤ leAt b (8 + 12 * k) 1 ∧ leAt b (8 + 12 * k) 1 ≤ 16) → does true fun t =>
          let x12 : Slot := ⟨s.seqOf 12, (s.rings.get 12).headAt, r.length, s.xt⟩
          counted t ∧ t.rd (.RX_COUNT_Discard x) = s.rd (.RX_COUNT_Discard x) ∧
          t.host = { s.host with inQ := s.host.inQ ++ (List.range n).map fun (k : Nat) => reqOf x ((b.drop (8 + 12 * k)).take 11) (some peer) } ∧
          (t.rings.get 12).head = (s.rings.get 12).head ++ [x12] ∧
          ((s.areaRead reqRing (headArea 12) x12.off x12.len).2 = false →
            t.slotRec (headArea 12) x12 = ⟨x12.seq, r, x12.at_⟩ ∧ s.keepsRegs t ((Fld.RING_SEQ_Next 12).addr :: counts)) ∧
          s.keeps t [.regs, .host, .rings]))

/-- R35 – R37, R41, R44, R395, R501, R503: COMMIT and the T_c of an accepted commit. A COMMIT waits for the WRITEs accepted before it. A rejected commit leaves the banks as they are; an accepted one
moves the pending bank to the scheduled one, and applies it at once when its T_c has passed and no sentinel wake is in progress, whose epoch
applies first.
The model's choices in it: logs 4, 36. -/
def Obligations.CommitsAndTheirTimes : Prop :=
  ∀ (s : State) (p : Fin 9) (tag : Byte),
    let tc := s.rd64 .COMMIT_TIME_LO_TimeLo
    let n := (s.curEpoch + 1) % 65536
    let t := (s.taken p 4 tag 0 0).showChecks s.resulting
    let fails := ({ t with regs := t.newestRegs }).failReasons s.resulting
    let rejects := fun (reason : Nat) =>
      Answers (.commit p tag) s p (mkResp 4 tag 0 10 (reason + 256 * s.rd .COMMIT_RESULT_TargetEpoch) reason 0) fun u =>
        u.rd .COMMIT_RESULT_Reason = reason ∧ u.epoch = s.epoch ∧ s.keepsTaken u p [.regs, .freeCtr]
    (s.Takes p 4 tag → ∀ o, (s.taken p 4 tag 0 0).commitsWaiting = [(p, o)] → o.tag = tag →
      ((s.taken p 4 tag 0 0).writeBefore o.no = true → exec (.commit p tag) s = .next (s.taken p 4 tag 0 0)) ∧
      ((s.taken p 4 tag 0 0).writeBefore o.no = false →
        (s.pwr = 1 → rejects 7) ∧
        (s.pwr ≠ 1 → s.epoch.sched.isSome = true → rejects 6) ∧
        (s.pwr ≠ 1 → s.epoch.sched = none → s.now + 600000000000 < tc → rejects 5) ∧
        (∀ x, s.pwr ≠ 1 → s.epoch.sched = none → tc ≤ s.now + 600000000000 → fails = [x] → rejects x) ∧
        (s.pwr ≠ 1 → s.epoch.sched = none → s.now < tc → tc ≤ s.now + 600000000000 → fails = [] →
          Answers (.commit p tag) s p (mkResp 4 tag 0 0 (256 * n) 0 0) fun u =>
            u.epoch.sched = some ⟨tc, n, s.epoch.pend⟩ ∧ u.epoch.pend = [] ∧ u.on .EPOCH_STATUS_Scheduled = true ∧ u.on .EPOCH_STATUS_Pending = false ∧
              u.rd .COMMIT_RESULT_Reason = 0 ∧ u.rd .COMMIT_RESULT_TargetEpoch = n ∧ u.curEpoch = s.curEpoch) ∧
        (s.pwr ≠ 1 → s.epoch.sched = none → tc ≤ s.now → s.power.wakeAt.isSome = true → fails = [] →
          Answers (.commit p tag) s p (mkResp 4 tag 0 0 (256 * n) 0 0) fun u =>
            u.epoch.sched = some ⟨s.now, n, s.epoch.pend⟩ ∧ u.epoch.pend = [] ∧ u.on .EPOCH_STATUS_Scheduled = true ∧ u.curEpoch = s.curEpoch) ∧
        (s.pwr ≠ 1 → s.epoch.sched = none → tc ≤ s.now → s.power.wakeAt = none → fails = [] →
          Leads (.commit p tag) s
            (fun u => let v := u.commitAt ⟨s.now, n, s.epoch.pend⟩; v.done p 4 tag 0 0 (256 * v.rd .COMMIT_RESULT_TargetEpoch) 0) fun u =>
            u.epoch.pend = [] ∧ u.rd .COMMIT_RESULT_Reason = 0 ∧ u.rd .COMMIT_RESULT_TargetEpoch = n ∧ u.curEpoch = s.curEpoch))) ∧
    (∀ c, s.epoch.sched = some c → c.tc ≤ s.now → s.power.wakeAt = none → Leads .epochSwitch s (fun u => (u.beginEpoch c.num c.tc 1 c.changes).loadsAtTc) fun u =>
      u.epoch = { s.epoch with sched := none } ∧ u.on .EPOCH_STATUS_Scheduled = false ∧ u.curEpoch = s.curEpoch ∧
        s.keeps u [.regs, .epoch] ∧ s.keepsRegs u [Fld.EPOCH_STATUS_Scheduled.addr]) ∧
    (∀ c, s.epoch.sched = some c → (s.now < c.tc ∨ s.power.wakeAt.isSome = true) → exec .epochSwitch s = .next s)

/-- R380, R488, R502, R503: ABORT, START and STOP of a function. An unknown function and rings 8, 11 and 12 are INVALID; a
command waits behind an earlier one of the same function; START runs at once; a halt is answered when the function has reached its end.
The model's choices in it: logs 4, 54. -/
def Obligations.FunctionCommands : Prop :=
  ∀ (s : State) (p : Fin 9) (tag kind inst : Byte),
    let k := kind.toNat
    let i := inst.toNat
    let data : Word := BitVec.ofNat 32 (k + 256 * i)
    let at_ := fun (code : Nat) => s.taken p code tag 0 data
    let alone := fun (code : Nat) => ∃ o, o.code = code ∧ o.tag = tag ∧ (at_ code).fnWaiting k i = [(p, o)]
    let next := fun (code : Nat) (u : State) => State.runFn k i 71 true (u.done p code tag 0 0 0 0)
    let halted := fun (code : Nat) => ((at_ code).fnHalt k i true).unmarkFn k i
    let forms := [(5, Instr.abort p tag kind inst), (6, .start p tag kind inst), (7, .stop p tag kind inst)]
    (∀ x ∈ forms, s.Takes p x.1 tag → fnValid k i = false → Answers x.2 s p (mkResp x.1 tag 0 7 0 0 0) fun u => s.keepsTaken u p []) ∧
    (∀ x ∈ forms, s.Takes p x.1 tag → fnValid k i = true → 1 < ((at_ x.1).fnWaiting k i).length → exec x.2 s = .next (at_ x.1)) ∧
    (s.Takes p 6 tag → fnValid k i = true → alone 6 → ¬ (k = 6 ∧ (at_ 6).geometryWaits i = true) →
      Leads (.start p tag kind inst) s (next 6) fun u => u = (at_ 6).fnStart k i ∧
        (k = 2 → (u.ports.get (fin 3 i)).ram.stopped = false) ∧
        (k = 3 → s.measuring = true → u.lidar.ctl.stopped = false) ∧
        (k = 4 → s.measuring = true → (u.lidar.ports.get (fin 7 i)).stopped = false) ∧
        (k = 4 → s.measuring = false → u.isMarked 4 i = true) ∧
        (k = 5 → s.coreState i = 0 → u.coreState i = 1 ∧ (u.core (fin 15 i)).pc = s.rd (.CORE_CTRL_Entry i) ∧ (u.core (fin 15 i)).w = CoreSt.rest.w)) ∧
    (s.Takes p 6 tag → k = 6 → fnValid k i = true → alone 6 → (at_ 6).geometryWaits i = true →
      Leads (.start p tag kind inst) s (fun u => State.runFn k i 71 true (u.done p 6 tag 0 5 0 0)) fun u => u = at_ 6) ∧
    (s.Takes p 7 tag → k = 6 → fnValid k i = true → alone 7 →
      Leads (.stop p tag kind inst) s (next 7) fun u => u = (at_ 7).drainRing (fin 15 i) ∧
        (s.rd (.RING_STATE_State i) ≠ 1 → u = at_ 7)) ∧
    (∀ x ∈ forms, x.1 ≠ 6 → ¬ (x.1 = 7 ∧ k = 6) → s.Takes p x.1 tag → fnValid k i = true → alone x.1 →
      ((halted x.1).fnHalted k i = false → exec x.2 s = .next (halted x.1)) ∧
      ((halted x.1).fnHalted k i = true → Leads x.2 s (next x.1) fun u => u = (halted x.1).fnEnd k i) ∧
      (k = 5 → s.coreState i ≠ 0 → ((halted x.1).core (fin 15 i)).aborting = true) ∧
      (k = 2 → ((halted x.1).ports.get (fin 3 i)).ram.stopped = true)) ∧
    (∀ o, s.fnWaiting k i = [(p, o)] → o.code = 5 → s.fnHalted k i = true →
      Leads (.abortComplete kind inst) s (fun u => State.runFn k i 71 true (u.done p 5 o.tag 0 0 0 0)) fun u => u = s.fnEnd k i) ∧
    (∀ o, s.fnWaiting k i = [(p, o)] → o.code = 5 → s.fnHalted k i = false → exec (.abortComplete kind inst) s = .next s)

/-- R501, R503, R505 – R508: LOAD_IMAGE stages a chunk of the path's buffer; flash commands run one at a time, and at their end queue their result and
set FlashDone.
The model's choices in it: logs 4, 34. -/
def Obligations.ImageChunksAndFlash : Prop :=
  ∀ (s : State) (p : Fin 9) (tag : Byte) (addr data : Word),
    let n := data.toNat
    let a := addr.toNat
    let base := if addr = 0 then [] else s.image.staged
    let all := base ++ s.bufBytes p (min n 4096)
    let len := if 64 ≤ all.length then leAt all 12 4 else 0
    let args := 8 ≤ n ∧ n ≤ 4096 ∧ n % 8 = 0 ∧ a = base.length ∧ (64 ≤ all.length → len ≤ 16777216 ∧ all.length ≤ len)
    let loads := fun (status v : Nat) (P : State → Prop) => Answers (.loadImage p tag addr data) s p (mkResp 9 tag addr status v 0 0) P
    let size := if data = 1 then 65536 else 4096
    let forms := [(10, Instr.flashRead p tag addr data, n, decide (1 ≤ n ∧ n ≤ 4096), ([] : List Byte)),
      (11, Instr.flashErase p tag addr data, size, decide (n ≤ 1 ∧ a % size = 0), []),
      (12, Instr.flashWrite p tag addr data, n, decide (1 ≤ n ∧ n ≤ 256 ∧ a % 256 + n ≤ 256), s.bufBytes p (min n 256))]
    (s.Takes p 9 tag → s.image.validating = true → loads 5 0 fun u => s.keepsTaken u p []) ∧
    (s.Takes p 9 tag → s.image.validating = false → ¬ args → loads 7 0 fun u => s.keepsTaken u p []) ∧
    (s.Takes p 9 tag → s.image.validating = false → args → loads 0 all.length fun u =>
      u.image = { s.image with staged := all, stageLen := len, validating := decide (64 ≤ all.length) && len == all.length } ∧ s.keepsTaken u p [.image]) ∧
    (∀ x ∈ forms, s.Takes p x.1 tag →
      let ends := fun (status : Nat) => Answers x.2.1 s p (mkResp x.1 tag addr status 0 0 0) fun u => s.keepsTaken u p []
      let fits := x.2.2.2.1 = true ∧ a + x.2.2.1 ≤ s.image.flashSize
      (s.host.flashRun.isSome = true → ends 5) ∧ (s.host.flashRun = none → ¬ fits → ends 7) ∧
      (s.host.flashRun = none → fits → Does x.2.1 s fun t =>
        t.host.flashRun = some ⟨p.val, tag, x.1, a, x.2.2.1, s.xt, x.2.2.2.2⟩ ∧ s.keeps t [.host, .rings])) ∧
    (∀ r back, s.host.flashRun = some r →
      let ends := fun (i : Instr) (status detail : Nat) (P : State → Prop) =>
        Leads i s (fun u => u.done (fin 8 r.path) r.code r.tag (BitVec.ofNat 32 r.addr) status 0 detail) fun u =>
          u.host.flashRun = none ∧ u.on .ALERT_EVENT_FlashDone = true ∧ s.keeps u [.host, .regs, .image] ∧ P u
      let holds := fun (u : State) (f : Nat → Byte) => u.image = { s.image with flash := u.image.flash } ∧ ∀ b, spGet (fun _ => (255 : Byte)) u.image.flash b =
        if r.addr ≤ b ∧ b < r.addr + r.len then f (b - r.addr) else spGet (fun _ => (255 : Byte)) s.image.flash b
      let late := s.due (r.since + flashLimit r)
      (∀ l, r.code = 10 → ends (.flashCommandDone l back) 0 0 fun u =>
        u.image = s.image ∧ u.bufBytes (fin 8 r.path) r.len = spGetRun (fun _ => (255 : Byte)) s.image.flash r.addr r.len) ∧
      (r.code ≠ 10 → ends (.flashCommandDone false back) 10 3 fun u => u.image = s.image) ∧
      (r.code = 11 → ends (.flashCommandDone true back) 0 0 fun u => holds u fun _ => 255) ∧
      (r.code = 12 → backBytes back r.len = r.data → ends (.flashCommandDone true back) 0 0 fun u => holds u fun k => back.getD k 255) ∧
      (r.code = 12 → backBytes back r.len ≠ r.data → ends (.flashCommandDone true back) 10 1 fun u => holds u fun k => back.getD k 255) ∧
      (late = true → r.code = 10 → ends (.flashTimeout back) 10 2 fun u => u.image = s.image) ∧
      (late = true → r.code ≠ 10 → ends (.flashTimeout back) 10 2 fun u => holds u fun k => back.getD k 255) ∧
      (late = false → exec (.flashTimeout back) s = .next s))

/-- R469, R502, R503, R509: FUSE_PROGRAM and the end of a burn. A second burn of a fuse, a lock over a blank key hash and a wrong key are INVALID.
The model's choice in it: log 35. -/
def Obligations.FuseBurns : Prop :=
  ∀ (s : State) (p : Fin 9) (tag : Byte) (addr data : Word),
    let key := s.on .FUSE_STATUS_KeyHash
    let fits := data = 0x46555345 ∧ ((addr = 1 ∧ key = false) ∨ (addr = 2 ∧ key = true ∧ s.on .FUSE_STATUS_Lock = false))
    let ends := fun (status : Nat) => Answers (.fuseProgram p tag addr data) s p (mkResp 16 tag addr status 0 0 0) fun u => s.keepsTaken u p []
    (s.Takes p 16 tag → s.host.fuseRun.isSome = true → ends 5) ∧
    (s.Takes p 16 tag → s.host.fuseRun = none → ¬ fits → ends 7) ∧
    (s.Takes p 16 tag → s.host.fuseRun = none → fits → Does (.fuseProgram p tag addr data) s fun t => ∃ r, t.host.fuseRun = some r ∧
      r.path = p.val ∧ r.tag = tag ∧ r.addr = addr.toNat ∧
        (∀ k, k < 8 → leAt r.data (4 * k) 4 = s.rd (.FUSE_STAGE_Hash k)) ∧ s.keeps t [.host, .rings]) ∧
    (∀ r back, s.host.fuseRun = some r →
      let bs := (List.range 32).map fun (k : Nat) => back.getD k (0 : Byte)
      let good := if r.addr = 1 then bs = r.data else bit (leAt bs 0 1) 0 = true
      ∃ u, exec (.fuseBurnDone back) s =
          .next (u.done (fin 8 r.path) 16 r.tag (BitVec.ofNat 32 r.addr) (if good then 0 else 10) (rfWord u.regs 0x18).toNat (if good then 0 else 1)) ∧
        u.host = { s.host with fuseRun := none } ∧ s.keeps u [.host, .regs, .image] ∧
        (u.on .FUSE_STATUS_ReadbackFault = if good then s.on .FUSE_STATUS_ReadbackFault else true) ∧
        (r.addr = 1 → u.image = { s.image with keyHash := bs } ∧ u.on .FUSE_STATUS_KeyHash = true ∧
          ∀ k, k < 8 → u.rd (.FUSE_KEYHASH_Hash k) = leAt bs (4 * k) 4) ∧
        (r.addr ≠ 1 → u.image = s.image ∧ (u.on .FUSE_STATUS_Lock = true ↔ good) ∧ s.keepsRegs u [0x18]))

/-! Fibre ports -/

/-- R37, R53 – R55, R60, R62, R66, R67, R75, R77, R437: a shot boundary that is due launches a shot: its index, its tones' launches, the next boundary, and
RTRIG with its Raman window; without a sample clock nothing launches. A port that waits for its epoch takes it there. Where CLKIN is the sample clock and its
phase has moved by more than 0.2 ns, it is lost first.
The model's choices in it: logs 4, 41, 52. -/
def Obligations.ShotBoundaries : Prop :=
  ∀ (s : State) (p : Fin 4) (phase : Int) (t : Nat) (rest : List Nat),
    let moved := decide (200 < (phase - (s.loops.get 5).phase).natAbs) && s.on .CLK_CFG_ClkSrc
    let l := if moved then s.loseLoop 5 3 else s
    let b := l.probeOf p
    let v := (l.noteWaits p).calBoundary p t (s.probeOf p).fresh
    let plan := planOf v.regs p b.slot
    let n := if b.fresh then 0 else b.index
    let ready := (s.probeOf p).bounds = t :: rest ∧ (s.probeOf p).running = true ∧ s.due t = true ∧ s.locked 1 = true
    let trig := plan.m ≠ 0 ∧ n % plan.m = 0
    let forced := (s.calOf p false).forced || (s.calOf p true).forced
    (ready → l.nextEpochOf (fnPort p) = none → Leads (.shotLaunch p phase) s (fun u => u.showCal p) fun u =>
      (u.probeOf p).index = n + 1 ∧ (u.probeOf p).t0 = (if b.fresh then t else b.t0) ∧ (u.probeOf p).fresh = false ∧
      (u.probeOf p).bounds = (if b.slot = 1 ∧ b.burstLeft ≤ 1 then [] else if plan.ext then b.bounds.drop 1 else [t + plan.shotT]) ∧
      (u.probeOf p).burstLeft = b.burstLeft - 1 ∧
      (v.sampling = true → (u.probeOf p).launches = b.launches ++ plan.tones.zipIdx.map (fun (x : Tone × Nat) => (b.launched, x.2, t + x.1.off)) ∧
        u.rd64 (.SHOT_COUNT_LO_Shots p) = (v.rd64 (.SHOT_COUNT_LO_Shots p) + 1) % 2 ^ 64) ∧
      (v.sampling = false → (u.probeOf p).launches = b.launches ∧ (u.probeOf p).gates = [] ∧ (u.probeOf p).lostShots = (b.lostShots || !plan.tones.isEmpty)) ∧
      (plan.m = 0 → (u.probeOf p).rtrig = b.rtrig ∧ (u.ports.get p).rwin = (v.ports.get p).rwin) ∧
      (trig → isPrimary v.regs p = false → isSecondary v.regs p = false → (v.ramOf p).stopped = false → v.rd (.FIBRE_TEST_Mode p) ≠ 3 →
        (u.probeOf p).rtrig = true ∧ (u.probeOf p).rtrigEnd = t + plan.rWidth ∧ (u.ramOf p).lastTrig = some t ∧
        ∃ w, (u.ports.get p).rwin = some w ∧ w.openAt = t + plan.rDelay ∧ w.closeAt = t + plan.rDelay + 4 * v.rd (.DTS_RANGE_RamanPos p) ∧
          w.opened = false ∧ w.dead = !v.sampling) ∧
      (∃ h, (u.ports.get p).shots = h :: (v.ports.get p).shots ∧ h.id = b.launched ∧ h.n = n ∧ h.at_ = t ∧ h.dev = v.devAt t) ∧
      v.otherPorts u p ∧ v.keeps u [.regs, .ports, .time] ∧
      (moved = false → forced = false → s.otherPorts u p ∧ s.keeps u [.regs, .ports, .cal, .time])) ∧
    (∀ e, ready → l.nextEpochOf (fnPort p) = some e →
      let x := (l.noteWaits p).switchPort p t
      (x.2 = false → exec (.shotLaunch p phase) s = .next x.1) ∧
      (x.2 = true → exec (.shotLaunch p phase) s = .next (((x.1.calBoundary p t true).launchShot p t).showCal p))) ∧
    ((s.probeOf p).bounds = t :: rest → (s.probeOf p).running = false ∨ s.due t = false ∨ s.locked 1 = false →
      exec (.shotLaunch p phase) s = .next s) ∧
    ((s.probeOf p).bounds = [] → exec (.shotLaunch p phase) s = .next s)

/-- R53, R60, R62, R69 – R71, R75, R76: a tone's launch plans its window and begins its code; a pulse on SYNC_IN of a fitting width is an event for
a port that waits for one, and one that comes early is counted; a missing event is replaced T_shot + 1 µs after the last.
The model's choices in it: logs 4, 51. -/
def Obligations.TonesAndExternalEvents : Prop :=
  ∀ (s : State) (p : Fin 4),
    let b := s.probeOf p
    let plan := planOf s.regs p b.slot
    (∀ k : Fin 8, ∀ id tm shot, b.launches.find? (fun (l : Nat × Nat × Nat) => l.2.1 == k.val && s.due l.2.2) = some (id, k.val, tm) →
      (s.ports.get p).shots.find? (fun (h : Shot) => h.id == id) = some shot →
      let q := planOf shot.cfg p shot.slot
      Does (.toneLaunch p k) s fun t =>
        (t.ports.get p).wins = (s.ports.get p).wins ++
          [⟨id, k.val, tm + q.delay, tm + q.delay + q.winLen, false, none, tm, s.devAt tm, false⟩] ∧
        (t.probeOf p).codes.head? = some (shot, k.val) ∧ (∀ l, l ∈ (t.probeOf p).launches ↔ l ∈ b.launches ∧ (l.1 ≠ id ∨ l.2.1 ≠ k.val)) ∧
        s.otherPorts t p ∧ s.keeps t [.ports]) ∧
    (∀ k : Fin 8, (∀ l ∈ b.launches, l.2.1 = k.val → s.due l.2.2 = false) → exec (.toneLaunch p k) s = .next s) ∧
    (∀ width sub, s.rd .EMT_CTRL_FrameSrc ≠ 3 →
      let t1 := s.xt + Fin.val sub
      let fits := b.running = true ∧ plan.ext = true ∧ plan.idle = false ∧ ¬ (b.slot = 1 ∧ b.burstLeft = 0) ∧ plan.extMin ≤ width ∧ width ≤ plan.extMax
      let takes := fun (t : State) => (t.probeOf p).lastEvent = some t1 ∧ (t.probeOf p).waitFrom = none ∧
        (t.probeOf p).bounds = b.bounds ++ [t1 + plan.extDelay] ∧ t.rd (.SYNC_COUNT_Early p) = s.rd (.SYNC_COUNT_Early p)
      Does (.syncInPulse width sub) s fun t =>
        (fits → b.waitFrom.isSome = true → takes t) ∧
        (∀ l, fits → b.waitFrom = none → b.lastEvent = some l → l + plan.shotT ≤ t1 + 1000 → takes t) ∧
        (∀ l, fits → b.waitFrom = none → b.lastEvent = some l → t1 + 1000 < l + plan.shotT →
          t.probeOf p = b ∧ t.rd (.SYNC_COUNT_Early p) = min (s.rd (.SYNC_COUNT_Early p) + 1) 65535) ∧
        (¬ fits → t.ports.get p = s.ports.get p ∧ t.rd (.SYNC_COUNT_Early p) = s.rd (.SYNC_COUNT_Early p)) ∧ s.keeps t [.ports, .regs]) ∧
    (∀ t0, b.waitFrom = some t0 ∨ (b.waitFrom = none ∧ b.lastEvent = some t0) →
      let at_ := t0 + plan.shotT + 1000
      let ready := b.running = true ∧ plan.ext = true ∧ plan.idle = false ∧ s.due at_ = true ∧ ¬ (b.slot = 1 ∧ b.burstLeft = 0)
      (ready → Does (.extEventTimeout p) s fun t =>
        (t.probeOf p).lastEvent = some at_ ∧ (t.probeOf p).waitFrom = none ∧ (t.probeOf p).bounds = b.bounds ++ [at_ + plan.extDelay] ∧
          t.rd (.SYNC_COUNT_Missed p) = min (s.rd (.SYNC_COUNT_Missed p) + 1) 65535 ∧ s.otherPorts t p ∧ s.keeps t [.ports, .regs] ∧
          s.keepsRegs t [(Fld.SYNC_COUNT_Missed p).addr]) ∧
      (¬ ready → exec (.extEventTimeout p) s = .next s))

/-- R62, R63, R65 – R67, R73, R113, R133, R178 – R180: PGATE and RTRIG, the windows of tones and of the Raman chain. A closed tone window queues
its slot sample; a closed Raman window adds its shot to the accumulation, or is skipped.
The model's choices in it: logs 4, 51, 52, 54, 117. -/
def Obligations.GatesAndWindows : Prop :=
  ∀ (s : State) (p : Fin 4),
    let b := s.probeOf p
    let q := s.ports.get p
    let keep := fun (t : State) => s.otherPorts t p ∧ s.keeps t [.ports]
    let openNow := ∃ g ∈ s.gatesKnown p, g.1 < s.xt + 25 ∧ s.xt < g.2
    let openStill := ∃ g ∈ s.gatesKnown p, g.1 < s.xt + 25 ∧ s.xt + 25 ≤ g.2
    (openNow → Does (.pgateOpen p) s fun t => t.probeOf p = { b with pgate := true } ∧ keep t) ∧
    (¬ openNow → exec (.pgateOpen p) s = .next s) ∧
    (¬ openStill → Does (.pgateClose p) s fun t => (t.probeOf p).pgate = false ∧ (∀ g ∈ (t.probeOf p).gates, s.xt + 25 ≤ g.2) ∧ keep t) ∧
    (openStill → exec (.pgateClose p) s = .next s) ∧
    (b.rtrig = true → s.due b.rtrigEnd = true → Does (.rtrigRelease p) s fun t => t.probeOf p = { b with rtrig := false } ∧ keep t) ∧
    (b.rtrig = false ∨ s.due b.rtrigEnd = false → exec (.rtrigRelease p) s = .next s) ∧
    (∀ k : Fin 8, ∀ i w, q.wins.findIdx? (fun (w : ToneWin) => w.tone == k.val && !w.opened && w.cut.isNone && s.due w.openAt) = some i →
      q.wins[i]? = some w → Does (.toneWindowOpen p k) s fun t =>
        (t.ports.get p).wins[i]? = some { w with opened := true } ∧ (t.ports.get p).wins.length = q.wins.length ∧
          (∀ j, j ≠ i → (t.ports.get p).wins[j]? = q.wins[j]?) ∧ (t.feOf p).lastWin = some w.closeAt ∧ keep t) ∧
    (∀ k : Fin 8, ∀ x y i w shot,
      q.wins.findIdx? (fun (w : ToneWin) => w.tone == k.val && w.opened && s.due (w.cut.getD w.closeAt)) = some i → q.wins[i]? = some w →
      q.shots.find? (fun (h : Shot) => h.id == w.shot) = some shot →
      let n := 2 * (w.cut.getD w.closeAt - w.openAt)
      let plan := planOf shot.cfg p shot.slot
      (w.dead = true → Leads (.toneWindowClose p k x y) s (fun u => u.finishSeries p) fun u =>
        (u.ports.get p).wins = q.wins.eraseIdx i ∧ u.chainOf p = s.chainOf p ∧ keep u) ∧
      (w.dead = false → x.length ≠ n + 21 ∨ y.length ≠ n + 21 → exec (.toneWindowClose p k x y) s = .next s) ∧
      (w.dead = false → x.length = n + 21 → y.length = n + 21 → Does (.toneWindowClose p k x y) s fun t =>
        (t.ports.get p).wins = q.wins.eraseIdx i ∧ t.freeCtr = s.freeCtr + 1 ∧ s.otherPorts t p ∧
        (t.chainOf p).queue = insertSlot
          { shot := shot, tone := w.tone, slot := plan.slotOf w.tone shot.n, x := (s.convCoh p (fun (_ : Nat) => shot.cfg) 0 (2 * w.openAt) x).map Conv.merged,
            y := (s.convCoh p (fun (_ : Nat) => shot.cfg) 1 (2 * w.openAt) y).map Conv.merged, nextZ := 0, start := w.openAt, at_ := w.at_,
            instant := w.instant,
            seed := s.freeCtr, last := w.tone + 1 == plan.tones.length } (s.chainOf p).queue)) ∧
    (∀ w, q.rwin = some w → w.opened = false → s.due w.openAt = true → Does (.ramanWindowOpen p) s fun t =>
      (t.ports.get p).rwin = some { w with opened := true } ∧ (t.feOf p).lastWin = some w.closeAt ∧ keep t) ∧
    (∀ w ra rs shot, (if q.rcut.isSome then q.rcut else q.rwin) = some w → w.opened = true → s.due w.closeAt = true → q.shots.find? (fun (h : Shot) => h.id == w.shot) = some shot →
      let half := if rfRd shot.cfg (.FE_CTRL_RamanRate p) = 1 then 4 else 8
      let bounds := s.gridBounds p
      let h0 := gridFrom bounds half (2 * w.openAt)
      let step := fun (_ : Nat) => half
      let grid := (gridRun bounds step (2 * (w.closeAt - w.openAt) / half + 1 + bounds.length) h0).filter fun (h : Nat) => decide (h < 2 * w.closeAt)
      let n := ramanPre half + grid.length
      let cfg := fun (_ : Nat) => shot.cfg
      let ca := s.convRam p cfg 4 (ramanPre half) (ramanHs bounds step h0 ra)
      let cs := s.convRam p cfg 5 (ramanPre half) (ramanHs bounds step h0 rs)
      let gone := fun (t : State) =>
        if q.rcut.isSome then (t.ports.get p).rcut = none ∧ (t.ports.get p).rwin = q.rwin else (t.ports.get p).rwin = none
      let skips := fun (t : State) => t.rd (.SKIP_COUNT_Skipped p) = min (s.rd (.SKIP_COUNT_Skipped p) + 1) (2 ^ 32 - 1) ∧
        gone t ∧ (t.ramOf p).shots = (s.ramOf p).shots ∧ bit (t.ramOf p).flags 12 = true
      (w.dead = true → w.stray = false → Does (.ramanWindowClose p ra rs) s fun t => skips t ∧ bit (t.ramOf p).flags 3 = true) ∧
      (w.dead = true → w.stray = true → Does (.ramanWindowClose p ra rs) s fun t => gone t ∧ t.ramOf p = s.ramOf p ∧ keep t) ∧
      (w.dead = false → ra.length ≠ n ∨ rs.length ≠ n → exec (.ramanWindowClose p ra rs) s = .next s) ∧
      (w.dead = false → w.stray = true → ra.length = n → rs.length = n → Does (.ramanWindowClose p ra rs) s fun t =>
        gone t ∧ t.ramOf p = s.ramOf p ∧ t.rd (.SKIP_COUNT_Skipped p) = s.rd (.SKIP_COUNT_Skipped p)) ∧
      (w.dead = false → w.stray = false → ra.length = n → rs.length = n → (∃ c ∈ ca ++ cs, c.invalid = true) →
        Does (.ramanWindowClose p ra rs) s skips) ∧
      (w.dead = false → w.stray = false → ra.length = n → rs.length = n → (∀ c ∈ ca ++ cs, c.invalid = false) →
        Leads (.ramanWindowClose p ra rs) s (fun u => u.accDone p) fun u =>
          (u.ramOf p).shots = (s.ramOf p).shots + 1 ∧ (u.ramOf p).last = shot.dev ∧ gone u ∧
          (u.ramOf p).first = (if (s.ramOf p).shots = 0 then shot.dev else (s.ramOf p).first) ∧
          (u.ramOf p).darkA = (s.ramOf p).darkA + sumCodes (inPositions (2 * w.openAt) (rfRd shot.cfg (.DARK_START_DarkStart p))
            (rfRd shot.cfg (.DARK_START_DarkStart p) + rfRd shot.cfg (.DARK_LEN_DarkLen p)) ca) ∧
          (u.ramOf p).passes.length = (s.ramOf p).passes.length ∧ (∀ x ∈ (u.ramOf p).passes, x.seen.isSome = true) ∧
          ∀ k, k ≠ p → u.ports.get k = { s.ports.get k with ram := { s.ramOf k with passes := (u.ramOf k).passes } }))

/-- R109 – R111, R115 – R117: REF_READY and the power-down of a port's front end, FE_CLEAR, and the raw capture engine: its arm and the arm's errors,
its start, its stop and its end.
The model's choices in it: logs 4, 31, 108, 110, 128, 129, 146. -/
def Obligations.FrontEndPowerAndCapture : Prop :=
  ∀ (s : State) (f : Fin 4),
    let fe := s.feOf f
    let cap := fe.cap
    let state := s.rd (.CAP_STATUS_State f)
    let settled := ∀ j : Fin 6, ∀ u, fe.sliceFrom.get j = some u → s.due (u + 2000000) = true
    (∀ t0, fe.refFrom = some t0 → s.due (t0 + 2000000) = true → settled → Does (.refLeadComplete f) s fun t =>
      t.on (.FE_STATUS_RefReady f) = true ∧ s.keeps t [.regs] ∧ s.keepsRegs t [(Fld.FE_STATUS_RefReady f).addr]) ∧
    (∀ t0, fe.refFrom = some t0 → ¬ (s.due (t0 + 2000000) = true ∧ settled) → exec (.refLeadComplete f) s = .next s) ∧
    (∀ t0, fe.downAt = some t0 → s.due t0 = true → s.on (.FE_CTRL_RefKeep f) = false → Does (.refPowerDown f) s fun t =>
      (t.feOf f).refFrom = none ∧ (t.feOf f).downAt = none ∧ (∀ j, (t.feOf f).sliceFrom.get j = none) ∧ t.on (.FE_STATUS_RefReady f) = false ∧
        t.on (.FE_STATUS_RefOn f) = false ∧ t.rd (.FE_STATUS_SlicePower f) = 0 ∧ s.otherPorts t f ∧ s.keeps t [.regs, .ports]) ∧
    (∀ t0, fe.downAt = some t0 → s.due t0 = false ∨ s.on (.FE_CTRL_RefKeep f) = true → exec (.refPowerDown f) s = .next s) ∧
    (∀ p tag (data : Word), s.Takes p 2 tag → s.gated (portAddr f 0x210).toNat true = false →
      Answers (.feClear p tag f data) s p (mkResp 2 tag (portAddr f 0x210) 0 0 0 0) fun u =>
        (data.getLsbD 0 = true → u.rd (.OVR_CNT_C_CX f) = 0 ∧ u.rd (.OVR_CNT_C_CY f) = 0 ∧ u.rd (.OVR_CNT_R_RA f) = 0 ∧ u.rd (.OVR_CNT_R_RS f) = 0 ∧
          ∀ i, (u.feOf f).ovrTo.get i = max (fe.ovrTo.get i) (2 * s.xt)) ∧
        (data.getLsbD 0 = false → s.keepsRegs u [] ∧ u.feOf f = fe) ∧ s.keepsRegs u [(Fld.OVR_CNT_C_CX f).addr, (Fld.OVR_CNT_R_RA f).addr] ∧
        s.otherPorts u f ∧ s.keepsTaken u p [.regs, .ports]) ∧
    (∀ p tag data, s.Takes p 2 tag → s.gated (portAddr f 0x300).toNat true = false → data.getLsbD 0 = true → data.getLsbD 1 = false →
      let w := (s.taken p 2 tag (portAddr f 0x300) data).putWord (portAddr f 0x300).toNat data
      let e := w.armError f
      Answers (.captureArm p tag f data) s p (mkResp 2 tag (portAddr f 0x300) 0 0 0 0) fun u =>
        u.rd (.CAP_STATUS_Error f) = e ∧
        (e = 4 → u.rd (.CAP_STATUS_State f) = state ∧ u.feOf f = fe) ∧ (e ≠ 0 → e ≠ 4 → u.rd (.CAP_STATUS_State f) = 0) ∧
        (e = 0 → u.rd (.CAP_STATUS_State f) = (if data.toNat / 256 % 4 = 0 then 2 else 1) ∧ u.rd (.CAP_DONE_Samples f) = 0 ∧
          u.rd (.CAP_STATUS_CaptureSeq f) = cap.seq % 65536 ∧ (u.feOf f).cap.total = s.rd (.CAP_LEN_Total f) ∧ (u.feOf f).cap.buf = []) ∧
        s.otherPorts u f ∧ s.keepsTaken u p [.regs, .ports]) ∧
    (∀ p tag data samples, s.Takes p 2 tag → s.gated (portAddr f 0x300).toNat true = false → data.getLsbD 0 = false → data.getLsbD 1 = true →
      Answers (.captureStop p tag f data samples) s p (mkResp 2 tag (portAddr f 0x300) 0 0 0 0) fun u =>
        (state = 1 ∨ state = 2 → u.rd (.CAP_STATUS_State f) = 3) ∧ (state = 0 ∨ state = 3 → u.rd (.CAP_STATUS_State f) = state ∧ u.feOf f = fe)) ∧
    (∀ at_ xs,
      let due : Prop := match cap.trigger with
        | 1 => ∃ x ∈ (s.ports.get f).shots, 2 * x.at_ = at_
        | 2 => cap.gap = false ∧ ∃ x rest, s.capConv f cap.source at_ xs = x :: rest ∧ x.ovr = true ∧ x.h = at_ ∧ x.j ∈ sourceSlices cap.source
        | 3 => ∃ w, (s.ports.get f).rwin = some w ∧ w.opened = true ∧ 2 * w.openAt ≤ at_ ∧ at_ < 2 * w.openAt + 8
        | _ => True
      let starts := state = 1 ∧ cap.to_ ≤ at_ ∧ due
      (starts → Does (.captureStart f ⟨at_, xs⟩) s fun t =>
        t.rd (.CAP_STATUS_State f) = 2 ∧ (t.feOf f).cap = { cap with to_ := at_ } ∧ s.otherPorts t f ∧ s.keeps t [.regs, .ports] ∧
          s.keepsRegs t [(Fld.CAP_STATUS_State f).addr]) ∧
      (¬ starts → exec (.captureStart f ⟨at_, xs⟩) s = .next s)) ∧
    (∀ xs, state ≠ 2 → exec (.captureComplete f xs) s = .next s) ∧
    (∀ xs, state = 2 → cap.index < cap.total → Does (.captureComplete f xs) s fun t =>
      (t.feOf f).cap.total = cap.total ∧ cap.index ≤ (t.feOf f).cap.index ∧ s.otherPorts t f ∧
        (t.rd (.CAP_STATUS_State f) = 3 ↔ cap.total ≤ (t.feOf f).cap.index))

/-- R121, R136, R137, R139, R144, R147, R148, R152, R158, R169: the phase chain and the product unit take one position, item, window or second at a
time, in order; PEEK_POS copies the state of a position.
The model's choices in it: logs 4, 45, 47, 107, 113, 117, 121, 131. -/
def Obligations.ChainAndProductSteps : Prop :=
  ∀ (s : State) (f : Fin 4), s.locked 1 = true →
    (∀ sw rest, (s.chainOf f).queue = sw :: rest →
      let n := (planOf sw.shot.cfg f sw.shot.slot).winPos - gaugeOf sw.shot.cfg f
      Does (.fusionUpdate f) s fun t => s.otherPorts t f ∧
        (sw.nextZ + 1 < n → (t.chainOf f).queue = { sw with nextZ := sw.nextZ + 1 } :: rest) ∧
        (n ≤ sw.nextZ + 1 → (t.chainOf f).queue = rest ∧ (t.chainOf f).fadedNow = 0 ∧
          t.rd (.CHAIN_STATUS_SettleCount f) = min 64 (t.chainOf f).sinceInit)) ∧
    ((s.chainOf f).queue = [] → exec (.fusionUpdate f) s = .next s) ∧
    (∀ it rest, (s.chainOf f).items = it :: rest → s.needsDram f it.cfg = true → s.dramOpen = false → exec (.fusedItem f) s = .next s) ∧
    (∀ it rest, (s.chainOf f).items = it :: rest → s.needsDram f it.cfg = false ∨ s.dramOpen = true → Does (.fusedItem f) s fun t =>
      (t.chainOf f).items = rest ∧ spGet (fun _ => none) (t.dasOf f).prev it.z = some it.phi ∧
        ∀ z, z ≠ it.z → spGet (fun _ => none) (t.dasOf f).prev z = spGet (fun _ => none) (s.dasOf f).prev z) ∧
    ((s.chainOf f).items = [] → exec (.fusedItem f) s = .next s) ∧
    (∀ p tag data, s.Takes p 2 tag → s.gated (portAddr f 0x440).toNat true = false →
      Answers (.peekPosWrite p tag f data) s p (mkResp 2 tag (portAddr f 0x440) 0 0 0 0) fun u =>
        u.rd (.PEEK_POS_Pos f) = data.toNat % 2 ^ 18 ∧ u.on (.PEEK_POS_Ready f) = false ∧ (u.chainOf f).peek = some (data.toNat % 2 ^ 18) ∧
          s.otherPorts u f ∧ s.keepsTaken u p [.regs, .ports] ∧ s.keepsRegs u [(Fld.PEEK_POS_Pos f).addr]) ∧
    (∀ z, (s.chainOf f).peek = some z → Does (.peekCopyDone f) s fun t =>
      t.on (.PEEK_POS_Ready f) = true ∧ (t.chainOf f).peek = none ∧ (t.chainOf f).peekBad = (s.sramRead (reqPort f) f (28 * z) 28).2 ∧
        (∀ k, k < 7 → t.rd (.PEEK_DATA_Data f k) = leAt (s.sramRead (reqPort f) f (28 * z) 28).1 (4 * k) 4) ∧ s.otherPorts t f) ∧
    ((s.chainOf f).peek = none → exec (.peekCopyDone f) s = .next s) ∧
    (∀ r : Fin 16, ∀ w ws, (s.rangeOf f r).wins = w :: ws → (s.dasOf f).switches = [] →
      let ready := (s.needsDram f s.regs = false ∨ s.dramOpen = true) ∧ s.deliveredTo f (w.at_ + w.len) = true
      (ready → Does (.bandWindowClose f r) s fun t => (t.rangeOf f r).wins = [] ∧ w.at_ + w.len ≤ (t.rangeOf f r).issued ∧ s.otherPorts t f) ∧
      (¬ ready → exec (.bandWindowClose f r) s = .next s)) ∧
    (∀ x xs, (s.dasOf f).traces = x :: xs → (∀ l, (s.dasOf f).traceLast = some l → l < x.sec) → s.power.released = true →
      (s.deliveredTo f ((x.sec + 1) * 1000000000) = true → Does (.backscatterTrace f) s fun t =>
        (t.dasOf f).traces = xs ∧ (t.dasOf f).traceLast = some x.sec ∧ t.chainOf f = s.chainOf f) ∧
      (s.deliveredTo f ((x.sec + 1) * 1000000000) = false → exec (.backscatterTrace f) s = .next s))

/-- R136: what one sample does to the state of a position. A faded sample leaves φ and the offsets; the first good sample of a slot takes the offset
that agrees with φ; any other good sample moves φ by its residual r = θ − offset − φ, two's complement of 16 bits. -/
def Obligations.SamplesFuseIntoOnePhase : Prop :=
  ∀ (x : Pos) (sl n theta level depth floor step shift : Nat) (zero restart : Bool), x.off.length = 8 → x.q.length = 8 → sl < n → n ≤ 8 →
    (∀ v ∈ x.q, v ≤ 255) → (∀ v ∈ x.off, v < 65536) → x.phi < 2 ^ 32 → theta < 65536 → 1 ≤ level → level ≤ 255 → 1 ≤ step → 1 ≤ shift →
    let y := fuse x sl n theta level depth floor step shift zero restart
    let used := (x.q.take n).filter fun v => v != 0
    let mean := used.sum / used.length
    let faded := zero = true ∨ level < floor ∨ (used ≠ [] ∧ mean ≠ 0 ∧ level + depth < mean)
    (y.2.1 = true ↔ faded) ∧
    (faded → y.1.phi = x.phi ∧ y.1.off = x.off ∧ y.2.2 = 0) ∧
    (¬ faded → x.q.getD sl 0 = 0 → y.1.phi = x.phi ∧ (y.1.off.getD sl 0 + x.phi) % 65536 = theta ∧ y.1.q.getD sl 0 = level ∧ y.2.2 = 0) ∧
    (¬ faded → x.q.getD sl 0 ≠ 0 → -32768 ≤ y.2.2 ∧ y.2.2 < 32768 ∧ (((x.off.getD sl 0 + x.phi : Nat) : Int) + y.2.2 - theta) % 65536 = 0 ∧
      ((y.1.phi : Int) - x.phi - y.2.2) % 2 ^ 32 = 0 ∧ y.1.phi < 2 ^ 32) ∧
    (∀ v ∈ y.1.q, v ≤ 255) ∧ y.1.q.length = 8 ∧ y.1.off.length = 8

/-- R170 – R173: event capture. A trigger written to CAPEV_CTRL opens a selection from Pre before it to Post after it; a trigger while it runs
prolongs it; it ends at its Post; the read-out ends with the engine idle, and triggers that came meanwhile act then.
The model's choices in it: logs 4, 46, 107, 130. -/
def Obligations.EventCaptures : Prop :=
  ∀ (s : State) (f : Fin 4),
    let e := s.evOf f
    let state := s.rd (.CAPEV_STATUS_State f)
    let pre := s.rd (.CAPEV_TIME_Pre f) * 1000000
    let post := s.rd (.CAPEV_TIME_Post f) * 1000000
    (∀ p tag data, s.Takes p 2 tag → s.pwr ≠ 1 → s.gated (portAddr f 0x620).toNat true = false →
      let able := data.getLsbD 1 = true ∧ s.on (.CAPEV_CTRL_Enable f) = true ∧ s.memMode ≠ 3
      Answers (.eventCaptureTrigger p tag f data) s p (mkResp 2 tag (portAddr f 0x620) 0 0 0 0) fun u =>
        (able → state = 0 → u.rd (.CAPEV_STATUS_State f) = 1 ∧ (u.evOf f).trig = s.now ∧ (u.evOf f).cause = 1 ∧ (u.evOf f).endAt = s.now + post ∧
          (u.evOf f).from_ = max (s.now - pre) (match e.done with | some d => d + 1 | none => 0) ∧ (u.evOf f).seq = e.seq + 1 ∧
          (u.evOf f).history = e.history ∧ u.rd (.CAPEV_STATUS_Seq f) = e.seq % 65536) ∧
        (able → state = 1 → u.rd (.CAPEV_STATUS_State f) = 1 ∧ u.evOf f = { e with endAt := max e.endAt (s.now + post), retrig := e.retrig + 1 }) ∧
        (able → state = 2 → u.rd (.CAPEV_STATUS_State f) = 2 ∧ u.evOf f = { e with waiting := e.waiting ++ [(s.now, 1)] }) ∧
        (¬ able → u.rd (.CAPEV_STATUS_State f) = state ∧ u.ports = s.ports) ∧ s.otherPorts u f ∧ s.keepsTaken u p [.regs, .epoch, .ports]) ∧
    (s.locked 1 = true → state = 1 → s.deliveredTo f e.close.1 = true → Does (.captureSelectionEnd f) s fun t =>
      t.rd (.CAPEV_STATUS_State f) = 2 ∧ t.evOf f = { e with endAt := e.close.1, ending := e.close.2 } ∧ s.otherPorts t f ∧
        s.keeps t [.regs, .ports] ∧ s.keepsRegs t [(Fld.CAPEV_STATUS_State f).addr]) ∧
    (state ≠ 1 ∨ s.deliveredTo f e.close.1 = false → exec (.captureSelectionEnd f) s = .next s) ∧
    (s.locked 1 = true → state = 2 → s.memMode = 3 ∨ s.dramOpen = true → e.waiting = [] → Does (.captureReadoutDone f) s fun t =>
      t.rd (.CAPEV_STATUS_State f) = 0 ∧ (t.evOf f).waiting = [] ∧
        (∀ c ∈ (t.evOf f).history, c ∈ e.history ∧ ∀ x, (e.history.filter fun (y : CapSet) => e.selects y).getLast? = some x → x.time < c.time)) ∧
    (s.locked 1 = true → state = 2 → s.memMode = 3 ∨ s.dramOpen = true → ∀ w ws, e.waiting = w :: ws →
      Leads (.captureReadoutDone f) s (fun u => e.waiting.foldl (fun (u : State) (w : Nat × Nat) => u.capTrigger f w.1 w.2) u) fun u =>
        u.rd (.CAPEV_STATUS_State f) = 0 ∧ (u.evOf f).waiting = []) ∧
    (state ≠ 2 ∨ s.locked 1 = false ∨ (s.memMode ≠ 3 ∧ s.dramOpen = false) → exec (.captureReadoutDone f) s = .next s)

/-- R181, R193, R197 – R201, R203: a Raman completion pass leaves with the next AccSeq; a scan of the auxiliary converter begins with the epoch's
settings, and its pulses and conversions end slot by slot.
The model's choices in it: logs 4, 48, 50, 117, 136. -/
def Obligations.RamanPassesAndAuxiliaryScans : Prop :=
  ∀ (s : State),
    let a := s.aux
    let len := slotLen a.cfg
    (∀ f : Fin 4, ∀ x rest, (s.ramOf f).passes = x :: rest → s.locked 1 = true → Does (.completionPassDone f) s fun t =>
      (t.ramOf f).passes = rest ∧ t.rd (.DTS_SEQ_AccSeq f) = (s.rd (.DTS_SEQ_AccSeq f) + 1) % 2 ^ 32 ∧
        t.on (.DTS_STATUS_RefFault f) = bit x.flags 11 ∧ (t.ramOf f).setAt = some s.xt ∧ (t.ramOf f).temps.length = (match x.seen with | some v => v.entries.length | none => x.bins)) ∧
    (∀ f : Fin 4, (s.ramOf f).passes = [] ∨ s.locked 1 = false → exec (.completionPassDone f) s = .next s) ∧
    (a.running = true → s.due a.nextAt = true → s.nextEpochOf fnAux = none → Does .auxScanStart s fun t =>
      t.aux.active = true ∧ t.aux.scanAt = a.nextAt ∧ t.aux.seq = a.seq + 1 ∧ t.aux.cjDone = false ∧ t.aux.nextAt =
        (if rfRd a.cfg .AUX_CTRL_AuxRate = max 1 (s.rd .AUX_CTRL_AuxRate) ∧ a.active = true
          then a.base + (a.count + 1) * 1000000000 / max 1 (s.rd .AUX_CTRL_AuxRate) else a.nextAt + 1000000000 / max 1 (s.rd .AUX_CTRL_AuxRate)) ∧
        (∀ k, (t.aux.tcs.get k).pulsed = false ∧ (t.aux.tcs.get k).done = false)) ∧
    (a.running = false ∨ s.due a.nextAt = false → exec .auxScanStart s = .next s) ∧
    (∀ k : Fin 4, ∀ rise,
      let ready := a.active = true ∧ (a.tcs.get k).pulsed = false ∧ bit (rfRd a.cfg .AUX_CTRL_TcEnable) k = true ∧
        s.due (a.scanAt + k.val * len + 200000) = true
      (ready → (a.tcs.get k).conv = none → Does (.burnoutPulseEnd k rise) s fun t =>
        t.aux.tcs.get k = { a.tcs.get k with pulsed := true, mark := decide (50000000 < rise) } ∧ (∀ j, j ≠ k → t.aux.tcs.get j = a.tcs.get j) ∧
          s.keeps t [.aux]) ∧
      (∀ c, ready → (a.tcs.get k).conv = some c → Leads (.burnoutPulseEnd k rise) s (fun u => u.releaseTc k c (decide (50000000 < rise))) fun u =>
        u.aux.tcs.get k = { a.tcs.get k with pulsed := true, mark := decide (50000000 < rise) } ∧ s.keeps u [.aux]) ∧
      (¬ ready → exec (.burnoutPulseEnd k rise) s = .next s)) ∧
    (∀ value : BitVec 32, a.active = true → s.due (a.scanAt + 5 * len) = true → a.cjDone = false →
      let cj := value.toInt + rfRdS a.cfg .CJ_OFFSET_CjOffset
      Leads (.auxConversionEnd 4 value) s (fun u => u.noteScan (a.seq - 1) 4 fun (x : ScanRec) => { x with cj := cj, cjOot := (pwl a.cfg 4 cj).2 }) fun u =>
        ((u.rd .CJ_VALUE_Value : Int) - cj) % 2 ^ 32 = 0 ∧ u.on .AUX_STATUS_CjOutOfTable = (pwl a.cfg 4 cj).2 ∧ u.aux = { a with cjDone := true } ∧
          s.keeps u [.aux, .regs] ∧ s.keepsRegs u [Fld.CJ_VALUE_Value.addr, Fld.AUX_STATUS_CjOutOfTable.addr]) ∧
    (∀ k : Fin 4, ∀ value : BitVec 32, a.active = true → s.due (a.scanAt + k.val * len + len) = true → (a.tcs.get k).done = false →
      (a.tcs.get k).pulsed = true → Does (.auxConversionEnd ⟨k.val, by omega⟩ value) s fun t =>
        (t.aux.tcs.get k).done = true ∧ (∃ c, (t.aux.tcs.get k).conv = some c ∧ c.code = toS 24 value.toNat ∧ c.scan = a.seq - 1 ∧
          c.openBefore = (a.tcs.get k).mark ∧ c.cfg = a.cfg) ∧ (∀ j, j ≠ k → t.aux.tcs.get j = a.tcs.get j) ∧ s.keeps t [.aux])

/-- R81 – R83, R85, R204 – R206, R546: the zone outputs and the sentinel watch: zones follow their sources every 100 ms and go to fault level in HOLD
and QUIESCENT; a low V_RATIO drives 0 V; bursts follow the watch plan; an edge on WAKE wakes the device from SENTINEL.
The model's choices in it: logs 4, 79, 132. -/
def Obligations.ZonesAndSentinel : Prop :=
  ∀ (s : State),
    let k := s.now / 100000000
    let fresh := (∀ l, s.zone.last = some l → l < k) ∧ s.pwr ≠ 0 ∧ s.pwr ≠ 5
    (∀ mv, fresh → 2250 ≤ mv → s.zone.low = false ∨ 2350 ≤ mv → s.pwr = 1 ∨ s.pwr = 4 → Does (.zoneUpdate mv) s fun t =>
      (∀ z : Fin 8, t.rd (.ZONE_OUT_Code z) = 2621 ∧ t.on (.ZONE_OUT_Lost z) = true) ∧ t.zone = { s.zone with last := some k, low := false } ∧
        s.keeps t [.regs, .zone]) ∧
    (∀ mv, fresh → 2250 ≤ mv → s.zone.low = false ∨ 2350 ≤ mv → s.pwr ≠ 1 → s.pwr ≠ 4 → Does (.zoneUpdate mv) s fun t => t.zone.last = some k ∧ s.keeps t [.regs, .zone] ∧
      ∀ z : Fin 8, (∀ v, s.zoneSource z = some v → t.rd (.ZONE_OUT_Code z) = s.zoneCode z v ∧ t.on (.ZONE_OUT_Lost z) = false ∧
          3277 ≤ t.rd (.ZONE_OUT_Code z) ∧ t.rd (.ZONE_OUT_Code z) ≤ 62259) ∧
        (s.zoneSource z = none → t.rd (.ZONE_OUT_Code z) = 2621 ∧ t.on (.ZONE_OUT_Lost z) = true)) ∧
    (∀ mv, fresh → s.zone.low = true → mv < 2350 → Does (.zoneUpdate mv) s fun t => t.zone = { s.zone with last := some k } ∧ s.keeps t [.zone]) ∧
    (∀ mv, fresh → s.zone.low = false → mv < 2250 → Does (.zoneUpdate mv) s fun t => t.zone = { s.zone with last := some k, low := true } ∧
      (∀ z : Fin 8, t.on (.ZONE_OUT_Lost z) = true ∧ (s.power.off = false → t.zoneDrive z = some 0)) ∧ t.alarmed 0x0709 0 0) ∧
    (s.zone.low = true → exec .vratioLow s = .next s) ∧
    (∀ mv, ¬ fresh → exec (.zoneUpdate mv) s = .next s) ∧
    (s.zone.low = false → Does .vratioLow s fun t => t.zone = { s.zone with low := true } ∧ (∀ z : Fin 8, t.on (.ZONE_OUT_Lost z) = true) ∧
      t.alarmed 0x0709 0 0 ∧ (∀ z : Fin 8, s.pwr ≠ 5 → s.power.off = false → t.zoneDrive z = some 0)) ∧
    (s.watching = true → s.power.phase = 0 ∨ s.power.phase = 3 → s.watchPorts ≠ [] → s.due (s.burstAt - s.watchLead) = true → Does .sentinelBurstLead s fun t =>
      t.power = { s.power with phase := 1 } ∧ (∀ n : Fin 16, bit (t.rd (.INT_PENDING_Sources n)) 13 = true) ∧
        (∀ l : Fin 6, l.val < 3 → (t.loops.get l).running = true)) ∧
    (s.watching = true → s.power.phase = 1 → s.due s.burstAt = true → s.dramReady = false → Does .sentinelBurstStart s fun t =>
      t.power = { s.power with phase := 3, burst := s.power.burst + 1 } ∧ t.rd .WAKE_STATUS_Skipped = min (s.rd .WAKE_STATUS_Skipped + 1) 65535 ∧
        s.keeps t [.power, .regs]) ∧
    (s.watching = true → s.power.phase = 1 → s.due s.burstAt = true → s.dramReady = true → Does .sentinelBurstStart s fun t =>
      t.power = { s.power with phase := 2, burst := s.power.burst + 1 } ∧ s.keeps t [.power, .regs, .ports] ∧
        ∀ p ∈ s.watchPorts, (t.probeOf p).running = true ∧ (t.probeOf p).slot = 1 ∧
          ((planOf s.regs p 1).idle = false → (t.probeOf p).bounds = [s.burstAt] ∧ (t.probeOf p).burstLeft = s.rd .WATCH_CTRL_Burst ∧
            (t.probeOf p).lastEvent = some (s.burstAt - (planOf s.regs p 1).extDelay)) ∧
          ((planOf s.regs p 1).idle = true → (t.probeOf p).bounds = [] ∧ (t.probeOf p).burstLeft = 0)) ∧
    (s.watching = true → 2 ≤ s.power.phase → (∀ p ∈ s.watchPorts, s.burstDrained p = true) → s.dramReady = true →
      let watched := s.probeOf (fin 3 (s.rd .WAKE_DAS_Port))
      let run := if s.power.phase ≠ 2 ∨ watched.bandSeen = false then s.power.bandRun else if watched.bandHit then s.power.bandRun + 1 else 0
      let wakes := s.power.phase = 2 ∧ watched.bandSeen = true ∧ s.on .WAKE_DAS_Enable = true ∧ s.rd .WAKE_DAS_K ≤ run ∧ 0 < run
      (wakes → Leads .burstDrainDone s (fun u => u.wake 1) fun u => 
        u.power = { s.power with bandRun := run, phase := 0 } ∧ (u.probeOf (fin 3 (s.rd .WAKE_DAS_Port))).bandSeen = false ∧
          s.keeps u [.power, .ports] ∧ s.otherPorts u (fin 3 (s.rd .WAKE_DAS_Port))) ∧
      (¬ wakes → Does .burstDrainDone s fun t => t.power.bandRun = run ∧ t.power.phase = 0 ∧ t.power.trans = s.power.trans)) ∧
    (∀ level, s.on .WATCH_CTRL_PinWake = true → level ≠ s.on .WATCH_CTRL_PinFall → s.watching = true → Does (.wakePinEdge level) s fun t =>
      t.rd .WAKE_STATUS_Cause = 3 ∧ t.on .PWR_STATE_Transit = true ∧ t.power.trans = some (3, 2) ∧ t.power.wakeAt = some s.xt ∧
        (∀ p : Fin 4, (t.probeOf p).bounds = [])) ∧
    (∀ level, s.on .WATCH_CTRL_PinWake = false ∨ level = s.on .WATCH_CTRL_PinFall ∨ s.watching = false → exec (.wakePinEdge level) s = .next s)

/-! Free-space road -/

/-- R209 – R211, R213, R214, R216 – R218, R222, R232, R264 – R266, R291: a lane's comparator and its edges, whose fine part the bin-width table gives:
a disabled or blind lane and one held off stamp nothing; a start-lane edge 5 to 40 ns after t_p is the shot's start; an edge in no shot's window is
counted; a shot without a start counts as missed. A shot is judged by the settings of its point's epoch.
The model's choices in it: logs 4, 18, 55, 56, 62, 124, 126. -/
def Obligations.LaneEdgesAndStarts : Prop :=
  ∀ (s : State) (l : Fin 266) (ns : Fin 25) (code : Nat) (uv : Int),
    let c := Instr.laneEdge l ⟨ns, code⟩ uv
    let was := s.on (.LANE_TRIM_Level l)
    let out := compOut s.regs l was uv
    let x := s.xu + 128 * ns.val + fineOf (s.lane l).table code
    let open_ := s.locked 3 = true ∧ s.pinOff l = false
    let blind := ∃ a b, (s.lane l).blind = some (a, b) ∧ a ≤ x ∧ x < b
    let ranOut := fun (r : RegFile) => ∀ h, (s.lane l).hold = some h → h + 512 * rfRd r (.LANE_CFG_HoldOff l) ≤ x
    let here := s.on (.LANE_CFG_Enable l) = true ∧ ranOut s.regs
    let shots := s.edgeShots l x
    let passes := open_ ∧ out = true ∧ was = false ∧ ¬ blind ∧ (here ∨ shots ≠ [])
    let inc := fun (t : State) (g : Fld) => t.rd g = min (s.rd g + 1) 65535
    let lev := fun (t : State) => t.on (.LANE_TRIM_Level l) = out ∧ (t.lane l).level = uv
    let only := fun (t : State) => lev t ∧ t.lane l = { s.lane l with level := uv } ∧ s.keeps t [.regs, .lidar]
    let stamped := fun (t : State) => lev t ∧ (t.lane l).hold = some x ∧ (t.lane l).edges.head? = some x
    let outside := fun (q : Fin 8 × EShot) =>
      let r := s.shotCfg q.1 q.2
      x < q.2.tp ∨ (s.spanU q.2.tp x).toNat < 128 * rfRd r (.LANE_WIN_Open l) ∨ 128 * rfRd r (.LANE_WIN_Close l) ≤ (s.spanU q.2.tp x).toNat
    (s.locked 3 = false → exec c s = .next s) ∧
    (∀ q, q ∈ shots ↔ q.2 ∈ (s.ep q.1).shots ∧ rfRd (s.shotCfg q.1 q.2) (.LANE_CFG_Enable l) = 1 ∧ ranOut (s.shotCfg q.1 q.2) ∧
      (if l.val < 256 then rfRd (s.shotCfg q.1 q.2) (.LANE_CFG_Emitter l) = q.1.val else l.val = 256 + q.1.val)) ∧
    (open_ → ¬ (out = true ∧ was = false) ∨ blind ∨ (s.on (.LANE_CFG_Enable l) = false ∧ shots = []) → Does c s fun t =>
      only t ∧ s.keepsRegs t [(Fld.LANE_TRIM_Level l).addr]) ∧
    (open_ → out = true → was = false → ¬ blind → s.on (.LANE_CFG_Enable l) = true → ¬ ranOut s.regs → shots = [] → Does c s fun t =>
      only t ∧ inc t (.LANE_CNT_B_HoldSup l)) ∧
    (passes → l.val < 256 → (∀ q ∈ shots, outside q) → Does c s fun t => stamped t ∧ inc t (.LANE_CNT_A_Outside l) ∧ s.keeps t [.regs, .lidar]) ∧
    (passes → l.val < 256 → ∀ e h st, shots = [(e, h)] → h.tp ≤ x → h.st = some st →
      let r := s.shotCfg e h
      synLane r l = false →
      let stamp := (s.spanU h.tp x).toNat
      128 * rfRd r (.LANE_WIN_Open l) ≤ stamp → stamp < 128 * rfRd r (.LANE_WIN_Close l) → Does c s fun t =>
        stamped t ∧ t.rd (.LANE_CNT_A_Outside l) = s.rd (.LANE_CNT_A_Outside l) ∧
          (stamp + 1 < st → inc t (.LANE_CNT_A_PreStart l)) ∧ (st ≤ stamp + 1 → t.rd (.LANE_CNT_A_PreStart l) = s.rd (.LANE_CNT_A_PreStart l))) ∧
    (∀ e : Fin 8, passes → l.val = 256 + e.val → (∀ q ∈ shots, q.2.searched = true ∨ s.spanU q.2.tp x < 640 ∨ 5120 ≤ s.spanU q.2.tp x) →
      Does c s fun t => stamped t ∧ inc t (.LANE_CNT_A_Outside l) ∧ s.keeps t [.regs, .lidar]) ∧
    (∀ (e : Fin 8) h, passes → l.val = 256 + e.val → (s.ep e).shots = [h] → shots = [(e, h)] → h.searched = false → 640 ≤ s.spanU h.tp x →
      s.spanU h.tp x < 5120 → h.diag = none → Does c s fun t => stamped t ∧ t.rd (.PORT_STATE_Misses e) = 0 ∧
        (t.ep e).shots = [{ h with st := some (s.spanU h.tp x).toNat, searched := true, stops := [] }]) ∧
    (∀ k : Fin 2, passes → l.val = 264 + k.val → Does c s fun t =>
      stamped t ∧ (t.lidar.scans.get k).lastSync = some x ∧ s.keeps t [.regs, .lidar]) ∧
    (s.locked 3 = true → s.pinOff l = true → (s.lane l).inject = [] → exec c s = .next s) ∧
    (∀ (e : Fin 8) h, (s.ep e).shots.find? (fun (g : EShot) => !g.searched && s.dueU (g.tp + 5120)) = some h →
      let m := min 3 (s.rd (.PORT_STATE_Misses e) + 1)
      let cast_ := fun (P : State → Prop) => Does (.startSearchEnd e) s fun t => inc t (.START_STAT_Missed e) ∧
        (∀ g ∈ (t.ep e).shots, g.n = h.n → g.searched = true ∧ g.stops = []) ∧ P t
      (h.diag = none → cast_ fun t => t.rd (.PORT_STATE_Misses e) = m ∧ s.keeps t [.regs, .lidar] ∧
        t.rd (.PORT_STATE_State e) = (if m = 3 ∧ s.rd (.PORT_STATE_State e) = 1 then 2 else s.rd (.PORT_STATE_State e))) ∧
      (∀ k : Fin 16, h.diag = some (false, k.val) → (s.ep e).low.get k < 2 → cast_ fun t =>
        (t.ep e).low.get k = (s.ep e).low.get k + 1 ∧ s.keeps t [.regs, .lidar]) ∧
      (∀ k : Fin 16, h.diag = some (false, k.val) → 2 ≤ (s.ep e).low.get k → cast_ fun t => (t.ep e).low.get k = 0 ∧ t.alarmed 0x0208 e k ∧
        (s.on .EMT_CTRL_AutoBypass = true → t.rd (.PORT_OPEN_Open e) = Nat.lor (s.rd (.PORT_OPEN_Open e)) (2 ^ k.val) ∧ (t.ep e).back = true ∧
          t.rd (.PORT_STATE_State e) = s.rd (.PORT_STATE_State e)) ∧
        (s.on .EMT_CTRL_AutoBypass = false → t.rd (.PORT_STATE_State e) = 3 ∧ t.rd (.PORT_STATE_Cause e) = 2)) ∧
      (∀ k, h.diag = some (true, k) → (s.ep e).diags = [] → (s.ep e).line = none → (∀ g ∈ (s.ep e).shots, g.n ≠ h.n → g.searched = true) →
        cast_ fun t => (t.ep e).isoGot = [] ∧ ((s.ep e).isoCut = true → (t.ep e).isoCut = false ∧ s.keeps t [.regs, .lidar]) ∧
          ((s.ep e).isoCut = false → (s.ep e).isoGot = [] → t.alarmed 0x0208 e 0xFF ∧ t.rd (.PORT_STATE_State e) = 3 ∧ t.rd (.PORT_STATE_Cause e) = 3) ∧
          (∀ i, (s.ep e).isoCut = false → (s.ep e).isoGot = [i] → t.alarmed 0x0208 e (i % 2 ^ 32) ∧ (t.ep e).back = s.on .EMT_CTRL_AutoBypass ∧
            (s.on .EMT_CTRL_AutoBypass = false → t.rd (.PORT_STATE_State e) = 3 ∧ t.rd (.PORT_STATE_Cause e) = 2)) ∧
          ((s.ep e).isoCut = false → 2 ≤ (s.ep e).isoGot.length → (s.ep e).isoRuns = 0 → (t.ep e).isoRuns = 1 ∧ t.rd (.PORT_STATE_State e) = s.rd (.PORT_STATE_State e)))) ∧
    (∀ e : Fin 8, (s.ep e).shots.find? (fun (g : EShot) => !g.searched && s.dueU (g.tp + 5120)) = none → exec (.startSearchEnd e) s = .next s)

/-- R214, R224 – R227, R237: an edge is indexed into its channel's gate, a full gate's fit reaches the channel's result registers, and a channel whose
source stops empties its gate, also one filled in part since it last did.
The model's choices in it: logs 4, 111, 138, 139, 142. -/
def Obligations.RegressionChannels : Prop :=
  ∀ (s : State) (c : Fin 16),
    let g := s.lidar.chans.get c
    let n := s.rd (.REG_CFG_Gate c)
    let stale := s.on (.REG_CFG_Enable c) = true ∧ (s.on (.REG_STATUS_Stale c) = false ∨ g.gate ≠ []) ∧ s.channelRuns c = true ∧
      s.due (g.since + ceilDiv (4 * s.period c) (2 ^ 24)) = true
    (g.fits = [] ∨ s.channelRuns c = false → exec (.regressionFit c) s = .next s) ∧
    (∀ gate dups rest, s.channelRuns c = true → g.fits = (gate, dups) :: rest →
      let f := regFit gate dups (s.rd (.REG_LIMIT_Limit c)) n
      let ph := s.fitPhase c f.phase24
      Does (.regressionFit c) s fun t =>
        (t.lidar.chans.get c).fits = rest ∧ (t.lidar.chans.get c).gate = g.gate ∧ (t.lidar.chans.get c).fitted = (g.fitted || f.valid) ∧
        t.on (.REG_STATUS_Valid c) = f.valid ∧ t.rd (.REG_STATUS_Used c) = f.used % 8192 ∧ t.rd (.REG_STATUS_Rejected c) = min f.rejected 8191 ∧
        t.rd (.REG_REJECT_TOTAL_Total c) = min (s.rd (.REG_REJECT_TOTAL_Total c) + (gate.length - f.used)) (2 ^ 32 - 1) ∧
        (f.valid = true → t.on (.REG_STATUS_Stale c) = false ∧ t.rd64 (.REG_PERIOD_LO_Period c) = ofS 64 f.p24 ∧
          t.rd64 (.REG_PHASE_LO_Phase c) = ofS 64 (asr ph 24) ∧ t.rd (.REG_JITTER_Jitter c) = min f.jitter (2 ^ 32 - 1)) ∧
        (f.valid = false → t.on (.REG_STATUS_Stale c) = s.on (.REG_STATUS_Stale c) ∧ t.rd64 (.REG_PERIOD_LO_Period c) = s.rd64 (.REG_PERIOD_LO_Period c)) ∧
        (3 < c.val → s.keeps t [.regs, .lidar] ∧ ∀ d, d ≠ c → t.lidar.chans.get d = s.lidar.chans.get d)) ∧
    (stale → c.val ≠ 2 → Does (.gateStale c) s fun t => t.on (.REG_STATUS_Stale c) = true ∧ s.keepsRegs t [(Fld.REG_STATUS_Stale c).addr] ∧
      t.lidar.chans.get c = { g with gate := [], dups := 0 } ∧ s.keeps t [.regs, .lidar]) ∧
    (stale → c.val = 2 → Leads (.gateStale c) s (fun u => u.refStale) fun u => u.on (.REG_STATUS_Stale c) = true ∧
      u.lidar.chans.get c = { g with gate := [], dups := 0 } ∧ s.keeps u [.regs, .lidar]) ∧
    (¬ stale → exec (.gateStale c) s = .next s) ∧
    (∀ sub : Fin 3200,
      let d := s.lidar.chans.get 2
      let x := s.xu + sub.val
      let on_ := s.on (.REG_CFG_Enable 2) = true
      let m := s.rd (.REG_CFG_Gate 2)
      let full := fun (t : State) (gate : List (Nat × Nat)) => (t.lidar.chans.get 2).fits = d.fits ++ [(gate, d.dups)] ∧
        (t.lidar.chans.get 2).gate = (if s.on (.REG_CFG_Sliding 2) = true then gate else [])
      (¬ on_ → exec (.ref10mEdge sub) s = .next s) ∧
      (on_ → d.gate = [] → 2 ≤ m → Does (.ref10mEdge sub) s fun t =>
        t.lidar.chans.get 2 = { d with gate := [(0, x)], since := s.xt } ∧ s.keeps t [.lidar]) ∧
      (on_ → ∀ i0 t0 old, d.gate = (i0, t0) :: old →
        let step := roundDiv (((x : Int) - t0) * 2 ^ 17) (s.period 2)
        (step ≤ 0 → Does (.ref10mEdge sub) s fun t => t.lidar.chans.get 2 = { d with dups := d.dups + 1, since := s.xt } ∧ s.keeps t [.regs, .lidar] ∧
          t.rd (.REG_REJECT_TOTAL_Total 2) = min (s.rd (.REG_REJECT_TOTAL_Total 2) + 1) (2 ^ 32 - 1)) ∧
        (0 < step → d.gate.length + 1 < m → Does (.ref10mEdge sub) s fun t =>
          t.lidar.chans.get 2 = { d with gate := (i0 + step.toNat, x) :: d.gate, since := s.xt } ∧ s.keeps t [.lidar]) ∧
        (0 < step → 0 < m → m ≤ d.gate.length + 1 → Does (.ref10mEdge sub) s fun t =>
          full t ((i0 + step.toNat, x) :: d.gate.take (m - 1)) ∧ s.keeps t [.lidar])))

/-- R228, R231 – R234, R249: a scan port's lines begin at their instants, its sync edges time out, after which no line that it paces fires, and SDRV
toggles at most 1/256 of a period from the period before.
The model's choices in it: logs 4, 66, 69, 111, 140. -/
def Obligations.ScanPorts : Prop :=
  ∀ (s : State) (k : Fin 2),
    let c := s.lidar.scans.get k
    let locked := s.on (.SCAN_STATUS_Locked k)
    let others := fun (t : State) => (∀ j, j ≠ k → t.lidar.scans.get j = s.lidar.scans.get j) ∧ t.lidar.chans = s.lidar.chans
    let ports := fun (t : State) => t.lidar.ports = s.lidar.ports
    (∀ t0, c.lastSync = some t0 →
      let late_ := s.locked 3 = true ∧ locked = true ∧ s.dueU (s.xuOfLam (s.lamAt t0 + (c.p24 * 3 / 2 : Nat) * 2 ^ 24)) = true
      (late_ → Does (.syncEdgeTimeout k) s fun t => t.on (.SCAN_STATUS_Locked k) = false ∧ t.on (.SCAN_STATUS_Lost k) = true ∧
        t.rd (.SCAN_STATUS_Losses k) = min (s.rd (.SCAN_STATUS_Losses k) + 1) 65535 ∧ t.alarmed 0x0201 k 1 ∧
        t.lidar.scans.get k = { c with good := 0, bad := 0, next := none, cur := none, lines := 0 } ∧ others t ∧
        (s.rd .EMT_CTRL_FrameSrc ≠ k.val → ports t ∧ t.ctl = s.ctl ∧ t.on .EMT_STATUS_InFrame = s.on .EMT_STATUS_InFrame) ∧
        (s.rd .EMT_CTRL_FrameSrc = k.val → t.on .EMT_STATUS_InFrame = false ∧ t.ctl.syncs = [] ∧ t.ctl.scan = [] ∧
          ∀ (e : Fin 8) y, (t.ep e).line = some y → y.diag = none → y.fires = [])) ∧
      (¬ late_ → exec (.syncEdgeTimeout k) s = .next s)) ∧
    (c.lastSync = none → exec (.syncEdgeTimeout k) s = .next s) ∧
    (∀ x t0, c.next = some x → s.lineBegins k x = some t0 → s.dueU t0 = true → locked = true → Does (.lineEvent k) s fun t =>
      (t.lidar.scans.get k).cur = some { x with start := t0, no := c.lines } ∧ (t.lidar.scans.get k).lines = c.lines + 1 ∧ s.keeps t [.lidar] ∧ others t ∧ ports t ∧
        (s.rd .EMT_CTRL_FrameSrc ≠ k.val ∨ s.lidarRuns = false → t.ctl = s.ctl) ∧
        (s.rd .EMT_CTRL_FrameSrc = k.val → s.lidarRuns = true → t.ctl.syncs = if c.lines % max 1 (s.rd (.SCAN_DRV_FrameDiv k)) = 0 then s.ctl.syncs ++ [t0] else s.ctl.syncs)) ∧
    (∀ x t0, c.next = some x → s.lineBegins k x = some t0 → s.dueU t0 = false ∨ locked = false → exec (.lineEvent k) s = .next s) ∧
    (c.next = none ∨ (∃ x, c.next = some x ∧ s.lineBegins k x = none) → exec (.lineEvent k) s = .next s) ∧
    (let runs := s.on (.SCAN_CTRL_SdrvEnable k) = true ∧ s.locked 3 = true
     let does := fun (P : ScanSt → Prop) => Does (.sdrvEdge k) s fun t => P (t.lidar.scans.get k) ∧ s.keeps t [.lidar] ∧ others t ∧ ports t ∧ t.ctl = s.ctl
     (¬ runs → does fun d => d = { c with sdrv := false, drvAt := none }) ∧
     (runs → c.drvAt = none → does fun d => d.sdrv = true ∧ d.drvRise = place24 (s.drvNow k) ∧ d.drvP = (s.drvTarget k (s.drvNow k)).1 ∧ d.drvSpan = d.drvP ∧ d.drvAt = some (place24 (d.drvRise + (d.drvP / 2 : Nat)))) ∧
     (∀ t0, runs → c.drvAt = some t0 → t0 ≤ s.drvNow k → c.sdrv = true → does fun d =>
       d = { c with sdrv := false, drvAt := some (place24 (c.drvRise + c.drvSpan)) }) ∧
     (∀ t0, runs → c.drvAt = some t0 → t0 ≤ s.drvNow k → c.sdrv = false → does fun d =>
       d.sdrv = true ∧ d.drvRise = c.drvRise + c.drvSpan ∧ d.drvP ≤ c.drvP + c.drvP / 256 ∧ c.drvP ≤ d.drvP + c.drvP / 256 ∧
         d.drvSpan ≤ d.drvP + d.drvP / 256 ∧ d.drvP ≤ d.drvSpan + d.drvP / 256 ∧ d.drvAt = some (place24 (d.drvRise + (d.drvSpan / 2 : Nat)))) ∧
     (∀ t0, runs → c.drvAt = some t0 → s.drvNow k < t0 → exec (.sdrvEdge k) s = .next s))

/-- R245 – R248, R250, R252, R253, R255, R258, R261, R267: frame sync starts the program at line 0, and a line's step 1 begins it on the ports that
take part. A frame sync during a running program is an overrun.
The model's choices in it: logs 4, 58, 61, 63, 123. -/
def Obligations.FramesAndLines : Prop :=
  ∀ (s : State),
    (∀ t0 s0, s.lidarRuns = true → s.frameDue = some (t0, s0) → Does .frameSync s fun t =>
      t.rd .FRAME_COUNT_Frames = (s.rd .FRAME_COUNT_Frames + 1) % 2 ^ 32 ∧ t.on .EMT_STATUS_InFrame = true ∧
      t.ctl.pc = 0 ∧ t.ctl.syncAt = t0 ∧ t.ctl.first = true ∧ t.ctl.loops = [] ∧ t.on .EMT_BANK_Waiting = false ∧
      t.rd .EMT_BANK_Active = (if s.on .EMT_BANK_Waiting = true then 1 - s.activeBank else s.activeBank) ∧
      t.ctl.supplyHold = (s.ctl.supplyHold && !s.supplyBack) ∧ t.ctl.clockHold = false ∧
      (∀ e : Fin 8, t.rd (.PORT_STATE_State e) =
        if portIn s.regs e && !(s.ep e).stopped && (s.ep e).tested && (s.rd (.PORT_STATE_State e) == 0 || (s.ep e).back) then 1
          else s.rd (.PORT_STATE_State e)) ∧
      (∀ e : Fin 8, t.rd (.PORT_CNT_B_Overrun e) = if s.on .EMT_STATUS_InFrame && portIn s.regs e && s.portLeft e
        then min (s.rd (.PORT_CNT_B_Overrun e) + 1) 65535 else s.rd (.PORT_CNT_B_Overrun e)) ∧
      ((∀ q ∈ s.lidar.lanes, q.2.trim = none) → s.on .EMT_STATUS_InFrame = true → s.ctl.overEpoch ≠ some (s.fnEpoch fnLidar) → t.alarmed 0x0202 0 (s.rd .FRAME_COUNT_Frames)) ∧
      s.keeps t [.regs, .alarm, .rings, .lidar]) ∧
    (s.lidarRuns = false → Does .frameSync s fun t => s.keeps t [.lidar] ∧
      t.lidar = { s.lidar with ctl := { s.ctl with syncs := s.ctl.syncs.filter fun (x : Nat) => !s.dueU x, syncLast := none } }) ∧
    (s.lidarRuns = true → s.frameDue = none → exec .frameSync s = .next s) ∧
    (∀ stat (e : Fin 8) d ds, s.diagHeld = false → (∀ e' < e, s.beginDiag e' = none) → (s.ep e).line = none → (s.ep e).diags = d :: ds → s.dueU d.pre = true →
      let test := bit (s.rd .LANE_TEST_FireStart) e
      Does (.linePrecharge stat) s fun t => (t.ep e).line = some { d with begun := true } ∧ (t.ep e).diags = ds ∧ (t.ep e).pchg = !test ∧
        (t.ep e).byp = (if test then 0xFFFF else d.byp) ∧ (t.ep e).lastFire = some d.tL ∧ s.keeps t [.lidar] ∧ (∀ j, j ≠ e → t.ep j = s.ep j)) ∧
    (∀ stat, (∀ e, s.beginDiag e = none) → s.lidarRuns = false ∨ s.on .EMT_STATUS_InFrame = false ∨ s.ctl.pc = 4096 →
      exec (.linePrecharge stat) s = .next s) ∧
    (∀ e : Fin 8, s.diagHeld = true → s.beginDiag e = none) ∧
    (∀ stat, (∀ e, s.beginDiag e = none) → s.ctl.pc ≠ 4096 → s.turnLine (s.fline s.activeBank s.ctl.pc) = none → exec (.linePrecharge stat) s = .next s) ∧
    (∀ stat s1, s.nextEpochOf fnLidar = none → (∀ e, s.beginDiag e = none) → s.lidarRuns = true → s.on .EMT_STATUS_InFrame = true → s.ctl.pc ≠ 4096 →
      let x := s.fline s.activeBank s.ctl.pc
      s.turnLine x = some s1 →
      let q := (s1.resolveLine x s.ctl.pc).1
      (s.dueU q.step1 = false → exec (.linePrecharge stat) s = .next s1 ∧ s.keeps s1 [.lidar] ∧ s1.lidar.ports = s.lidar.ports) ∧
      (s.dueU q.step1 = true → ∀ e : Fin 8, bit x.enable e = true → portIn s.regs e = true → s.rd (.PORT_STATE_State e) = 1 →
        bit stat.toNat e = s.on (.PORT_TIMING_StatLow e) → s.lineHeld = false →
        let p := s.ep e
        let n0 := s.rd64 (.PORT_SHOTS_LO_Shots e)
        let first := q.tL + 2 * ditherOf s.regs e n0 x.seed
        let late := q.ok = false ∨ p.line ≠ none ∨ q.step1 ≤ p.busy ∨ q.step1 < s1.ctl.resolved + 128000 ∨
          ∃ t, p.lastFire = some t ∧ first < t + minIvl s.regs e
        let pat := Nat.lor (x.bypass.getD e 0xFFFF) (s.rd (.PORT_OPEN_Open e))
        let test := bit (s.rd .LANE_TEST_FireStart) e
        (late → Does (.linePrecharge stat) s fun t => t.rd (.PORT_CNT_A_Late e) = min (s.rd (.PORT_CNT_A_Late e) + 1) 65535 ∧
          (t.ep e).line = p.line ∧ t.rd (.PT_POINTS_Points e) = s.rd (.PT_POINTS_Points e)) ∧
        (¬ late → s.overExposed e (0xFFFF - pat) x.shots = [] → Does (.linePrecharge stat) s fun t =>
          (t.ep e).pchg = (!test) ∧ (t.ep e).fire = false ∧ (t.ep e).byp = (if test then 0xFFFF else pat) ∧
          t.rd (.PORT_CNT_A_Late e) = s.rd (.PORT_CNT_A_Late e) ∧
          t.rd (.PT_POINTS_Points e) = (if 0xFFFF - pat = 0 then s.rd (.PT_POINTS_Points e) else (s.rd (.PT_POINTS_Points e) + 1) % 2 ^ 32) ∧
          ∃ y, (t.ep e).line = some y ∧ y.tL = q.tL ∧ y.pre = q.step1 ∧ y.fall = q.tL - 128 * s.rd .EMT_TIMING_Settle ∧ y.byp = pat ∧ y.shot = 0 ∧
            y.off = none ∧ y.fires = (if 0xFFFF - pat = 0 then [] else (List.range x.shots).map fun (k : Nat) =>
              q.tL + 128 * k * s.rd (.PORT_TIMING_ShotIvl e) + 2 * ditherOf s.regs e (n0 + k) x.seed))))

/-- R216, R252, R254, R257, R276, R280, R286, R291: PCHG falls, FIRE rises and falls for each shot, and at the windows' ends the searches run: the candidate
search opens at most four zoom windows for each lane, the final search frees the point.
The model's choices in it: logs 4, 62. -/
def Obligations.ShotsAndSearches : Prop :=
  ∀ (s : State) (e : Fin 8),
    let p := s.ep e
    let others := fun (t : State) => ∀ j, j ≠ e → t.ep j = s.ep j
    let unmarked := fun (t : State) => ∀ j, j ≠ e → { t.ep j with points := (s.ep j).points } = s.ep j
    (∀ x, p.line = some x → s.dueU x.fall = true → x.off = none → x.shot = 0 → Does (.pchgFall e) s fun t =>
      (t.ep e).pchg = false ∧ (t.ep e).line = (if x.fires = [] then none else some x) ∧ unmarked t ∧ s.keeps t [.regs, .lidar] ∧
        s.keepsRegs t [Fld.EMT_STATUS_InFrame.addr] ∧ (x.fires ≠ [] → others t ∧ s.keepsRegs t [])) ∧
    (∀ x, p.line = some x → ¬ (s.dueU x.fall = true ∧ x.off = none ∧ x.shot = 0) → exec (.pchgFall e) s = .next s) ∧
    (∀ x t0 rest, p.line = some x → x.fires = t0 :: rest → s.dueU t0 = true → x.off = none → p.pchg = false → s.locked 3 = true →
      let n := s.rd64 (.PORT_SHOTS_LO_Shots e)
      let r := ((p.points.find? fun (y : PointSt) => some y.seq == x.point).map fun (y : PointSt) => y.cfg).getD s.regs
      let planned := rfRd r (.START_CFG_Planned e) == 1
      Does (.shotFire e) s fun t =>
        (t.ep e).fire = (!bit (s.rd .LANE_TEST_FireStart) e) ∧ t.rd64 (.PORT_SHOTS_LO_Shots e) = (n + 1) % 2 ^ 64 ∧
        (t.ep e).line = some { x with fires := rest, off := some (t0 + x.width), shot := x.shot + 1 } ∧
        (t.ep e).shots.getLast? = some ⟨n, t0, x.shot, x.point, x.diag, if planned then some (128 * rfRd r (.START_CFG_Nominal e)) else none, planned, []⟩ ∧
        (∀ k : Fin 16, bit (0xFFFF - x.byp) k = true → (t.ep e).lastIn.get k = s.xt) ∧ others t ∧ s.keeps t [.regs, .lidar, .mem] ∧
          ((∀ l : Fin 256, synLane r l = false) → t.mem = s.mem)) ∧
    (∀ x t0 rest, p.line = some x → x.fires = t0 :: rest → s.dueU t0 = false ∨ x.off ≠ none ∨ p.pchg = true ∨ s.locked 3 = false →
      exec (.shotFire e) s = .next s) ∧
    (∀ x t0, p.line = some x → x.off = some t0 → s.dueU t0 = true → Does (.fireFall e) s fun t =>
      (t.ep e).fire = false ∧ (t.ep e).line = (if x.fires = [] then none else some { x with off := none }) ∧ unmarked t ∧ s.keeps t [.regs, .lidar] ∧
        s.keepsRegs t [Fld.EMT_STATUS_InFrame.addr] ∧ (x.fires ≠ [] → others t ∧ s.keepsRegs t [])) ∧
    (∀ x t0, p.line = some x → x.off = some t0 → s.dueU t0 = false → exec (.fireFall e) s = .next s) ∧
    (p.line = none → exec (.pchgFall e) s = .next s ∧ exec (.shotFire e) s = .next s ∧ exec (.fireFall e) s = .next s) ∧
    (Does (.candidateSearch e) s fun t => others t ∧ s.keeps t [.regs, .lidar] ∧ s.keepsRegs t [(Fld.UE_COUNT_PoisonReads 2).addr] ∧
      (t.ep e).points.length = p.points.length ∧
      ∀ (i : Nat) (y : PointSt), p.points[i]? = some y → ∃ z : PointSt, (t.ep e).points[i]? = some z ∧ z = { y with lanes := z.lanes } ∧ z.lanes.length = y.lanes.length ∧
        ∀ (j : Nat) (a : LanePt), y.lanes[j]? = some a → ∃ b : LanePt, z.lanes[j]? = some b ∧ b.lane = a.lane ∧ b.bank = a.bank ∧ (a.searched = true → b = a) ∧
          (∀ tp, a.searched = false → y.shotAt (phase1 y.cfg e y.n - 1) = some tp → phase1 y.cfg e y.n < y.n →
            s.startsKnown e y.seq (phase1 y.cfg e y.n - 1) = true → s.winClosed y.cfg a.lane tp = true →
            b.searched = true ∧ b.queue = [] ∧ b.wins.length ≤ 4) ∧
          ((∀ tp, y.shotAt (phase1 y.cfg e y.n - 1) = some tp → s.winClosed y.cfg a.lane tp = false) → b = a)) ∧
    (∀ y rest, p.points = y :: rest → s.pointClosed e y = true →
      let dark := fun (x : LanePt) => ∃ a, (s.lane x.lane).pulse = some a ∧ y.overlaps x.lane a s.xu = true
      ∃ z : PointSt, z = { y with lanes := z.lanes } ∧ z.lanes.length = y.lanes.length ∧
        (∀ (i : Nat) (x : LanePt), y.lanes[i]? = some x → ∃ b : Bool, z.lanes[i]? = some { x with blind := b } ∧ (b = true ↔ x.blind = true ∨ dark x)) ∧
        Leads (.finalSearch e) s (fun u => u.emitPoint e z) fun u =>
      (u.ep e).points = rest ∧ others u ∧ s.keeps u [.lidar]) ∧
    (∀ y rest, p.points = y :: rest → s.pointClosed e y = false → exec (.finalSearch e) s = .next s) ∧
    (p.points = [] → exec (.finalSearch e) s = .next s)

/-- R261 – R263, R265, R266: the walking-pattern test, in the final 8 µs of a blanking of at least 10 µs and never over a threshold trim, faults the ports whose pins fail it, a stale
test raises its alarm, and diagnostic firings are planned in a blanking that has room for them, while no rail is below its warning level.
The model's choices in it: logs 4, 63, 64, 65. -/
def Obligations.EmitterDiagnostics : Prop :=
  ∀ (s : State),
    let starting := bit s.power.begun 11 && !s.power.released
    let idle := s.locked 3 = true ∧ s.on .EMT_STATUS_InFrame = false ∧ s.allIdle = true ∧ ∀ q ∈ s.lidar.lanes, q.2.trim = none
    let last := (s.nextSync = none ∧ s.ctl.blankFrom + 1280000 ≤ s.xu) ∨
      ∃ t, s.nextSync = some t ∧ s.ctl.walkNo ≠ s.ctl.blankNo ∧ s.ctl.blankFrom + 1280000 ≤ t ∧ s.dueU (t - 1024000) = true ∧ s.xu < t
    let tests := (s.lidarOn = true ∨ starting = true) ∧ idle ∧ ((∃ e : Fin 8, (s.ep e).tested = false) ∨ starting = true ∨ last)
    let tested := fun (t : State) => t.ctl = { s.ctl with walkAt := s.xt, walkNo := s.ctl.blankNo, walkStale := false } ∧ (∀ e : Fin 8, (t.ep e).tested = true) ∧
      (starting = true → bit t.power.stages 11 = true)
    (tests → Does (.walkingPatternTest [] []) s fun t => tested t ∧ s.keeps t [.lidar, .power]) ∧
    (∀ (e : Fin 8) (i : Fin 19), tests → Does (.walkingPatternTest [(e, i)] []) s fun t => tested t ∧ t.alarmed 0x0206 e i ∧
      t.rd (.PORT_STATE_State e) = 3 ∧ t.rd (.PORT_STATE_Cause e) = 1 ∧ t.rd (.PORT_STATE_Pins e) = i.val ∧ (t.ep e).line = none ∧
        ∀ d : Fin 8, d ≠ e → t.rd (.PORT_STATE_State d) = s.rd (.PORT_STATE_State d)) ∧
    (∀ (e : Fin 8) (i j : Fin 19), tests → i < j → Does (.walkingPatternTest [] [(e, j, e, i)]) s fun t => tested t ∧ t.alarmed 0x0206 e i ∧
      t.rd (.PORT_STATE_State e) = 3 ∧ t.rd (.PORT_STATE_Cause e) = 1 ∧ t.rd (.PORT_STATE_Pins e) = i.val) ∧
    (∀ low high, ¬ tests → exec (.walkingPatternTest low high) s = .next s) ∧
    (let runs := (List.range 8).filter fun (e : Nat) => s.rd (.PORT_STATE_State e) == 1
     let late_ := s.ctl.walkStale = false ∧ runs ≠ [] ∧ s.due (s.ctl.walkAt + 10000000000) = true
     (late_ → Does .shortTestStale s fun t => t.ctl = { s.ctl with walkStale := true } ∧ t.lidar.ports = s.lidar.ports ∧
       ∃ m, t.alarmed 0x0207 m 0 ∧ ∀ e : Fin 8, bit m e = (s.rd (.PORT_STATE_State e) == 1)) ∧
     (¬ late_ → exec .shortTestStale s = .next s)) ∧
    (∀ e : Fin 8,
      let p := s.ep e
      let opened := s.rd (.PORT_OPEN_Open e)
      let t0 := s.diagFrom e
      let gap := max 128000 (minIvl s.regs e)
      let free := s.lidarRuns = true ∧ s.portIdle e = true ∧ p.back = false ∧ s.on (.START_CFG_Planned e) = false ∧ s.diagHeld = false ∧ s.ownTrim e = false
      let iso := free ∧ s.rd (.PORT_STATE_State e) = 2 ∧ s.blankingFits (128 * 20000) (t0 + 15 * gap + 128 * 64 - s.xu) = true ∧
        s.overExposed e (0xFFFF - opened) 15 = [] ∧ p.isoIn ≠ s.ctl.blankNo
      (iso → Does (.isolationSequence e) s fun t => (t.ep e).isoGot = [] ∧ (t.ep e).isoCut = false ∧ (t.ep e).isoIn = s.ctl.blankNo ∧ (t.ep e).diags.length = 16 ∧ s.keeps t [.lidar] ∧ (∀ d, d ≠ e → t.ep d = s.ep d) ∧
        ∀ k, k < 16 → ∃ y, (t.ep e).diags[k]? = some y ∧ y.tL = t0 + k * gap ∧ y.byp = Nat.lor opened (2 ^ k) ∧ y.diag = some (true, k) ∧ y.point = none ∧
          y.fires = [y.tL]) ∧
      (¬ iso → exec (.isolationSequence e) s = .next s) ∧
      (∀ k : Fin 16,
        let fits := free ∧ s.rd (.PORT_STATE_State e) = 1 ∧ opened = 0 ∧ (s.due (p.lastIn.get k + 1000000000) = true ∨ 0 < p.low.get k) ∧
          p.lowIn.get k ≠ s.ctl.blankNo ∧ s.blankingFits (128 * 4000) (t0 + 128 * 64 - s.xu) = true ∧ s.overExposed e (2 ^ k.val) 1 = []
        (fits → Does (.diagnosticFiring e k) s fun t => (t.ep e).lowIn.get k = s.ctl.blankNo ∧ s.keeps t [.lidar] ∧ (∀ d, d ≠ e → t.ep d = s.ep d) ∧
          ∃ y, (t.ep e).diags = [y] ∧ y.tL = t0 ∧ y.byp = 0xFFFF - 2 ^ k.val ∧ y.diag = some (false, k.val) ∧ y.fires = [t0]) ∧
        (¬ fits → exec (.diagnosticFiring e k) s = .next s)))

/-- R219, R243 – R245, R273, R501: the writes of TL_CLEAR, PT_CLEAR and EMT_BANK, the end of a bank's validation, and a write of the frame-memory window,
which is refused while the window shows the active bank or the idle bank waits or is being validated.
The model's choices in it: logs 4, 59. -/
def Obligations.LidarClearsAndBanks : Prop :=
  ∀ (s : State) (p : Fin 9) (tag : Byte) (v : Word), s.Takes p 2 tag →
    let wrote := fun (i : Instr) (addr : Word) (P : State → Prop) => Answers i s p (mkResp 2 tag addr 0 0 0 0) P
    (s.gated 0x304004 true = false → wrote (.tlClear p tag v) 0x304004 fun u => s.keepsTaken u p [.regs] ∧
      (v.getLsbD 0 = false → s.keepsRegs u []) ∧
      (v.getLsbD 0 = true → (∀ l : Fin 266, u.rd (.LANE_CNT_A_PreStart l) = 0 ∧ u.rd (.LANE_CNT_A_Outside l) = 0 ∧ u.rd (.LANE_CNT_B_HoldSup l) = 0 ∧
        u.rd (.LANE_CNT_B_Drop l) = 0) ∧ ∀ e : Fin 8, u.rd (.START_STAT_Missed e) = 0)) ∧
    (s.gated 0x342014 true = false → wrote (.ptClear p tag v) 0x342014 fun u => s.keepsTaken u p [.regs] ∧
      (v.getLsbD 0 = false → s.keepsRegs u []) ∧
      (v.getLsbD 0 = true → u.rd .PT_CNT_A_NoBank = 0 ∧ u.rd .PT_CNT_A_Truncated = 0 ∧ u.rd .PT_CNT_B_Abandoned = 0 ∧
        ∀ l : Fin 256, u.rd (.HIST_LANE_CNT_OutOfHist l) = 0 ∧ u.rd (.HIST_LANE_CNT_NoBank l) = 0)) ∧
    (s.gated 0x320020 true = false → wrote (.bankSwap p tag v) 0x320020 fun u => s.keepsTaken u p [.regs, .lidar] ∧
      s.keepsRegs u [0x320020] ∧ u.on .EMT_BANK_Page = v.getLsbD 1 ∧ u.on .EMT_BANK_ReadActive = v.getLsbD 2 ∧
      u.rd .EMT_BANK_Active = s.rd .EMT_BANK_Active ∧ u.rd .EMT_BANK_Waiting = s.rd .EMT_BANK_Waiting ∧
      (v.getLsbD 0 = false → u.lidar = s.lidar ∧ u.rd .EMT_BANK_Error = s.rd .EMT_BANK_Error) ∧
      (v.getLsbD 0 = true → s.on .EMT_BANK_Waiting = true → u.lidar = s.lidar ∧ u.rd .EMT_BANK_Error = 5) ∧
      (v.getLsbD 0 = true → s.on .EMT_BANK_Waiting = false → s.ctl.validFrom = none → u.ctl = { s.ctl with validFrom := some s.xt })) ∧
    (∀ t0, s.ctl.validFrom = some t0 →
      let err := s.bankError s.regs (1 - s.activeBank)
      Does .bankValidationDone s fun t => t.ctl = { s.ctl with validFrom := none } ∧ t.rd .EMT_BANK_Error = err ∧ t.on .EMT_BANK_Waiting = decide (err = 0) ∧
        t.rd .EMT_BANK_Active = s.rd .EMT_BANK_Active ∧ s.keeps t [.regs, .lidar] ∧ s.keepsRegs t [Fld.EMT_BANK_Error.addr]) ∧
    (s.ctl.validFrom = none → exec .bankValidationDone s = .next s) ∧
    (∀ addr : Word, addr.toNat % 4 = 0 →
      let a := BitVec.ofNat 32 (0x330000 + addr.toNat % 65536)
      let b := 131072 * (1 - s.activeBank) + 65536 * s.rd .EMT_BANK_Page + addr.toNat % 65536
      let shut := s.on .EMT_BANK_ReadActive = true ∨ s.on .EMT_BANK_Waiting = true ∨ s.ctl.validFrom ≠ none
      (s.pwr = 1 → Answers (.frameMemoryWrite p tag addr v) s p (mkResp 2 tag a 6 0 0 0) fun u => s.keepsTaken u p []) ∧
      (s.pwr ≠ 1 → s.gated a.toNat true = false → shut → Answers (.frameMemoryWrite p tag addr v) s p (mkResp 2 tag a 4 0 0 0) fun u => s.keepsTaken u p []) ∧
      (s.pwr ≠ 1 → s.gated a.toNat true = false → ¬ shut → wrote (.frameMemoryWrite p tag addr v) a fun u =>
        (u.sramRead 0x30 26 b 4).1 = le 4 v.toNat ∧ s.keepsTaken u p [.mem, .regs] ∧ s.keepsRegs u [(Fld.UE_COUNT_PoisonReads 2).addr] ∧
          ∀ l, l ≠ sramLoc 26 (b / 8) → u.cell l = s.cell l))

/-! Memories -/

/-- R341 – R343: a stored word reads back at its own location as it was written, normal or poisoned, whatever its data.
The model's choice in it: log 70. -/
def Obligations.StoredWordsReadBack : Prop :=
  (∀ l d : Nat, d < 2 ^ 64 → decodeWord l (encodeWord l d) = ⟨.clean, d, [], 0⟩ ∧
    (decodeWord l (poisonWord l d)).kind = .poisoned ∧ (decodeWord l (poisonWord l d)).data = d ∧ (decodeWord l (poisonWord l d)).fixed = []) ∧
  (∀ (s : State) (l d : Nat) (poison : Bool), d < 2 ^ 64 →
    ((s.setWord l d poison).word l).data = d ∧ ((s.setWord l d poison).word l).kind.bad = poison ∧
    ∀ m, m ≠ l → (s.setWord l d poison).cell m = s.cell m)

/-- R342, R347, R356, R357, R360 – R362, R375: a read of a stored word: clean words change nothing; a corrected one is counted, noted in the repeat
table and written back; a poisoned one is counted; any other is logged, raises MEM_UE and is written back poisoned. Poisoned and bad data go to their
requester marked, but to the patrol, which uses none. The patrol reads word by word.
The model's choices in it: logs 4, 70, 97, 104. -/
def Obligations.MemoryReadsAndPatrol : Prop :=
  ∀ (s : State),
    (∀ req target reached flips newer, s.targetOf target = none → exec (.memoryRead req target reached flips newer) s = .next s) ∧
    (∀ req target (reached : Option Nat) flips newer l addr, s.targetOf target = some (l, addr) →
      let c := Instr.memoryRead req target reached flips newer
      let r := decodeWord l (s.cell (reached.getD l) ^^^ flips)
      let b := blockOf l
      let stores := fun (t : State) (w : BitVec 80) => (newer = false → t.cell l = w) ∧ (newer = true → ¬ s.ringWord l → t.cell l = s.cell l) ∧
        ∀ m, m ≠ l → ¬ s.ringWord m → t.cell m = s.cell m
      (r.kind = .clean → exec c s = .next s) ∧
      (r.kind = .corrected → Does c s fun t => t.rd (.CE_COUNT_Corrected b) = min (s.rd (.CE_COUNT_Corrected b) + 1) (2 ^ 32 - 1) ∧
        stores t (encodeWord l r.data) ∧ ∃ i, i < 32 ∧ t.on (.REPEAT_HI_Valid b i) = true ∧ t.repeatLoc b i = l % 2 ^ 40) ∧
      (r.kind = .poisoned → Does c s fun t => t.rd (.UE_COUNT_PoisonReads b) = min (s.rd (.UE_COUNT_PoisonReads b) + 1) 65535 ∧
        s.keepsRegs t [(Fld.UE_COUNT_PoisonReads b).addr] ∧ s.keeps { t with mem := s.mem } [.regs] ∧
        t.mem = { s.mem with answers := s.mem.answers ++ if req = 0x31 then [] else [⟨req.toNat, l, r.data⟩] }) ∧
      (r.kind = .address ∨ r.kind = .uncorrectable → Does c s fun t =>
        let i := if s.rd (.LOG_STATUS_Count b) = 0 then 0 else (s.rd (.LOG_STATUS_Head b) + 1) % 16
        t.rd (.UE_COUNT_Uncorrectable b) = min (s.rd (.UE_COUNT_Uncorrectable b) + 1) 65535 ∧ stores t (poisonWord l r.data) ∧
        t.rd (.LOG_STATUS_Head b) = i ∧ t.rd (.ERR_LOG_INFO_Kind b i) = (if r.kind = .address then 2 else 1) ∧
        t.rd (.ERR_LOG_INFO_Requester b i) = req.toNat ∧ t.rd64 (.ERR_LOG_TIME_LO_Time b i) = s.now ∧ t.alarmed 0x0402 (ueArg b) i ∧
        t.rd64 (.ERR_LOG_ADDR_LO_Addr b i) = addr % 2 ^ 64 ∧ (req ≠ 0x31 → ⟨req.toNat, l, r.data⟩ ∈ t.mem.answers))) ∧
    (∀ flips, Does (.patrolRead 2 flips) s fun t =>
      t.mem.patrolSram = (if s.mem.patrolSram + 1 < sramTotal then s.mem.patrolSram + 1 else 0) ∧ t.ports = s.ports ∧ t.host = s.host) ∧
    (∀ (ch : Fin 2) flips,
      let k := (s.mem.chans.get ch).patrol
      let total := s.usableOf ch / 8
      let runs := s.rd (.MC_STATUS_State ch) = 2 ∧ s.rd (.MC_CFG_PatrolHours ch) ≠ 0
      (runs → k + 1 < total → Does (.patrolRead (fin 2 ch) flips) s fun t => (t.mem.chans.get ch).patrol = k + 1 ∧
        t.rd (.SCRUB_STATUS_Progress ch) = (k + 1) * 1000 / total ∧ t.rd (.SCRUB_STATUS_Passes ch) = s.rd (.SCRUB_STATUS_Passes ch)) ∧
      (runs → total ≤ k + 1 → Does (.patrolRead (fin 2 ch) flips) s fun t => (t.mem.chans.get ch).patrol = 0 ∧
        t.rd (.SCRUB_STATUS_Progress ch) = 0 ∧ t.rd (.SCRUB_STATUS_Passes ch) = min (s.rd (.SCRUB_STATUS_Passes ch) + 1) 65535) ∧
      (¬ runs → exec (.patrolRead (fin 2 ch) flips) s = .next s)) ∧
    (∀ (b : Fin 3) (i : Fin 32),
      let old := s.on (.REPEAT_HI_Valid b i) = true ∧ s.due ((s.mem.firsts.get b).get i + 86400000000000) = true
      (old → Does (.repeatEntryExpiry b i) s fun t => t.on (.REPEAT_HI_Valid b i) = false ∧ t.rd (.REPEAT_HI_Count b i) = 0 ∧ s.keeps t [.regs] ∧
        s.keepsRegs t [(Fld.REPEAT_HI_Valid b i).addr, (Fld.REPEAT_LO_Loc b i).addr]) ∧
      (¬ old → exec (.repeatEntryExpiry b i) s = .next s)) ∧
    (∀ (ch : Fin 2) sa req,
      let fits := s.memMode ≠ 3 ∧ sa < s.usableDram ∧ (s.chanOf sa).1 = ch.val ∧ s.rd (.MC_STATUS_State ch) = 2
      let old := if (s.mem.chans.get ch).ceSec = s.xt / 1000000000 then (s.mem.chans.get ch).wcrcCount else 0
      let retrains := fun (t : State) (n : Nat) => (t.mem.chans.get ch).wcrcCount = n ∧
        (4 ≤ n → t.on (.MC_STATUS_Retraining ch) = true) ∧ (n < 4 → t.on (.MC_STATUS_Retraining ch) = s.on (.MC_STATUS_Retraining ch))
      (fits → Does (.writeCrcError ch sa req false) s fun t => retrains t (old + 1) ∧ s.keeps t [.regs, .mem] ∧
        s.keepsRegs t [(Fld.MC_STATUS_Retraining ch).addr] ∧ ∀ l, t.cell l = s.cell l) ∧
      (fits → Does (.writeCrcError ch sa req true) s fun t => retrains t (old + 2) ∧ (∃ i, i < 16 ∧ t.alarmed 0x0402 ch i ∧ t.rd (.ERR_LOG_INFO_Kind ch i) = 3) ∧
        (∀ k, k < 16 → ¬ s.ringWord (s.dramLoc (sa / 128 * 128 + 8 * k)) → ∃ d, t.cell (s.dramLoc (sa / 128 * 128 + 8 * k)) = poisonWord (s.dramLoc (sa / 128 * 128 + 8 * k)) d) ∧
        ∀ l, ¬ s.ringWord l → (∀ k, k < 16 → l ≠ s.dramLoc (sa / 128 * 128 + 8 * k)) → t.cell l = s.cell l) ∧
      (∀ again, ¬ fits → exec (.writeCrcError ch sa req again) s = .next s))

/-- R363 – R365, R367 – R374: what the channel controllers do on their own: refreshes, MR4 polls, oscillator reads, retrains, the exit from self-refresh,
the end of a priority scrub and the change of memory mode.
The model's choices in it: logs 4, 8, 43, 46, 104. -/
def Obligations.ChannelUpkeep : Prop :=
  ∀ (s : State) (ch : Fin 2),
    let c := s.mem.chans.get ch
    let state := s.rd (.MC_STATUS_State ch)
    let status := [(Fld.MC_STATUS_State ch).addr]
    let chan := fun (t : State) (d : ChanSt) => t.mem.chans.get ch = d ∧ t.mem.words = s.mem.words ∧ ∀ j, j ≠ ch → t.mem.chans.get j = s.mem.chans.get j
    let begins := fun (t : State) => t.on (.MC_STATUS_Retraining ch) = true
    (∀ issued : Fin 6, state = 2 → s.due (c.refreshAt + s.trefi ch) = true → Does (.refresh ch issued) s fun t =>
      t.rd (.MC_STATUS_Owed ch) = (if s.on (.MC_STATUS_Hot ch) = true ∨ s.on (.MC_STATUS_OverTemp ch) = true then 0
        else min (s.rd (.MC_STATUS_Owed ch) + 1 - issued.val) 4) ∧
      chan t { c with refreshAt := s.xt } ∧ s.keeps t [.regs, .mem] ∧ s.keepsRegs t status) ∧
    (∀ issued, ¬ (state = 2 ∧ s.due (c.refreshAt + s.trefi ch) = true) → exec (.refresh ch issued) s = .next s) ∧
    (∀ doubled quadrupled, state = 2 → s.due (c.mr4At + 16000000) = true → Does (.mr4Poll ch doubled quadrupled) s fun t =>
      let n := if quadrupled then 2 else if doubled then 1 else 0
      let rate := (t.mem.chans.get ch).rate
      (t.mem.chans.get ch).lastRate = n ∧ (t.mem.chans.get ch).mr4At = s.xt ∧ (c.rate ≤ n → rate = n) ∧ (c.lastRate < c.rate → n < c.rate → rate = max n c.lastRate) ∧
      (c.rate ≤ c.lastRate → n < c.rate → rate = c.rate) ∧ t.on (.MC_STATUS_OverTemp ch) = decide (rate = 2) ∧
      t.on (.MC_STATUS_Hot ch) = (decide (rate = 1) || (decide (rate = 2) && doubled)) ∧ (0 < rate → t.rd (.MC_STATUS_Owed ch) = 0) ∧
      (rate = 2 → s.on (.MC_STATUS_OverTemp ch) = false → t.alarmed 0x0403 ch 0)) ∧
    (∀ a b, ¬ (state = 2 ∧ s.due (c.mr4At + 16000000) = true) → exec (.mr4Poll ch a b) s = .next s) ∧
    (state = 2 → s.due (c.oscAt + 100000000) = true →
      (Does (.dqsOscillatorRead ch false) s fun t => chan t { c with oscAt := s.xt } ∧ s.keeps t [.mem]) ∧
      (Does (.dqsOscillatorRead ch true) s fun t => (t.mem.chans.get ch).oscAt = s.xt ∧ begins t ∧ s.keeps t [.regs, .mem] ∧ s.keepsRegs t status)) ∧
    (∀ a, ¬ (state = 2 ∧ s.due (c.oscAt + 100000000) = true) → exec (.dqsOscillatorRead ch a) s = .next s) ∧
    (let steps := s.on (.MC_STATUS_Retraining ch) = true ∧ s.rd (.MC_STATUS_Owed ch) = 0 ∧ s.due (c.stepAt + 10000) = true
     (steps → Does (.retrainStep ch) s fun t => chan t { c with stepAt := s.xt } ∧ s.keeps t [.mem]) ∧ (¬ steps → exec (.retrainStep ch) s = .next s)) ∧
    (∀ ok, s.on (.MC_STATUS_Retraining ch) = false → exec (.retrainAttemptDone ch ok) s = .next s) ∧
    (s.on (.MC_STATUS_Retraining ch) = true →
      (Does (.retrainAttemptDone ch true) s fun t => t.on (.MC_STATUS_Retraining ch) = false ∧ t.rd (.MC_STATUS_Attempts ch) = 0 ∧ t.alarmed 0x0405 ch 0 ∧
        t.rd (.MC_STATUS_State ch) = state ∧ s.keeps t [.regs, .alarm, .rings]) ∧
      (s.rd (.MC_STATUS_Attempts ch) < 2 → Does (.retrainAttemptDone ch false) s fun t => t.rd (.MC_STATUS_Attempts ch) = s.rd (.MC_STATUS_Attempts ch) + 1 ∧
        begins t ∧ chan t { c with retrainAt := s.xt, stepAt := s.xt } ∧ s.keeps t [.regs, .mem] ∧ s.keepsRegs t status) ∧
      (2 ≤ s.rd (.MC_STATUS_Attempts ch) → c.copy = none → Does (.retrainAttemptDone ch false) s fun t => t.rd (.MC_STATUS_State ch) = 3 ∧
        t.on (.MC_STATUS_Retraining ch) = false ∧ t.alarmed 0x0404 ch 1)) ∧
    (s.on (.SCRUB_STATUS_Priority ch) = false → exec (.priorityScrubDone ch) s = .next s) ∧
    (s.on (.SCRUB_STATUS_Priority ch) = true → Does (.priorityScrubDone ch) s fun t => t.on (.SCRUB_STATUS_Priority ch) = false ∧
      ((∀ x ∈ s.mem.words, (s.word x.1).kind = .clean ∨ (s.word x.1).kind = .poisoned) → s.keeps t [.regs] ∧
        s.keepsRegs t [(Fld.SCRUB_STATUS_Priority ch).addr, (Fld.UE_COUNT_PoisonReads (fin 2 ch)).addr] ∧
        t.rd (.UE_COUNT_PoisonReads (fin 2 ch)) = min (s.rd (.UE_COUNT_PoisonReads (fin 2 ch)) + (s.mem.words.filter fun (x : Nat × BitVec 80) =>
          decide ((s.word x.1).kind = .poisoned) && (s.dataPlace ch x.1).isSome).length) 65535)) ∧
    (∀ t0 moved, c.exitAt = some t0 →
      (state = 4 → s.locked 2 = true → Does (.selfRefreshExit ch moved) s fun t => t.rd (.MC_STATUS_State ch) = 2 ∧ (t.mem.chans.get ch).exitAt = none ∧
        (t.mem.chans.get ch).refreshAt = s.xt ∧ (t.mem.chans.get ch).oscAt = s.xt ∧ (moved = true → begins t) ∧ t.mem.words = s.mem.words ∧
        (moved = false → t.on (.MC_STATUS_Retraining ch) = s.on (.MC_STATUS_Retraining ch)) ∧ s.keeps t [.regs, .mem] ∧ s.keepsRegs t status) ∧
      (state ≠ 4 ∨ s.locked 2 = false → exec (.selfRefreshExit ch moved) s = .next s)) ∧
    (∀ moved, c.exitAt = none → exec (.selfRefreshExit ch moved) s = .next s) ∧
    (s.power.released = true → s.memMode ≠ s.modeOf → Leads .memoryModeSwitch s (fun u => u.prodLost.pumpAll) fun u =>
      u.memMode = s.modeOf ∧ (s.modeOf = 3 ∨ (∀ (p : Fin 4) (rg : Fin 16), (s.rangeOf p rg).filtered = false) →
        ∀ l, isDram l = true → u.cell l = encodeWord l (Config.lostWord u.mem.lost l).toNat) ∧
      s.freeCtr < u.mem.lost ∧ (∀ p : Fin 4, (u.evOf p).history = []) ∧ ∀ r : Fin 16, (u.rings.get r).body = []) ∧
    (s.power.released = false ∨ s.memMode = s.modeOf → exec .memoryModeSwitch s = .next s)

/-- R334, R335, R356, R358, R362, R368, R501, R502: the host's commands to the memories: MC_CTRL, RETIRE_ROW and the row copy that it begins, burst by burst, and a core's
MEM_DATA.
The model's choices in it: logs 30, 37, 95, 96. -/
def Obligations.MemoryHostCommands : Prop :=
  ∀ (s : State) (p : Fin 9) (tag : Byte),
    (∀ (b : Fin 3) (v : Word), s.Takes p 2 tag → s.gated (0x500030 + 0x1000 * b.val) true = false →
      let begins := v.getLsbD 1 = true ∧ b ≠ 2 ∧ s.rd (.MC_STATUS_State b) = 2
      Answers (.mcClearCounts p tag b v) s p (mkResp 2 tag (BitVec.ofNat 32 (0x500030 + 0x1000 * b.val)) 0 0 0 0) fun u =>
        (v.getLsbD 0 = true → u.rd (.CE_COUNT_Corrected b) = 0 ∧ u.rd (.UE_COUNT_Uncorrectable b) = 0 ∧ u.rd (.UE_COUNT_PoisonReads b) = 0) ∧
        (v.getLsbD 0 = false → u.rd (.CE_COUNT_Corrected b) = s.rd (.CE_COUNT_Corrected b)) ∧ (begins → u.on (.MC_STATUS_Retraining b) = true) ∧
        s.keepsTaken u p [.regs, .mem] ∧ u.mem.words = s.mem.words ∧
        s.keepsRegs u [(Fld.CE_COUNT_Corrected b).addr, (Fld.UE_COUNT_PoisonReads b).addr, (Fld.MC_STATUS_Retraining b).addr]) ∧
    (∀ (ch : Fin 2) (v : Word), s.Takes p 2 tag → s.gated (0x500030 + 0x1000 * ch.val) true = false → v.getLsbD 0 = false →
      Answers (.mcRetrain p tag ch v) s p (mkResp 2 tag (BitVec.ofNat 32 (0x500030 + 0x1000 * ch.val)) 0 0 0 0) fun u =>
        (v.getLsbD 1 = true → s.rd (.MC_STATUS_State ch) = 2 → u.on (.MC_STATUS_Retraining ch) = true) ∧
        (v.getLsbD 1 = true → s.rd (.MC_STATUS_State ch) = 2 → s.on (.MC_STATUS_Retraining ch) = false → (u.mem.chans.get ch).retrainAt = s.xt) ∧
        (v.getLsbD 1 = false ∨ s.rd (.MC_STATUS_State ch) ≠ 2 → s.keepsRegs u [] ∧ u.mem = s.mem) ∧
        s.keepsTaken u p [.regs, .mem] ∧ s.keepsRegs u [(Fld.MC_STATUS_Retraining ch).addr]) ∧
    (∀ addr data : Word, s.Takes p 13 tag →
      let a := addr.toNat
      let ch : Fin 2 := fin 1 (a % 2)
      let row := data.toNat
      let place : DramPlace := ⟨a / 2 % 2, a / 4 % 4, a / 16 % 4, row, 0, 0⟩
      let ends := fun (status n : Nat) => Answers (.retireRow p tag addr data) s p (mkResp 13 tag addr status n n 0) fun u => s.keepsTaken u p []
      let bad := s.ranksOf ch ≤ a / 2 % 2 ∨ s.rowsOf ch ≤ row + 4
      let ready := s.rd (.MC_STATUS_State ch) = 2
      let known := ∃ i, i < 64 ∧ s.entryMatches ch i place = true
      let used := s.sparesUsed ch (a / 2 % 2) (a / 4 % 4) (a / 16 % 4)
      let room := (∃ k, k < 4 ∧ k ∉ used) ∧ ∃ i, i < 64 ∧ s.on (.RETIRE_Valid ch i) = false
      (bad → ends 10 2) ∧ (¬ bad → ¬ ready → ends 10 3) ∧ (¬ bad → ready → known → ends 0 0) ∧
      (¬ bad → ready → ¬ known → (s.mem.chans.get ch).copy ≠ none → ends 10 4) ∧
      (¬ bad → ready → ¬ known → (s.mem.chans.get ch).copy = none → ¬ room → ends 10 1) ∧
      (¬ bad → ready → ¬ known → (s.mem.chans.get ch).copy = none → room → Does (.retireRow p tag addr data) s fun t =>
        t.on (.MC_STATUS_Retiring ch) = true ∧ s.keepsTaken t p [.regs, .mem] ∧ t.mem.words = s.mem.words ∧
        ∃ i, i < 64 ∧ s.on (.RETIRE_Valid ch i) = false ∧ (t.mem.chans.get ch).copy = some ⟨i, 0, p, tag, addr⟩ ∧ t.entryMatches ch i place = true ∧
          t.on (.RETIRE_Host ch i) = true ∧ t.rd (.RETIRE_Spare ch i) ∉ used)) ∧
    (∀ (ch : Fin 2) (c : RowCopy), (s.mem.chans.get ch).copy = some c →
      let i := c.entry
      let src : DramPlace := ⟨s.rd (.RETIRE_Rank ch i), s.rd (.RETIRE_BG ch i), s.rd (.RETIRE_BA ch i), s.rd (.RETIRE_Row ch i), 0, 0⟩
      let dst : DramPlace := { src with row := s.rowsOf ch - 4 + s.rd (.RETIRE_Spare ch i) }
      let left := fun (col : Nat) => c.bursts ≤ col ∧ col < 64
      (s.copyMoves ch = false → exec (.rowCopyDone ch) s = .next s) ∧
      (s.copyMoves ch = true → Leads (.rowCopyDone ch) s (fun u => u.done (fin 8 c.path) 13 c.tag c.addr 0 0 0) fun u =>
        u.on (.MC_STATUS_Retiring ch) = false ∧ (u.mem.chans.get ch).copy = none ∧ s.keeps { u with mem := s.mem } [.regs] ∧
        (∀ l, (∀ col beat, left col → beat < 16 → l ≠ locOf ch { dst with col := col, beat := beat }) → u.cell l = s.cell l) ∧
        ∀ col beat, left col → beat < 16 →
          let v := s.fetchWord 0x30 (locOf ch { src with col := col, beat := beat })
          let w := u.word (locOf ch { dst with col := col, beat := beat })
          w.data = v.1 % 2 ^ 64 ∧ w.kind.bad = v.2) ∧
      (s.copyMoves ch = true → c.bursts < 64 → (s.copyBursts.mem.chans.get ch).copy = some { c with bursts := c.bursts + 1 }) ∧
      (s.copyMoves ch = false → (s.copyBursts.mem.chans.get ch).copy = some c) ∧
      ∀ p : DramPlace, ((List.range 64).find? fun (k : Nat) => s.entryMatches ch k p) = some i →
        s.remapped ch p = if c.bursts ≤ p.col then p else { p with row := dst.row }) ∧
    (∀ ch : Fin 2, (s.mem.chans.get ch).copy = none → exec (.rowCopyDone ch) s = .next s) ∧
    (∀ (n : Fin 16) (v : Word),
      let a := BitVec.ofNat 32 (0x40001C + 0x10000 * n.val)
      let stopped := s.coreState n = 0 ∨ s.coreState n = 3 ∨ s.coreState n = 4
      let advanced := fun (u : State) => u.rd (.MEM_ADDR_Addr n) = (s.rd (.MEM_ADDR_Addr n) / 4 * 4 + 4) % 2 ^ 19
      let writes := fun (status : Nat) (P : State → Prop) => Answers (.memDataAccess p tag n true v) s p (mkResp 2 tag a status 0 0 0) P
      (∀ b, s.Takes p 1 tag → s.readHeld a.toNat = false → s.gated a.toNat false = false → s.memByte n = some b →
        let r := s.sramRead 0x30 (coreSram n) b 4
        Answers (.memDataAccess p tag n false v) s p (mkResp 1 tag a 0 (leNat r.1) 0 (2 * bnat r.2)) fun u => advanced u ∧ u.cores = s.cores) ∧
      (∀ b, s.Takes p 2 tag → s.gated a.toNat true = false → s.memByte n = some b → b < 458752 → writes 0 fun u => advanced u ∧
        (u.sramRead 0x30 (coreSram n) b 4).1 = le 4 v.toNat ∧ s.keepsTaken u p [.regs, .mem]) ∧
      (∀ b, s.Takes p 2 tag → s.gated a.toNat true = false → s.memByte n = some b → 458752 ≤ b → ¬ stopped → writes 4 fun u => s.keepsTaken u p []) ∧
      (∀ b, s.Takes p 2 tag → s.gated a.toNat true = false → s.memByte n = some b → 458752 ≤ b → stopped → b % 8 = 0 → writes 0 fun u =>
        advanced u ∧ (u.core n).low = v ∧ s.keepsTaken u p [.regs, .cores]) ∧
      (∀ b, s.Takes p 2 tag → s.gated a.toNat true = false → s.memByte n = some b → 458752 ≤ b → stopped → b % 8 = 4 → writes 0 fun u =>
        advanced u ∧ (u.sramRead 0x30 (coreSram n) (b - 4) 8) = (le 4 (s.core n).low.toNat ++ le 4 v.toNat, false) ∧ s.keepsTaken u p [.regs, .mem, .epoch]) ∧
      (s.Takes p 2 tag → s.gated a.toNat true = false → s.memByte n = none → writes 0 fun u => advanced u ∧ s.keepsTaken u p [.regs]))

/-! Rings, links, Crema and the alarm windows -/

/-- R380, R383, R387 – R389, R392: DATAGRAM_CLOSE and FLUSH_TIMEOUT complete when a datagram is full or its first record has waited FlushUs: it takes the
ring's next DatagramSeq and goes to one link. AGE_LIMIT_EXPIRY and DATAGRAM_AGE_EXPIRY complete, discarding and counting the records and datagrams that are
too old. FRAME_BEGIN completes in the order of R389, FRAME_COMPLETE counts a frame, and RING_DRAINED stops a drained ring.
The model's choices in it: logs 4, 42, 99, 107. -/
def Obligations.DatagramsAndFrames : Prop :=
  ∀ (s : State) (r : Fin 16),
    let g := s.rings.get r
    let free := s.locked 1 = true ∧ s.mayForm r = true ∧ s.quieting = false
    let late_ := g.asm ≠ [] ∧ g.stream.blocks = [] ∧ s.due (g.asmAt + s.rd (.RING_AGE_FlushUs r) * 1000) = true
    let after := fun (u : State) => ((u.ringBoundary r).settleLinks).pump r
    let numbered := fun (u : State) => (u.rings.get r).start = false ∧ s.otherRings u r ∧ u.rd (.RING_DGSEQ_Next r) = (s.rd (.RING_DGSEQ_Next r) + 1) % 2 ^ 32
    let queues := fun (u : State) (k : Fin 8) (d : Dgram) => (u.links.get k).queue = (s.links.get k).queue ++ [d] ∧ ∀ j, j ≠ k → u.links.get j = s.links.get j
    let plain := fun (d : Dgram) => d.ring = r.val ∧ d.seq = s.rd (.RING_DGSEQ_Next r) ∧ d.recs = g.asm.map (fun (z : Slot) => z.seq) ∧
      d.body = (s.asmRecs r).flatMap (fun (z : Rec) => z.bytes) ∧ bit d.flags 0 = false ∧ bit d.flags 3 = g.start ∧
      ∀ (y : Slot) (ys : List Slot), g.asm = y :: ys → d.pre = le 4 y.seq ++ le 2 g.asm.length ∧ d.lost = min (y.seq - g.next) (2 ^ 32 - 1) ∧ d.first = y.at_
    let emptied := fun (u : State) => (u.rings.get r).asm = [] ∧ ∀ z, g.asm.getLast? = some z → (u.rings.get r).next = z.seq + 1
    let assembled := fun (u : State) => u.mem = (s.asmFetched r).mem ∧ u.mem.words = s.mem.words
    let badReads := (Fld.UE_COUNT_PoisonReads 2).addr
    let closes := fun (c : Instr) =>
      (r.val ≠ 11 → Leads c s after fun u => numbered u ∧ emptied u ∧ s.keeps u [.regs, .rings, .links, .mem] ∧ assembled u ∧
        s.keepsRegs u [(Fld.RING_DGSEQ_Next r).addr, badReads] ∧
        ∃ k d, s.chooseLink r = some k ∧ queues u k d ∧ plain d ∧ d.peer = none ∧ bit d.flags 1 = decide (2 ≤ (s.maskLinks r).length) ∧
          bit d.flags 2 = !(s.maskLinks r).contains k) ∧
      (∀ (y : Rec) (ys : List Rec), r.val = 11 → s.asmRecs r = y :: ys →
        let k := respLink y
        let goes := s.linkUp k = true ∧ s.usable k = true
        (goes → s.queuedOf r k < 2 ∧ Leads c s after fun u => numbered u ∧ emptied u ∧ s.keeps u [.regs, .rings, .links, .host, .mem] ∧
          assembled u ∧ s.keepsRegs u [(Fld.RING_DGSEQ_Next r).addr, badReads] ∧ ∃ d, queues u k d ∧ plain d ∧ d.peer = s.respPeer y.seq ∧ bit d.flags 1 = false ∧ bit d.flags 2 = false) ∧
        (¬ goes → Leads c s after fun u => numbered u ∧ emptied u ∧ s.keeps u [.regs, .rings, .host, .mem] ∧ assembled u ∧
          s.keepsRegs u [(Fld.RING_DGSEQ_Next r).addr, badReads, (Fld.TX_DISCARD_Datagrams k).addr, (Fld.RING_LOST_LO_Lost r).addr, (Fld.RING_LOST_LO_Lost r).addr + 4] ∧
          u.rd (.TX_DISCARD_Datagrams k) = min (s.rd (.TX_DISCARD_Datagrams k) + 1) (2 ^ 32 - 1) ∧
          u.rd64 (.RING_LOST_LO_Lost r) = (s.rd64 (.RING_LOST_LO_Lost r) + g.asm.length) % 2 ^ 64))
    let left := fun (b : Block) => b.bytes.drop b.sent
    let n := s.ringPayload r - 32
    (free → s.dgFull r = true → g.stream.blocks = [] → closes (.datagramClose r)) ∧ (free → late_ → closes (.flushTimeout r)) ∧
    (∀ (b : Block) (bs : List Block), free → s.dgFull r = true → r.val ≠ 11 → g.stream.blocks = b :: bs → 0 < n →
      (∀ c ∈ b :: bs, c.engine < 8 ∧ c.sent < c.bytes.length) → (∀ c ∈ bs, c.sent = 0) →
      Leads (.datagramClose r) s after fun u => numbered u ∧ s.keeps u [.regs, .rings, .links] ∧
        s.keepsRegs u ((Fld.RING_DGSEQ_Next r).addr ::
          (List.range 8).flatMap fun (e : Nat) => [(Fld.ENG_OUT_LO_Bytes e).addr, (Fld.ENG_OUT_LO_Bytes e).addr + 4]) ∧
        (u.rings.get r).asm = g.asm ∧ ∃ k d m, s.chooseLink r = some k ∧ queues u k d ∧ 0 < m ∧ m ≤ (b :: bs).length ∧
          let took := (b :: bs).take m
          (∀ c ∈ took, c.ready = true) ∧ (((b :: bs).take (m - 1)).flatMap left).length < n ∧
          ((took.flatMap left).length < n → ∀ c, (b :: bs)[m]? = some c → c.ready = false) ∧
          d.ring = r.val ∧ d.seq = s.rd (.RING_DGSEQ_Next r) ∧ d.body = (took.flatMap left).take n ∧ d.recs = took.flatMap Block.seqs ∧
          ((u.rings.get r).stream.blocks).flatMap left = ((b :: bs).flatMap left).drop d.body.length ∧
          bit d.flags 0 = true ∧ bit d.flags 3 = g.start ∧ d.first = b.first ∧ d.peer = none ∧
          d.lost = min ((took.map fun (c : Block) => if c.sent = 0 then c.lost else 0).sum) (2 ^ 32 - 1) ∧
          d.pre = le 4 (if b.opens = true ∧ b.sent = 0 then 0 else g.stream.offset) ++
            le 2 (if b.sent = 0 then 0 else if 1 < m then b.bytes.length - b.sent else 0xFFFF) ∧
          ((∀ c ∈ bs, c.opens = false) → (u.rings.get r).stream.offset =
            ((if b.opens = true ∧ b.sent = 0 then 0 else g.stream.offset) + d.body.length) % 2 ^ 32) ∧
          ∀ e : Fin 8, (∀ c ∈ took, c.engine = e.val) → u.rd64 (.ENG_OUT_LO_Bytes e) = (s.rd64 (.ENG_OUT_LO_Bytes e) + d.body.length) % 2 ^ 64) ∧
    (¬ free ∨ s.dgFull r = false → exec (.datagramClose r) s = .next s) ∧ (¬ free ∨ ¬ late_ → exec (.flushTimeout r) s = .next s) ∧
    (let lim := s.rd (.RING_AGE_AgeLimit r) * 1000000
     let old := fun (y : Rec) => s.due (y.at_ + lim)
     let oldSlot := fun (y : Slot) => s.due (y.at_ + lim)
     let young := fun (xs : List Rec) => xs.filter fun (y : Rec) => !old y
     let youngSlots := fun (xs : List Slot) => xs.filter fun (y : Slot) => !oldSlot y
     let whole := fun (bs : List Block) => (bs.filter fun (b : Block) => b.sent == 0).flatMap fun (b : Block) => b.recs
     (r.val = 12 ∨ s.locked 1 = false → exec (.ageLimitExpiry r) s = .next s) ∧
     (r.val ≠ 12 → s.locked 1 = true → Leads (.ageLimitExpiry r) s (fun u => (u.fillBody r).pump r) fun u =>
       (u.rings.get r).head = youngSlots g.head ∧ (u.rings.get r).body = youngSlots g.body ∧ (u.rings.get r).asm = youngSlots g.asm ∧
       (u.rings.get r).stream.open_ = young g.stream.open_ ∧ whole (u.rings.get r).stream.blocks = young (whole g.stream.blocks) ∧
       s.keeps u [.regs, .rings, .engs] ∧ (∀ q, q ≠ r → { u.rings.get q with stream := (s.rings.get q).stream } = s.rings.get q) ∧
       (g.stream.blocks = [] → (∀ e, s.engineWaits e = false) → s.otherRings u r ∧ s.keeps u [.regs, .rings]) ∧
       u.rd64 (.RING_LOST_LO_Lost r) = (s.rd64 (.RING_LOST_LO_Lost r) + ((g.head ++ g.body ++ g.asm).filter oldSlot).length +
         ((g.stream.open_ ++ whole g.stream.blocks).filter old).length) % 2 ^ 64)) ∧
    (s.rd (.RING_STATE_State r) = 2 → s.ringEmpty r = true → Does (.ringDrained r) s fun t =>
      t.rd (.RING_STATE_State r) = 0 ∧ (s.nextEpochOf (fnRing r) = none → s.keeps t [.regs] ∧ s.keepsRegs t [(Fld.RING_STATE_State r).addr])) ∧
    (s.rd (.RING_STATE_State r) ≠ 2 ∨ s.ringEmpty r = false → exec (.ringDrained r) s = .next s) ∧
    (∀ x : Fin 8,
      let l := s.links.get x
      let stale := fun (d : Dgram) => s.due (d.first + 200000000)
      let ready := l.tx = none ∧ s.linkUp x = true ∧ l.pauseEnd = none ∧ s.usable x = true
      let waiting := fun (q : Fin 16) => ((s.rings.get q).moved.filter fun (m : Nat × Dgram) => m.1 == x.val && stale m.2).map Prod.snd
      let gone := l.queue.filter stale ++ (List.finRange 16).flatMap waiting
      let queued := fun (k : Nat) => ∃ b ∈ l.queue, b.ring = k
      let begins := fun (d : Dgram) (def_ : Vector Nat 16) (m : Nat) => Leads (.frameBegin x) s (fun u => u.settleLinks) fun u =>
        u.links.get x = { l with queue := removeFirst d.ring l.queue, tx := some (d, s.frameOf x d (Config.freeWord s.freeCtr).toNat),
                                 deficit := def_, drrNext := m } ∧
        u.freeCtr = s.freeCtr + 1 ∧ (∀ j, j ≠ x → u.links.get j = s.links.get j) ∧ s.keeps u [.links, .freeCtr]
      let turn : Fin 16 := fin 15 l.drrNext
      let following : Fin 16 := fin 15 ((l.drrNext + 1) % 16)
      let size := fun (d : Dgram) => 32 + d.body.length
      let passed : Vector Nat 16 := Vector.ofFn fun (k : Fin 16) =>
        if k = following then (if queued k ∧ k.val ∈ drrRings then l.deficit.get k + s.rd (.RING_CFG_Weight k) * 1024 else 0)
        else if k = turn ∧ k.val ∈ drrRings ∧ firstOf l.queue k = none then 0 else l.deficit.get k
      (Leads (.datagramAgeExpiry x) s (fun u => u.settleLinks) fun u =>
        u.links.get x = { l with queue := l.queue.filter fun (d : Dgram) => !stale d } ∧ s.keeps u [.regs, .rings, .links] ∧
          (∀ q, (u.rings.get q).moved = (s.rings.get q).moved.filter fun (m : Nat × Dgram) => !(m.1 == x.val && stale m.2)) ∧
          u.rd (.TX_DISCARD_Datagrams x) = min (s.rd (.TX_DISCARD_Datagrams x) + gone.length) (2 ^ 32 - 1) ∧
          ((∀ d ∈ gone, bit d.flags 0 = false) → u.rd64 (.RING_LOST_LO_Lost r) = (s.rd64 (.RING_LOST_LO_Lost r) +
            ((gone.filter fun (d : Dgram) => (fin 15 d.ring : Fin 16) == r).map fun (d : Dgram) => d.recs.length).sum) % 2 ^ 64) ∧
          ∀ j, j ≠ x → u.links.get j = s.links.get j) ∧
      (¬ ready ∨ l.queue = [] → exec (.frameBegin x) s = .next s) ∧
      (∀ d, ready → firstOf l.queue 11 = some d → begins d l.deficit l.drrNext) ∧
      (∀ d, ready → ¬ queued 11 → firstOf l.queue 8 = some d → begins d l.deficit l.drrNext) ∧
      (∀ d, ready → ¬ queued 11 → ¬ queued 8 → turn.val ∈ drrRings → l.drrNext < 16 → firstOf l.queue turn = some d → size d ≤ l.deficit.get turn →
        begins d (Vector.ofFn fun (k : Fin 16) => if k = turn then l.deficit.get k - size d else l.deficit.get k) l.drrNext) ∧
      (∀ d, ready → l.drrNext < 16 → (∀ b ∈ l.queue, b.ring = 9) → firstOf l.queue 9 = some d → begins d l.deficit l.drrNext) ∧
      (∀ d def_ m, ready → s.pickFrame x = some (d, def_, m) → begins d def_ m ∧ firstOf l.queue d.ring = some d ∧
        (d.ring = 9 → ∀ b ∈ l.queue, b.ring = 9) ∧ (d.ring ≠ 11 → d.ring ≠ 8 → d.ring ≠ 9 → d.ring ∈ drrRings ∧ ¬ queued 11 ∧ ¬ queued 8) ∧
        (d.ring ∈ drrRings → l.drrNext < 16 → (turn.val ∈ drrRings → ∀ b, firstOf l.queue turn = some b → l.deficit.get turn < size b) →
          (s.updLink x fun (l : LinkSt) => { l with deficit := passed, drrNext := (l.drrNext + 1) % 16 }).pickFrame x = some (d, def_, m))) ∧
      (∀ f, l.tx = some f → Leads (.frameComplete x) s (fun u => (u.linkBoundary x).settleLinks) fun u =>
        u.rd64 (.TX_FRAMES_LO_Frames x) = (s.rd64 (.TX_FRAMES_LO_Frames x) + 1) % 2 ^ 64 ∧ s.keeps u [.regs, .links] ∧
        s.keepsRegs u [(Fld.TX_FRAMES_LO_Frames x).addr, (Fld.TX_FRAMES_LO_Frames x).addr + 4] ∧
        (l.pauseNew = none → u.links.get x = { l with tx := none }) ∧
        (∀ q, l.pauseNew = some q → u.links.get x = { l with tx := none, pauseEnd := some (s.xt + s.pauseNs x q), pauseNew := none }) ∧
        ∀ j, j ≠ x → u.links.get j = s.links.get j) ∧
      (l.tx = none → exec (.frameComplete x) s = .next s))

/-- R388, R392 – R394, R489, R529, R559: PAUSE and PFC, stalled links and their recovery, links that come up and go down, and the PRBS checker.
The model's choices in it: logs 4, 81, 99, 134. -/
def Obligations.FlowControlAndLinkStates : Prop :=
  ∀ (s : State) (x : Fin 8),
    let l := s.links.get x
    let settles := fun (c : Instr) (P : State → Prop) => Leads c s (fun u => u.settleLinks) fun u => P u ∧ (∀ j, j ≠ x → u.links.get j = s.links.get j)
    let pauses := fun (c : Instr) (q : Nat) => settles c fun u => s.keeps u [.links] ∧ u.links.get x =
      if q = 0 then { l with pauseEnd := none, pauseNew := none }
      else if l.tx.isSome then { l with pauseNew := some q } else { l with pauseEnd := some (s.xt + s.pauseNs x q), pauseNew := none }
    let alive := s.on (.LINK_CFG_Enable x) = true ∧ s.locked 4 = true ∧ l.stopped = false ∧ (s.pwr ≠ 3 ∨ bit (s.rd .SENT_CFG_LinkKeep) x = true)
    let quiet := s.on (.LINK_TEST_PrbsCheck x) = false ∧ s.rd (.LINK_TEST_Loop x) ≠ 1 ∧ s.rd (.LINK_TEST_Loop x) ≠ 2
    (s.receives x = true ↔ s.on (.LINK_CFG_Enable x) = true ∧ l.rxLock = true ∧ s.locked 4 = true ∧ (l.stopped = false ∨ l.tx ≠ none) ∧ quiet) ∧
    (∀ q, s.receives x = true → s.on (.LINK_CFG_Pfc x) = false → pauses (.pauseFrame x q) q) ∧
    (∀ q, s.receives x = false ∨ s.on (.LINK_CFG_Pfc x) = true → exec (.pauseFrame x q) s = .next s) ∧
    (∀ en q, s.receives x = true → s.on (.LINK_CFG_Pfc x) = true → bit en.toNat (s.rd (.LINK_CFG_Pcp x)) = true → pauses (.pfcFrame x en q) q) ∧
    (∀ en q, s.receives x = false ∨ s.on (.LINK_CFG_Pfc x) = false ∨ bit en.toNat (s.rd (.LINK_CFG_Pcp x)) = false → exec (.pfcFrame x en q) s = .next s) ∧
    (∀ t0, l.pauseEnd = some t0 → s.due t0 = true → settles (.pauseTimerExpiry x) fun u => u.links.get x = { l with pauseEnd := none } ∧ s.keeps u [.links]) ∧
    (∀ t0, l.pauseEnd = some t0 → s.due t0 = false → exec (.pauseTimerExpiry x) s = .next s) ∧
    (∀ t0, l.heldFrom = some t0 →
      let stalls := l.stalled = false ∧ l.stopped = false ∧ s.due (t0 + s.rd (.LINK_FRAME_StallMs x) * 1000000) = true
      (stalls → Leads (.linkStalled x) s (fun u => (u.moveQueue x).settleLinks) fun u => u.links.get x = { l with stalled := true, heldFrom := none } ∧
        u.rd (.LINK_STATUS_Stalls x) = min (s.rd (.LINK_STATUS_Stalls x) + 1) 65535 ∧ u.alarmed 0x0504 x (if s.linkUp x = true then 0 else 1) ∧
        ∀ j, j ≠ x → u.links.get j = s.links.get j) ∧
      (¬ stalls → exec (.linkStalled x) s = .next s)) ∧
    (∀ t0, l.ableFrom = some t0 →
      (l.stalled = true → s.due (t0 + 1000000) = true → settles (.linkRecovered x) fun u =>
        u.links.get x = { l with stalled := false, ableFrom := none } ∧ u.alarmed 0x0505 x 0) ∧
      (l.stalled = false ∨ s.due (t0 + 1000000) = false → exec (.linkRecovered x) s = .next s)) ∧
    (alive → l.lock = false → settles (.linkUp x) fun u => u.links.get x = { l with lock := true, rxLock := true } ∧ u.alarmed 0x0503 x 0) ∧
    (¬ alive ∨ l.lock = true → exec (.linkUp x) s = .next s) ∧
    (∀ remote, s.on (.LINK_CFG_Enable x) = true → l.lock = true → l.tx = none ∨ s.nextEpochOf (fnLink x) = none → settles (.linkDown x remote) fun u =>
      u.alarmed 0x0502 x 0 ∧ (∀ q, l.tx.isSome = true → l.pauseNew = some q →
        (u.links.get x).pauseEnd = some (s.xt + s.pauseNs x q) ∧ (u.links.get x).pauseNew = none) ∧
      (u.links.get x).lock = false ∧ ((u.links.get x).rxLock = true ↔ remote = true ∧ (l.rxLock = true ∨ alive)) ∧ (u.links.get x).tx = none ∧ (u.links.get x).queue = l.queue ∧
      u.rd (.TX_DISCARD_Datagrams x) = (if l.tx.isSome then min (s.rd (.TX_DISCARD_Datagrams x) + 1) (2 ^ 32 - 1) else s.rd (.TX_DISCARD_Datagrams x))) ∧
    (∀ remote, s.on (.LINK_CFG_Enable x) = true → l.lock = false → Does (.linkDown x remote) s fun t => s.keeps t [.links] ∧
      { t.links.get x with rxLock := l.rxLock } = l ∧ ((t.links.get x).rxLock = true ↔ remote = true ∧ (l.rxLock = true ∨ alive)) ∧
      ∀ j, j ≠ x → t.links.get j = s.links.get j) ∧
    (∀ remote, s.on (.LINK_CFG_Enable x) = false → exec (.linkDown x remote) s = .next s) ∧
    (s.on (.LINK_TEST_PrbsCheck x) = true →
      (Does (.prbsBitError x) s fun t => t.rd (.LINK_TEST_PRBS_ERR x) = min (s.rd (.LINK_TEST_PRBS_ERR x) + 1) 65535 ∧
        t.links.get x = { l with prbsSync := false } ∧ s.keeps t [.regs, .links] ∧ s.keepsRegs t [(Fld.LINK_TEST_PRBS_ERR x).addr]) ∧
      (Does (.prbsCheckerResync x) s fun t => t.links.get x = { l with prbsSync := true } ∧ s.keeps t [.links])) ∧
    (s.on (.LINK_TEST_PrbsCheck x) = false → exec (.prbsBitError x) s = .next s ∧ exec (.prbsCheckerResync x) s = .next s)

/-- R399, R404 – R407, R411, R414, R417 – R420: a ring's block closes when the next record would take it beyond BlockKiB or its first record has waited
FlushUs; its check compares what its tokens decode to with what the engine took in, and a mismatch stores it RAW; a stalled engine resumes; and a whole
second of device time closes the alarm window.
The model's choices in it: logs 4, 17, 105, 114, 133. -/
def Obligations.CremaBlocksAndAlarmWindows : Prop :=
  ∀ (s : State),
    (∀ (r : Fin 16),
      let m := (s.rings.get r).stream
      let e : Fin 8 := fin 7 (s.rd (.CREMA_CFG_Engine r))
      let ready := s.locked 1 = true ∧ m.open_ ≠ []
      let big := (∃ y, s.nextRec r = some y ∧ s.rd (.CREMA_CFG_BlockKiB r) * 16384 < 8 + recBytes m.open_ + y.bytes.length) ∨
        (s.nextRec r = none ∧ s.rd (.RING_STATE_State r) = 2)
      let late_ := s.due (m.openAt + s.rd (.RING_AGE_FlushUs r) * 1000) = true
      let content := blockContent m.open_
      let before := if s.freshHistory r = true then [] else m.history
      let closes := fun (c : Instr) => (s.engs.get e).stopped = false → s.engineWaits e = false → s.engineHeld e + 20 + (prefilter (s.rd (.CREMA_CFG_PfMode r)) content).length ≤ 524288 →
        Leads c s (fun u => u.serve e) fun u =>
        (u.rings.get r).stream.open_ = [] ∧ u.rd (.CREMA_BLKSEQ_Next r) = (s.rd (.CREMA_BLKSEQ_Next r) + 1) % 2 ^ 32 ∧ u.rd (.ENG_STATUS_State e) = 0 ∧
        s.otherRings u r ∧ s.keeps u [.regs, .rings, .engs] ∧
        s.keepsRegs u [(Fld.CREMA_BLKSEQ_Next r).addr, (Fld.CREMA_RAW_RawBlocks r).addr, (Fld.ENG_STATUS_State e).addr] ∧
        ∃ b, (u.rings.get r).stream.blocks = m.blocks ++ [b] ∧ b.recs = m.open_ ∧ b.sent = 0 ∧ b.wrote = b.bytes.length ∧ b.engine = e.val ∧ b.lost = m.lostIn ∧
          b.fallback = false ∧ b.fresh = s.freshHistory r ∧ b.opens = m.opens ∧ b.number = m.blockNo ∧ b.pf = s.rd (.CREMA_CFG_PfMode r) ∧
          b.filtered = prefilter b.pf content ∧ slice b.bytes (b.bytes.length - 4) 4 = le 4 (crc32c (unfilter b.pf b.filtered)) ∧
          (u.rings.get r).stream.history = (b.filtered.reverse ++ before).take 65536 ∧
          leAt b.bytes 0 2 = 0x4352 ∧ leAt b.bytes 2 1 = 1 ∧ leAt b.bytes 4 2 = r.val + 16 * s.rd (.CREMA_STREAM_Generation r) ∧
          leAt b.bytes 6 4 = s.rd (.CREMA_BLKSEQ_Next r) ∧ bit (leAt b.bytes 3 1) 0 = b.checked ∧ bit (leAt b.bytes 3 1) 1 = !s.freshHistory r ∧
          (b.checked = true → slice b.bytes 16 (b.bytes.length - 20) = b.filtered) ∧
          (b.checked = false → b.bytes.length < 20 + b.filtered.length) ∧
          u.rd (.CREMA_RAW_RawBlocks r) = if b.checked = true then min (s.rd (.CREMA_RAW_RawBlocks r) + 1) 65535 else s.rd (.CREMA_RAW_RawBlocks r)
      (ready → big → closes (.blockClose r)) ∧ (ready → late_ → closes (.blockFlushTimeout r)) ∧
      (¬ ready ∨ ¬ big → exec (.blockClose r) s = .next s) ∧ (¬ ready ∨ ¬ late_ → exec (.blockFlushTimeout r) s = .next s) ∧
      (∀ (b : Block) (i : Nat) (upset : Option (Nat × Byte)), s.locked 1 = true → m.blocks[i]? = some b → b.checked = false →
        (∀ (j : Nat) (c : Block), j < i → m.blocks[j]? = some c → c.checked = true) → (m.blocks.map Block.number).Nodup →
        (∀ (j : Nat) (c : Block), i ≤ j → m.blocks[j]? = some c → c.sent = 0) → b.fallback = false →
        (∀ (j : Nat) (c d : Block), m.blocks[j]? = some c → m.blocks[j + 1]? = some d → c.fallback = true → d.fresh = true) →
        let k : Fin 8 := fin 7 b.engine
        let raw := fun (c : Block) => c.checked
        (b.wrote < b.bytes.length → exec (.blockVerifyDone r upset) s = .next s) ∧
        (b.bytes.length ≤ b.wrote → b.verifies upset = true → Leads (.blockVerifyDone r upset) s (fun u => (u.pump r).serve k) fun u =>
          (u.rings.get r).stream = { m with blocks := m.blocks.set i { b with checked := true } } ∧ s.otherRings u r ∧ s.keeps u [.rings]) ∧
        (b.bytes.length ≤ b.wrote → b.verifies upset = false → Leads (.blockVerifyDone r upset) s (fun u => (u.pump r).serve k) fun u =>
          (u.rings.get r).stream.blocks.length = m.blocks.length ∧
          (∀ (j : Nat) (c : Block), m.blocks[j]? = some c → ∃ d : Block, (u.rings.get r).stream.blocks[j]? = some d ∧ d.recs = c.recs ∧ d.sent = c.sent ∧ d.seq = c.seq ∧
            (j < i → { d with wrote := c.wrote } = c) ∧
            (j = i → d.checked = true ∧ d.fallback = true ∧ slice d.bytes 16 (d.bytes.length - 20) = c.filtered ∧
              bit (leAt d.bytes 3 1) 0 = true ∧ bit (leAt d.bytes 3 1) 3 = true ∧ bit (leAt d.bytes 3 1) 1 = !c.fresh) ∧
            (j = i + 1 → d.fresh = true ∧ bit (leAt d.bytes 3 1) 1 = false)) ∧
          (i + 1 = m.blocks.length → (u.rings.get r).stream.reset = true) ∧ u.alarmed 0x0510 k r ∧
          u.rd (.CREMA_RAW_Fallbacks r) = min (s.rd (.CREMA_RAW_Fallbacks r) + 1) 65535 ∧
          u.rd (.CREMA_RAW_RawBlocks r) = min (s.rd (.CREMA_RAW_RawBlocks r) +
            (((u.rings.get r).stream.blocks.filter raw).length - (m.blocks.filter raw).length)) 65535)) ∧
      (∀ upset, s.locked 1 = false ∨ s.unchecked r = false → exec (.blockVerifyDone r upset) s = .next s)) ∧
    (∀ e : Fin 8,
      let stalled := s.locked 1 = true ∧ (s.engs.get e).stalled = true ∧ (s.engs.get e).stopped = false
      let fits := s.engineHeld e + ((List.finRange 16).flatMap fun (q : Fin 16) => (s.rings.get q).stream.blocks.flatMap fun (b : Block) =>
        if b.engine = e.val then b.bytes.drop b.wrote else []).length ≤ 524288
      (stalled → fits → (∀ (q : Fin 16), ∀ b ∈ (s.rings.get q).stream.blocks, b.sent ≤ b.wrote ∧ b.wrote ≤ b.bytes.length) →
        Leads (.engineResume e) s (fun u => u.serve e) fun u => u.engs = vupd s.engs e (fun (g : EngSt) => { g with stalled := false }) ∧
          u.rd (.ENG_STATUS_State e) = 0 ∧ s.keeps u [.regs, .rings, .engs] ∧ s.keepsRegs u [(Fld.ENG_STATUS_State e).addr] ∧
          ∀ (q : Fin 16), (u.rings.get q).stream.blocks = (s.rings.get q).stream.blocks.map fun (b : Block) =>
            if b.engine = e.val then { b with wrote := b.bytes.length } else b) ∧
      (stalled → ¬ fits → Does (.engineResume e) s fun t => t.engs = s.engs ∧ t.rd (.ENG_STATUS_State e) = 2 ∧ s.keeps t [.regs, .rings] ∧
        s.keepsRegs t [(Fld.ENG_STATUS_State e).addr]) ∧
      (s.locked 1 = false ∨ (s.engs.get e).stalled = false → exec (.engineResume e) s = .next s)) ∧
    (let w := s.alarm.window
     let due_ := w < s.now / 1000000000 ∧ s.power.released = true
     let gone := (s.alarm.sums.filter fun (y : Nat × List Byte) => decide (y.1 + 1 < w)).length
     (due_ → Leads .alarmWindowClose s (fun u => u.pump 8) fun u =>
       u.alarm = { s.alarm with sums := (s.alarm.sums.filter fun (y : Nat × List Byte) => !decide (y.1 + 1 < w)) ++ s.windowSummaries.map fun (b : List Byte) => (w, b),
                                tracks := [], indiv := 0, untracked := [], window := s.now / 1000000000, windowAt := s.xt } ∧
       u.rd .ALARM_STATUS_Tracked = 0 ∧ u.on .ALARM_STATUS_Coalescing = false ∧ u.on .ALARM_STATUS_Latched = s.on .ALARM_STATUS_Latched ∧
       u.rd64 (.RING_LOST_LO_Lost 8) = (s.rd64 (.RING_LOST_LO_Lost 8) + gone) % 2 ^ 64 ∧ u.rd (.RING_SEQ_Next 8) = (s.rd (.RING_SEQ_Next 8) + gone) % 2 ^ 32 ∧
       s.keeps u [.regs, .alarm, .rings] ∧ s.otherRings u 8 ∧ u.mem = s.mem ∧
       { u.rings.get 8 with wraps := (s.rings.get 8).wraps } = s.rings.get 8) ∧
     (¬ due_ → exec .alarmWindowClose s = .next s))

/-! The time base and the loops -/

/-- R442, R444 – R446, R449, R455, R456: an edge of PPS_IN is accepted in a window about its second or rejected; an accepted edge measures the phase
error, which is closed by a slew or a step; a missing PPS_IN is lost; a step falls at its whole second; daily means teach the ageing slope.
The model's choices in it: logs 4, 82, 101, 102, 103, 142. -/
def Obligations.TimeBase : Prop :=
  ∀ (s : State) (edge : PpsEdge),
    let adv := (incOf s.time.corr * (edge.sub.val : Int) / 3200).toNat
    let lam := s.time.lam48 + adv
    let d48 := s.now48 + (adv : Int)
    let us : Nat := 1000 * 2 ^ 48
    let second : Int := 10 ^ 9 * 2 ^ 48
    let early := ∃ p, s.time.ppsLast = some p ∧ (lam + us < p + 1000000 * us ∨ p + 1000001 * us < lam)
    let src := s.rd .TIME_CFG_TimeSrc
    let run := if s.time.ppsLast = none then 0 else s.time.ppsRun + 1
    let qual := s.time.ppsQual = true ∨ 4 ≤ run
    let active := edge.falling = s.on .TIME_CFG_PpsInFalling
    let accepts := fun (P : State → Prop) => Leads (.ppsEdge edge) s (fun u => u.regEdge 3 (u.xu + edge.sub)) P
    let count := fun (t : State) (k : Nat) => match t.time.rejected.find? (fun (x : Nat × Nat) => x.1 == k) with | some x => x.2 | none => 0
    let delay := s.rdS .PPS_DELAY_PpsDelay * 2 ^ 48
    let marks := fun (S : Nat) (lab : Bool) =>
      let eps : Int := d48 - (S : Int) * second - delay
      let steers := qual ∧ (src = 1 ∨ (src = 2 ∧ s.time.refQual = true))
      accepts fun u =>
        (lab = true → u.time.second = some (S, lam) ∧ u.time.armed = none ∧ u.rd .TIME_STATE_Labelled = 1) ∧
        (lab = false → u.time.second = s.time.second.map (fun (_ : Nat × Nat) => (S, lam)) ∧ u.time.armed = s.time.armed ∧
          u.rd .TIME_STATE_Labelled = s.rd .TIME_STATE_Labelled) ∧
        u.rdS .PHASE_ERR_Err = satS 32 (roundDiv eps (2 ^ 41)) ∧
        (steers → u.rd .TIME_STATE_State = 3 ∧
          (eps.natAbs ≤ us → u.time.slewLeft = -eps ∧ (u.on .TIME_STATE_Slewing = true ↔ eps ≠ 0) ∧ u.time.pendStep = s.time.pendStep) ∧
          (us < eps.natAbs → u.time.slewLeft = s.time.slewLeft ∧ (s.time.pendStep.isSome = true → u.time.pendStep = s.time.pendStep) ∧
            (s.time.pendStep = none → ∃ w, w % 1000000000 = 0 ∧ s.now + 10000000 ≤ w ∧ w < s.now + 1010000000 ∧
              u.time.pendStep = some ⟨w, eps, if lab = true then 3 else if s.rd .TIME_STATE_State = 3 then 4
                else if s.time.disciplinedOnce = true then 2 else 1⟩))) ∧
        (¬ steers → u.rd .TIME_STATE_State = s.rd .TIME_STATE_State ∧ u.time.slewLeft = s.time.slewLeft ∧ u.time.pendStep = s.time.pendStep)
    let young := ∀ lab at_, s.time.armed = some (lab, at_) → s.xt < at_ + 100000000
    (¬ active → exec (.ppsEdge edge) s = .next s) ∧
    (active → early → Does (.ppsEdge edge) s fun t =>
      t.rd .TIME_COUNT_PpsRejected = min (s.rd .TIME_COUNT_PpsRejected + 1) 65535 ∧
      (∀ k, count t k = count s k + if k = (d48 / 2 ^ 48).toNat / 1000000000 then 1 else 0) ∧
      s.keeps t [.regs, .time] ∧ s.keepsRegs t [Fld.TIME_COUNT_PpsRejected.addr] ∧ t.now48 = s.now48 ∧
      (s.time.ppsQual = true → t.time.ppsLast = s.time.ppsLast ∧ t.time.ppsRun = s.time.ppsRun) ∧
      (s.time.ppsQual = false → t.time.ppsLast = some lam ∧ t.time.ppsRun = 0)) ∧
    (active → ¬ early → accepts fun u =>
      u.time.ppsLast = some lam ∧ u.time.ppsRun = run ∧ (u.time.ppsQual = true ↔ qual) ∧ u.now48 = s.now48 ∧
      u.rd .TIME_COUNT_PpsRejected = s.rd .TIME_COUNT_PpsRejected) ∧
    (∀ lab at_, active → ¬ early → s.time.armed = some (lab, at_) → at_ + 100000000 ≤ s.xt → marks lab true) ∧
    (∀ q l, active → ¬ early → young → s.time.second = some (q, l) → marks (q + max 1 (roundDiv ((lam : Int) - l) second).toNat) false) ∧
    (active → ¬ early → young → s.time.second = none → marks (roundDiv (d48 - delay) second).toNat false) ∧
    (∀ p, s.time.ppsLast = some p → p + 1100000000 * 2 ^ 48 ≤ s.time.lam48 →
      let lost := { s.time with ppsLast := none, ppsRun := 0, ppsQual := false }
      (s.usesPps = false ∨ (s.rd .TIME_STATE_State ≠ 2 ∧ s.rd .TIME_STATE_State ≠ 3) → Does .ppsLossTimeout s fun t => t.time = lost ∧ s.keeps t [.time]) ∧
      (s.usesPps = true → s.rd .TIME_STATE_State = 2 ∨ s.rd .TIME_STATE_State = 3 → Does .ppsLossTimeout s fun t =>
        t.rd .TIME_STATE_State = 4 ∧ t.rd64 .HOLD_START_LO_Time = s.now ∧ t.alarmed 0x0603 2 0 ∧ t.time.ppsLast = none ∧ t.time.holdLam = s.time.lam48 ∧
        t.now48 = s.now48)) ∧
    ((∀ p, s.time.ppsLast = some p → s.time.lam48 < p + 1100000000 * 2 ^ 48) → exec .ppsLossTimeout s = .next s) ∧
    (∀ k n rest, s.time.rejected = (k, n) :: rest →
      (k < s.now / 1000000000 → Does .ppsRejectedReport s fun t => t.alarmed 0x0606 (n % 2 ^ 32) 0 ∧ t.time = { s.time with rejected := rest }) ∧
      (s.now / 1000000000 ≤ k → exec .ppsRejectedReport s = .next s)) ∧
    (s.time.rejected = [] → exec .ppsRejectedReport s = .next s) ∧
    (∀ w eps cause, s.time.pendStep = some ⟨w, eps, cause⟩ → w ≤ s.now → Does .timeStep s fun t =>
      t.now48 = s.now48 - eps ∧ t.time.lam48 = s.time.lam48 ∧ t.time.ticks = s.time.ticks ∧ t.time.pendStep = none ∧ t.time.steps = (s.xt :: s.time.steps).take 32 ∧
      (s.on .TIME_CFG_PpsOutGate = true → ∃ k, t.time.ppsOutSec = some k ∧ w / 1000000000 ≤ k) ∧
      (∀ k : Fin 16, bit (t.rd (.INT_PENDING_Sources k)) 15 = true) ∧
      t.alarmed 0x0605 (ofS 32 (satS 32 (roundDiv (-eps) (2 ^ 48)))) (cause % 2 ^ 32) ∧
      t.rd .TIME_COUNT_Steps = min (s.rd .TIME_COUNT_Steps + 1) 65535) ∧
    ((∀ p, s.time.pendStep = some p → s.now < p.w) → exec .timeStep s = .next s) ∧
    (s.time.slewLeft = 0 → Does .slewComplete s fun t => t.time = { s.time with slewRate := 0 } ∧ t.rd .TIME_STATE_Slewing = 0 ∧
      s.keeps t [.regs, .time] ∧ s.keepsRegs t [Fld.TIME_STATE_Slewing.addr] ∧ t.rd .TIME_STATE_State = s.rd .TIME_STATE_State) ∧
    (s.time.slewLeft ≠ 0 → exec .slewComplete s = .next s) ∧
    (∀ d x, s.time.dayFrom = some (d, x) →
      let ready := s.rd .TIME_STATE_State = 3 ∧ d + 86400000000000 ≤ s.now
      let ms := ((d, s.meanCorr x s.xt) :: s.time.means).take 30
      (ready → Does .dailyMean s fun t => t.time = { s.time with means := ms, dayFrom := some (s.now, s.xt) } ∧ t.rd .AGE_DAYS_Value = ms.length ∧
        s.keeps t [.regs, .time] ∧ s.keepsRegs t [Fld.AGE_DAYS_Value.addr, Fld.AGE_LEARNED_Value.addr] ∧
        (3 ≤ ms.length → t.rdS .AGE_LEARNED_Value = learnedSlope ms) ∧ (ms.length < 3 → t.rd .AGE_LEARNED_Value = s.rd .AGE_LEARNED_Value)) ∧
      (¬ ready → exec .dailyMean s = .next s)) ∧
    (s.time.dayFrom = none → exec .dailyMean s = .next s)

/-- R427, R430 – R434, R447, R452, R453, R455: the time outputs fall on device time, and a loop is declared locked, declared lost, or tries again.
The model's choices in it: logs 4, 81, 141. -/
def Obligations.TimeOutputsAndLoops : Prop :=
  ∀ (s : State),
    (let sec := s.crossing 1000000000 0 s.time.ppsOutSec
     let held := s.on .TIME_CFG_PpsOutGate = true ∧ (s.rd .TIME_STATE_State ≠ 3 ∨ s.time.pendStep.isSome = true)
     (s.ppsOutLevel = true ↔ s.time.ppsOut = true ∧ s.on .TIME_CFG_PpsOutEn = true ∧ ¬ held) ∧
     (s.on .TIME_CFG_PpsOutEn = false → Does .ppsOutRise s fun t => t.time = { s.time with ppsOutSec := none } ∧ s.keeps t [.time]) ∧
     (s.on .TIME_CFG_PpsOutEn = true → sec.isSome = true → Does .ppsOutRise s fun t => t.time.ppsOutSec = some (s.now / 1000000000) ∧
       (t.time.ppsOut = true ↔ ¬ held) ∧ t.time = { s.time with ppsOutSec := t.time.ppsOutSec, ppsOut := t.time.ppsOut } ∧ s.keeps t [.time]) ∧
     (s.on .TIME_CFG_PpsOutEn = true → sec = none → exec .ppsOutRise s = .next s)) ∧
    (∀ k, s.time.ppsOutSec = some k →
      (k * 1000000000 + 100000000 ≤ s.now → Does .ppsOutFall s fun t => t.time = { s.time with ppsOut := false } ∧ s.keeps t [.time]) ∧
      (s.now < k * 1000000000 + 100000000 → exec .ppsOutFall s = .next s)) ∧
    (s.time.ppsOutSec = none → exec .ppsOutFall s = .next s) ∧
    (let cross := s.crossing (s.rd .SYNC_OUT_PERIOD_Time * 1000) (s.rd .SYNC_OUT_PHASE_Time * 1000) s.time.syncLast
     (∀ k, s.rd .SYNC_OUT_CFG_Source = 1 → cross = some k → Does .syncOutPulse s fun t =>
       t.time = { s.time with syncLast := some k, syncEnd := s.xt + s.rd .SYNC_OUT_CFG_SyncWidth * 10 } ∧ s.keeps t [.time]) ∧
     (s.rd .SYNC_OUT_CFG_Source ≠ 1 ∨ cross = none → exec .syncOutPulse s = .next s)) ∧
    (let cross := s.crossing (s.rd .TIME_CFG_TimeRecSec * 1000000000) 0 s.time.recLast
     (∀ k, cross = some k → s.power.released = true → Leads .timeStateRecord s (fun u => u.offer 13 (s.timeRecord (k * (s.rd .TIME_CFG_TimeRecSec * 1000000000)))) fun u =>
       u.time = { s.time with recLast := some k } ∧ s.keeps u [.time]) ∧
     (cross = none ∨ s.power.released = false → exec .timeStateRecord s = .next s)) ∧
    (∀ k : Fin 6,
      let l := s.loops.get k
      let others := fun (t : State) => ∀ j, j ≠ k → t.loops.get j = s.loops.get j
      let judged := l.running = true ∧ s.loopLocked k = false
      let gaps := match l.lostAt with | some a => ((a, s.xt) :: l.gaps).take 32 | none => l.gaps
      (∀ (ws : List (Nat × Nat)) (phase : Int),
        let good := judged ∧ ws.length = 8 ∧ (∀ w ∈ ws, w.1 ≤ w.2 + 2 ∧ w.2 ≤ w.1 + 2) ∧ s.due (l.acqFrom + 81920) = true
        (good → Leads (.loopLockDeclared ⟨k, ws, phase⟩) s (fun u => u.advStages) fun u => u.loopLocked k = true ∧ others u ∧
          u.loops.get k = { l with ran := true, lost := false, lostAt := none, gaps := gaps, fails := 0, phase := if k.val = 5 then phase else l.phase } ∧
          (l.lost = true → k.val ≠ 1 → k.val ≠ 2 → u.alarmed 0x0602 k (l.acqs % 2 ^ 32)) ∧
          (l.lost = false → k.val ∈ [0, 4, 5] → s.keeps u [.regs, .loops, .ports] ∧
            ∀ p : Fin 4, { u.ports.get p with fe := (s.ports.get p).fe } = s.ports.get p)) ∧
        (¬ good → exec (.loopLockDeclared ⟨k, ws, phase⟩) s = .next s)) ∧
      (let loses := fun (sign : LossSign) (why : Nat) => Does (.loopLossDeclared k sign) s fun t => t.loopLocked k = false ∧ others t ∧
         t.loops.get k = { l with acqFrom := s.xt, fails := 0, acqs := 1, lostAt := some s.xt, lost := true } ∧
         t.rd (.LOOP_STAT_Losses k) = min (s.rd (.LOOP_STAT_Losses k) + 1) 65535 ∧ t.rd (.LOOP_STAT_LastCause k) = why ∧
         (k.val = 2 → t.alarmed 0x0601 2 why) ∧ (k.val = 3 → t.on .EMT_STATUS_InFrame = false ∧ ∀ x ∈ t.ctl.syncs, s.dueU x = false) ∧
         (k.val = 4 → ∀ x : Fin 8, (t.links.get x).lock = false)
       (∀ a b : Nat, s.loopLocked k = true → a + 8 < b ∨ b + 8 < a → loses (.counts a b) 1) ∧ (s.loopLocked k = true → loses .noEdge 2) ∧
       (∀ a b : Nat, a ≤ b + 8 → b ≤ a + 8 → exec (.loopLossDeclared k (.counts a b)) s = .next s)) ∧
      (∀ sign, s.loopLocked k = false → exec (.loopLossDeclared k sign) s = .next s) ∧
      (let late_ := judged ∧ s.due (l.acqFrom + 1000000) = true
       (late_ → l.fails < 7 → Does (.acquisitionTimeout k) s fun t => s.keeps t [.loops] ∧ others t ∧
         t.loops.get k = { l with acqFrom := s.xt, fails := l.fails + 1, acqs := l.acqs + 1 }) ∧
       (¬ late_ → exec (.acquisitionTimeout k) s = .next s))) ∧
    (∀ ps, let due_ := s.xtal.running = true ∧ ∀ t0, s.xtal.aonAt = some t0 → s.due (t0 + 10000000000) = true
      (due_ → Does (.aonPeriodMeasure ps) s fun t => t.xtal = { s.xtal with aonPeriod := ps, aonAt := some s.xt } ∧ s.keeps t [.xtal]) ∧
      (¬ due_ → exec (.aonPeriodMeasure ps) s = .next s))

/-! Resets, start-up and the power states -/

/-- R20, R428, R432, R450, R458, R481, R482, R484 – R487, R535, R541: what every reset leaves, whatever caused it, what holds the device in reset, what
the JTAG port's data registers give and take, what the pins follow under an EXTEST instruction, and the level of PWR_EN. What the pins, the fuses and the sensors give
is read anew (log 84).
The model's choices in it: logs 83, 84, 85, 127, 135, 144, 145. -/
def Obligations.Resets : Prop :=
  ∀ (s : State), s.regsWf = true →
    let mask := fun (cause a : Nat) => classMask (fun (k : RClass) => k == .p || (decide (4 ≤ cause) && k == .c)) a
    let live := [Fld.RESET_CAUSE_Last.addr, Fld.RESET_COUNT_A_Pin.addr, Fld.RESET_COUNT_B_Fatal.addr, Fld.TIME_STATE_Slewing.addr, Fld.PWR_STATE_State.addr,
      Fld.FUSE_STATUS_KeyHash.addr, Fld.DIE_TEMP_Temp.addr, Fld.SUPPLY_STATUS_Warn.addr] ++
        (List.range 8).flatMap fun (k : Nat) => [(Fld.FUSE_KEYHASH_Hash k).addr, (Fld.ZONE_OUT_Lost k).addr]
    let counter := fun (cause : Nat) => if cause = 2 then Fld.RESET_COUNT_A_Pin else if cause = 3 then .RESET_COUNT_A_HostSoft
      else if cause = 4 then .RESET_COUNT_B_Watchdog else .RESET_COUNT_B_Fatal
    let counts := [Fld.RESET_COUNT_A_Pin, .RESET_COUNT_A_HostSoft, .RESET_COUNT_B_Watchdog, .RESET_COUNT_B_Fatal]
    let resets := fun (c : Instr) (cause : Nat) (held : Bool) => Does c s fun t =>
      t.rd .RESET_CAUSE_Last = cause ∧ t.power.lastReset = cause ∧ t.rd .PWR_STATE_State = 0 ∧ t.power.stages = 0 ∧ t.power.released = false ∧
      t.power.begun = (if held then 0 else 2) ∧ t.power.trans = none ∧ t.xtal.running = false ∧ t.pending = s.pending ∧
      t.mem.words = s.mem.words ∧ t.image.flash = s.image.flash ∧ t.image.keyHash = s.image.keyHash ∧
      State.reset.keeps { t with mem := State.reset.mem, host := { t.host with fuses := State.reset.host.fuses } }
        [.pending, .regs, .time, .xtal, .power, .alarm, .image, .zone, .freeCtr] ∧ t.mem.answers = [] ∧
      t.zone = { State.reset.zone with low := s.zone.low } ∧ (s.zone.low = true → ∀ z : Fin 8, t.on (.ZONE_OUT_Lost z) = true) ∧
      (∀ k : Fin 9, bit (t.rd .SUPPLY_STATUS_Warn) k = true ↔ ∃ r ∈ t.power.rails, r.rail = k.val ∧ r.above = none) ∧
      (cause = 1 → t.time = TimeSt.rest ∧ t.alarm = AlarmSt.rest ∧ t.rd .RESET_CAUSE_Previous = 0 ∧ (∀ f ∈ counts, t.rd f = 0) ∧
        ∀ a, a ∉ live → rfWord t.regs a = resetWord a) ∧
      (1 < cause → t.time.lam48 = s.time.lam48 ∧ t.time.sig48 = s.time.sig48 ∧ t.time.ticks = s.time.ticks ∧ t.alarm.log = s.alarm.log ∧
        t.rd .RESET_CAUSE_Previous = (s.rd .RESET_CAUSE_Previous * 16 + s.rd .RESET_CAUSE_Last) % 4096 ∧
        (∀ f ∈ counts, t.rd f = if f = counter cause then min (s.rd f + 1) 65535 else s.rd f) ∧
        ∀ a, a ∉ live → rfWord t.regs a &&& mask cause a = rfWord s.regs a &&& mask cause a ∧
          rfWord t.regs a &&& ~~~ mask cause a = resetWord a &&& ~~~ mask cause a)
    let frees := fun (c : Instr) (w : PowerSt) =>
      (w.held = true ∨ w.begun ≠ 0 ∨ s.rd .PWR_STATE_State = 5 → Does c s fun t => t.power = w ∧ s.keeps t [.power]) ∧
      (w.held = false → w.begun = 0 → s.rd .PWR_STATE_State ≠ 5 → Does c s fun t => t.power = { w with begun := 2 } ∧ t.rd .PWR_STATE_Stage = 1 ∧
        t.xtal = { s.xtal with s1From := s.xtal.aonNow } ∧ s.keeps t [.regs, .power, .xtal] ∧ s.keepsRegs t [Fld.PWR_STATE_Stage.addr])
    resets .powerOnReset 1 true ∧ (Does .powerOnReset s fun t => t.power.off = false ∧ t.pwrEn = true) ∧
    s.pwrEn = (!s.power.off && s.rd .PWR_STATE_State != 5) ∧
    resets .pinReset 2 true ∧
    (∀ (i : JtagInstr) (bits : List Bool),
      let load := Instr.jtagInstruction ⟨i, bits⟩
      let hold := i = .extest ∨ i = .extestPulse ∨ i = .extestTrain
      let first := { s.power with jtagHold := false, jtag := { s.power.jtag with instr := i } }
      let gives := fun (reg : List Bool) => { first with jtag := { first.jtag with tdo := (reg ++ bits).take bits.length } }
      let scans := fun (t : State) (reg : List Bool) => t.power.jtag.instr = i ∧ t.power.jtag.tdo = (reg ++ bits).take bits.length ∧
        ∀ c x, ((reg ++ bits).drop bits.length)[c]? = some x → spGet Config.boundaryCell t.power.jtag.latch c = x
      (hold → s.power.jtagHold = false → resets load 2 true) ∧ (hold → Does load s fun t => t.power.jtagHold = true) ∧
      (hold → s.power.jtagHold = true → Does load s fun t => s.keeps t [.power, .freeCtr] ∧ { t.power with jtag := s.power.jtag } = s.power ∧
        (bits ≠ [] → scans t s.capture)) ∧
      (¬ hold → Does load s fun t => t.power.jtagHold = false ∧ (i = .samplePreload → bits ≠ [] → scans t s.capture)) ∧
      (i = .bypass → frees load (gives [false])) ∧
      (i = .idcode → frees load (gives ((List.range 32).map fun (k : Nat) => bit 0x172484E5 k))) ∧
      (i = .samplePreload → bits = [] → frees load first)) ∧
    (∀ pin, s.pinLevel pin = if s.power.jtagHold = true then spGet Config.boundaryCell s.power.jtag.latch (Config.boundaryPos pin) else s.devLevel pin) ∧
    (∀ t0, s.power.softResetAt = some t0 →
      (s.due t0 = true → resets .softResetBegin 3 s.power.held) ∧ (s.due t0 = false → exec .softResetBegin s = .next s)) ∧
    (s.power.softResetAt = none → exec .softResetBegin s = .next s) ∧
    (let bites := (s.rd .PWR_STATE_State = 2 ∨ s.rd .PWR_STATE_State = 3) ∧ s.rd .SYS_WDOG_Period ≠ 0 ∧
       s.due (s.power.wdogFrom + s.rd .SYS_WDOG_Period * 1000000) = true
     (bites → resets .watchdogExpiry 4 s.power.held) ∧ (¬ bites → exec .watchdogExpiry s = .next s)) ∧
    (s.xtal.running = true → resets .xtalLoss 5 s.power.held) ∧ (s.xtal.running = false → exec .xtalLoss s = .next s) ∧
    (let slow := s.inStage 1 = true ∧ s.xtal.running = false ∧ s.xtal.s1From + 10000000 < s.xtal.aonNow + 25
     (slow → resets .xtalStartTimeout 5 s.power.held) ∧ (¬ slow → exec .xtalStartTimeout s = .next s)) ∧
    (∀ k : Fin 6, (s.loops.get k).running = true → s.loopLocked k = false → s.due ((s.loops.get k).acqFrom + 1000000) = true →
      7 ≤ (s.loops.get k).fails → resets (.acquisitionTimeout k) 6 s.power.held) ∧
    (∀ (rail : Fin 9) (below : Nat),
      let blind := s.rd .PWR_STATE_State = 5 ∧ rail.val < 7
      let falls := Instr.railBelowReset ⟨rail, below⟩
      (below ≤ 80 → exec falls s = .next s) ∧
      (80 < below → blind → Does falls s fun t => t.power = { s.power with railHold := true } ∧ s.keeps t [.power]) ∧
      (80 < below → ¬ blind → rail.val = 8 → resets falls 1 true ∧ Does falls s fun t => t.power.off = true ∧ t.pwrEn = false) ∧
      (80 < below → ¬ blind → rail.val ≠ 8 → s.power.railHold = false → resets falls 7 true ∧ Does falls s fun t => t.rd .RESET_CAUSE_Rail = rail) ∧
      (80 < below → ¬ blind → rail.val ≠ 8 → s.power.railHold = true → Does falls s fun t =>
        t.power = { s.power with rails := fallRail rail below s.xt s.power.rails } ∧ s.keeps t [.power])) ∧
    (s.rd .PWR_STATE_State = 5 → exec .overTemp s = .next s) ∧ (s.rd .PWR_STATE_State ≠ 5 → resets .overTemp 8 true) ∧
    frees .resetNRelease { s.power with rstPin := false } ∧
    frees .railsAboveResetLevel { s.power with railHold := false }

/-- R345, R366, R371, R428, R450, R458, R459, R461, R471 – R473, R518, R533, R555: the stages of start-up, HOLD, and the release of every consumer.
The model's choices in it: logs 4, 82, 92, 94, 116. -/
def Obligations.StartupStages : Prop :=
  ∀ (s : State), s.regsWf = true →
    let stays := fun (c : Instr) => exec c s = .next s
    let holds := fun (t : State) => t.rd .PWR_STATE_State = 1 ∧ t.alarmed 0x0705 0 1 ∧
      ∀ a, rfWord t.regs a &&& classMask (· == RClass.c) a = resetWord a &&& classMask (· == RClass.c) a
    (∀ cycles,
      let starts := s.power.held = false ∧ s.inStage 1 = true ∧ s.xtal.running = false
      let fresh := s.power.lastReset = 1 ∧ s.leavingSuspend = false
      (starts → Does (.crystalRunning cycles) s fun t => t.xtal = { s.xtal with running := true } ∧ t.stageDone 1 = true ∧ bit t.power.begun 2 = true ∧
        (t.loops.get 1).running = true ∧ t.power.setBy = [] ∧ (fresh → t.time = s.time) ∧
        (¬ fresh → t.time.lam48 = s.time.lam48 + cycles * s.xtal.aonPeriod * 2 ^ 48 / 1000 ∧
          t.rd .TIME_STATE_State = (if s.rd .TIME_STATE_State ∈ [2, 3, 4] then 4 else if s.rd .TIME_CFG_TimeSrc = 0 then 0 else 1) ∧
          (s.rd .TIME_STATE_State ≠ 4 → t.time.holdLam = t.time.lam48))) ∧
      (¬ starts → stays (.crystalRunning cycles))) ∧
    (∀ bad,
      let all := s.power.lastReset = 1 ∧ s.leavingSuspend = false
      let march := s.leavingSuspend = false ∧ bit s.bistOf 0 = true
      (s.inStage 3 = true → Does (.sramFillDone bad) s fun t => t.stageDone 3 = true ∧
        (¬ march ∨ bad = none ∨ s.power.released = false → (∀ id i, id < 64 → id ≠ 27 ∨ all → t.cell (sramLoc id i) = fillWord (sramLoc id i)) ∧
          (¬ all → ∀ i, t.cell (sramLoc 27 i) = s.cell (sramLoc 27 i)) ∧ ∀ l, isDram l = true → t.cell l = s.cell l) ∧
        (march → t.on .BIST_STATUS_Ran = true) ∧ (march → bad = none → t.rd .BIST_STATUS_Failed = 255 ∧ t.rd .PWR_STATE_State = s.rd .PWR_STATE_State) ∧
        (s.rd .PWR_STATE_State = 1 → s.leavingSuspend = false → t.rd .PWR_STATE_State = 1 ∧ bit t.power.begun 5 = bit s.power.begun 5) ∧
        (∀ (k : Fin 64) w, march → bad = some (k, w) → k.val ≠ 27 ∨ all → t.rd .BIST_STATUS_Failed = k ∧ t.rd .PWR_STATE_State = 1 ∧
          (s.rd .PWR_STATE_State ≠ 1 → holds t))) ∧
      (s.inStage 3 = false → stays (.sramFillDone bad))) ∧
    (let code := fun (k : Nat) => (s.validate (s.slotByte k) 67108864).code
     let unread := s.rd .IMAGE_STATUS_ResultA = 15 ∧ s.rd .IMAGE_STATUS_ResultB = 15
     (∀ pre k post, s.inStage 4 = true → unread → s.slotOrder = pre ++ k :: post → (∀ j ∈ pre, code j ≠ 0) → code k = 0 →
       Does .imageValidationDone s fun t => t.rd .IMAGE_STATUS_Source = k ∧ t.rd .IMAGE_SEQ_Sequence = imgSeq (s.slotByte k) ∧
         t.rd (slotResult k) = 0 ∧ (∀ j ∈ pre, t.rd (slotResult j) = code j) ∧ t.stageDone 4 = true ∧ t.rd .PWR_STATE_State = s.rd .PWR_STATE_State ∧
         (s.stageDone 3 = true → s.rd .PWR_STATE_State ≠ 1 → bit t.power.begun 5 = true)) ∧
     (s.inStage 4 = true → (∀ k ∈ s.slotOrder, code k ≠ 0) → Does .imageValidationDone s fun t => holds t ∧ t.stageDone 4 = true ∧
       t.rd .IMAGE_STATUS_Source = s.rd .IMAGE_STATUS_Source) ∧
     (s.inStage 4 = false → stays .imageValidationDone)) ∧
    (let u := s.applyImage
     let src := s.rd .IMAGE_STATUS_Source
     (s.inStage 5 = true → u.epoch0Fails = [] → Does .sectionsApplied s fun t => t.stageDone 5 = true ∧ bit t.power.begun 6 = true ∧
       t.power.s6From = s.xt ∧ t.image.staged = [] ∧ (∀ k : Fin 6, k.val < 5 → (t.loops.get k).running = true) ∧
       t.rd .CLK_STATUS_ClkSrc = t.rd .CLK_CFG_ClkSrc ∧ (s.power.lastReset < 4 → ∀ a,
         rfWord t.regs a &&& cMask a = rfWord (imageRegs [] (contentsOf s.imageByte)) a &&& cMask a)) ∧
     (s.inStage 5 = true → u.epoch0Fails ≠ [] → src < 3 → Does .sectionsApplied s fun t =>
       t.rd .IMAGE_STATUS_Source = 3 ∧ t.rd .IMAGE_SEQ_Sequence = 0 ∧ t.rd .IMAGE_STATUS_Reason ∈ u.epoch0Fails ∧ bit t.power.begun 5 = false ∧ t.stageDone 5 = false ∧
       (src = 2 → t.rd .IMAGE_STATUS_ResultHost = 11 ∧ holds t) ∧ (src ≠ 2 → t.rd (slotResult src) = 11)) ∧
     (s.inStage 5 = false → stays .sectionsApplied)) ∧
    (let get := fun (i : Nat) => s.image.staged.getD i 0
     let code := (s.validate get 16777216).code
     let waits := s.rd .PWR_STATE_State = 1 ∧ s.image.validating = true
     (waits → Does .hostImageValidated s fun t => t.image = { s.image with validating := false } ∧ t.rd .IMAGE_STATUS_ResultHost = code ∧
       t.on .ALERT_EVENT_ImageDone = true ∧ (code ≠ 0 → t.rd .PWR_STATE_State = 1 ∧ t.power = s.power) ∧
       (code = 0 → t.rd .PWR_STATE_State = 0 ∧ t.rd .IMAGE_STATUS_Source = 2 ∧ t.rd .IMAGE_SEQ_Sequence = imgSeq get ∧ bit t.power.begun 5 = true)) ∧
     (¬ waits → stays .hostImageValidated)) ∧
    (∀ ok0 ok1,
      let state := fun (ch : Nat) (ok : Bool) => if s.on (.MC_CFG_Enable ch) = false then 5 else if ok then 2 else 3
      (s.inStage 7 = true → Does (.trainingDone ok0 ok1) s fun t => t.rd (.MC_STATUS_State 0) = state 0 ok0 ∧ t.rd (.MC_STATUS_State 1) = state 1 ok1 ∧
        (∀ (ch : Fin 2), s.on (.MC_CFG_Enable ch) = true → (if ch = 0 then ok0 else ok1) = false → t.rd (.MC_STATUS_Attempts ch) = 3) ∧
        t.stageDone 7 = true ∧ bit t.power.begun 8 = true ∧
        t.rd .MEM_MODE_Mode = (if state 0 ok0 = 2 then (if state 1 ok1 = 2 then 0 else 1) else if state 1 ok1 = 2 then 2 else 3) ∧
        (state 0 ok0 ≠ 2 → state 1 ok1 ≠ 2 → t.stageDone 8 = true)) ∧
      (s.inStage 7 = false → stays (.trainingDone ok0 ok1))) ∧
    (∀ bad0 bad1,
      (s.inStage 8 = true → Does (.dramFillDone bad0 bad1) s fun t => t.stageDone 8 = true ∧ (s.stageDone 9 = true → bit t.power.begun 11 = true) ∧
        (s.on .BIST_CFG_Dram = false → (∀ l, t.cell l = if isDram l then fillWord l else s.cell l) ∧
          t.rd (.MC_STATUS_State 0) = s.rd (.MC_STATUS_State 0) ∧ t.rd (.MC_STATUS_State 1) = s.rd (.MC_STATUS_State 1)) ∧
        (∀ w, s.on .BIST_CFG_Dram = true → s.on .BIST_STATUS_Ran = false → s.rd (.MC_STATUS_State 0) = 2 → bad0 = some w →
          t.on .BIST_STATUS_Ran = true ∧ t.rd .BIST_STATUS_Failed = 128 ∧ t.rd (.MC_STATUS_State 0) = 3 ∧ t.rd .MEM_MODE_Mode = t.modeOf)) ∧
      (s.inStage 8 = false → stays (.dramFillDone bad0 bad1))) ∧
    (∀ res widths steps,
      let warned := (∃ q ∈ s.power.rails, q.above = none ∧ q.from_ ≤ s.xt) ∨ ∃ w ∈ s.power.warnSpans, w.1 ≤ s.xt ∧ s.power.s9From < max w.2 (w.1 + 1)
      let pass := Instr.startupPassDone res widths steps
      (s.inStage 9 = true → warned → Does pass s fun t => t.power = { s.power with s9From := s.xt } ∧ s.keeps t [.power]) ∧
      (s.inStage 9 = true → ¬ warned → Does (.startupPassDone res widths steps) s fun t => t.stageDone 9 = true ∧
        (s.leavingSuspend = false → s.stageDone 8 = true → bit t.power.begun 11 = true)) ∧
      (s.inStage 9 = false → stays (.startupPassDone res widths steps))) ∧
    (let ready := s.power.released = false ∧ s.stageDone 11 = true ∧ s.locked 1 = true
     (ready → Leads .release s (fun u => u.pumpAll) fun u => u.power.released = true ∧ u.rd .PWR_STATE_State = 2 ∧ u.rd .PWR_STATE_Transit = 0 ∧
       u.on .ALERT_EVENT_StateEntered = true ∧ u.rd .EPOCH_STATUS_Epoch = 0 ∧ u.alarm.held = [] ∧ u.power.wdogFrom = s.xt ∧
       u.rd (.RING_STATE_State 8) = 1 ∧ u.rd (.RING_STATE_State 11) = 1 ∧ u.rd (.RING_STATE_State 12) = 1) ∧
     (¬ ready → stays .release))

/-- R44, R86, R359, R426, R474 – R480, R484 – R487, R498: SET_STATE, the moves between the power states, the wakes, the watchdog's warning, the junction
temperature and the supplies. Where two requests meet, the second is BUSY.
The model's choices in it: logs 4, 79, 80, 85, 86, 87, 125. -/
def Obligations.PowerMoves : Prop :=
  ∀ (s : State),
    let tr := s.power.trans
    (∀ (p : Fin 9) (tag target : Byte), s.Takes p 8 tag →
      let u := s.taken p 8 tag 0 (BitVec.ofNat 32 target.toNat)
      let dest := target.toNat % 8
      let now := fun (st data : Nat) => exec (.setState p tag target) s = .next (u.done p 8 tag 0 st data 0)
      let free := tr = none ∧ 2 ≤ dest ∧ dest ≤ 5 ∧ s.rd .PWR_STATE_State ≠ 1
      (tr ≠ none → now stBusy 0) ∧ (tr = none → dest < 2 ∨ 5 < dest → now stInvalid 0) ∧
      (tr = none → 2 ≤ dest → dest ≤ 5 → s.rd .PWR_STATE_State = 1 → now stState 0) ∧
      (free → dest = s.rd .PWR_STATE_State → now stOk dest) ∧
      (free → dest ≠ s.rd .PWR_STATE_State → dest = 5 → s.maySuspend = false → now stState 0) ∧
      (free → dest ≠ s.rd .PWR_STATE_State → dest ≠ 5 ∨ s.maySuspend = true → Does (.setState p tag target) s fun t =>
        t.power.trans = some (s.rd .PWR_STATE_State, dest) ∧ t.power.setBy = [(p.val, tag)] ∧ t.rd .PWR_STATE_Transit = 1 ∧
        t.rd .PWR_STATE_State = s.rd .PWR_STATE_State ∧ (s.rd .PWR_STATE_State = 3 → dest = 2 → t.power.wakeAt = some s.xt ∧ t.rd .WAKE_STATUS_Cause = 4))) ∧
    (∀ dest, tr = some (4, dest) → dest = 2 ∨ dest = 3 → s.loopsReady dest = true → dest = 3 ∨ s.dramReady = true → s.power.setBy = [] →
      Does .stateEntryComplete s fun t => t.rd .PWR_STATE_State = dest ∧ t.rd .PWR_STATE_Transit = 0 ∧ t.on .ALERT_EVENT_StateEntered = true ∧
        t.power.trans = none ∧ t.power.wdogFrom = s.xt ∧ t.power.wdogWarned = false ∧ t.aux.running = true ∧ t.alarmed 0x0705 4 dest) ∧
    (∀ dest, tr = some (4, dest) → dest = 2 ∨ dest = 3 → s.loopsReady dest = false ∨ (dest = 2 ∧ s.dramReady = false) → exec .stateEntryComplete s = .next s) ∧
    (∀ from_ dest, tr = some (from_, dest) → from_ = 2 ∨ (from_ = 3 ∧ dest ≠ 2) →
      let v := s.settleMove
      let sent := v.linksEmpty (fun (_ : Nat) => true) = true ∨ s.due (s.power.transFrom + 5000000) = true
      (s.allQuiet = false → exec .stateEntryComplete s = .next s) ∧
      (s.allQuiet = true → dest = 3 → Does .stateEntryComplete s fun t => t.rd .PWR_STATE_State = 3 ∧ t.rd .PWR_STATE_Transit = 0 ∧
        t.power.trans = none ∧ t.power.sentinelAt = s.xt ∧ (∀ k : Fin 6, k.val ≠ 4 → (t.loops.get k).running = false)) ∧
      (s.allQuiet = true → dest ≠ 3 → ¬ sent → exec .stateEntryComplete s = .next v ∧ v.power.settled = true) ∧
      (s.allQuiet = true → dest = 4 → sent → Does .stateEntryComplete s fun t => t.rd .PWR_STATE_State = 4 ∧ t.rd .PWR_STATE_Transit = 0 ∧
        t.power.trans = none ∧ t.power.quietFrom = s.xt ∧ (∀ k : Fin 6, (t.loops.get k).running = false) ∧ ∀ z : Fin 8, t.rd (.ZONE_OUT_Code z) = 2621)) ∧
    (∀ from_, tr = some (from_, 5) → (from_ = 4 ∨ ((from_ = 2 ∨ from_ = 3) ∧ s.allQuiet = true ∧
        (s.settleMove.linksEmpty (fun (_ : Nat) => true) = true ∨ s.due (s.power.transFrom + 5000000) = true))) →
      Does .stateEntryComplete s fun t => t.xtal.running = false ∧ t.power.suspFrom = s.xtal.aonNow ∧ t.now48 = s.now48 ∧
        (s.power.wakeLatch = false → t.rd .PWR_STATE_State = 5 ∧ t.rd .PWR_STATE_Transit = 0 ∧ t.power.trans = none) ∧
        (s.power.wakeLatch = true → t.rd .PWR_STATE_State = 0 ∧ t.rd .PWR_STATE_Transit = 1)) ∧
    (tr = none ∨ (∃ dest, tr = some (5, dest)) ∨ tr = some (3, 2) → exec .stateEntryComplete s = .next s) ∧
    (∀ t0, s.power.wakeAt = some t0 →
      let falls := s.due (t0 + s.watchLead) = true ∧ s.dramReady = true ∧ s.locked 1 = true
      (falls → Does .wakeEpochBoundary s fun t => t.power.wakeAt = none ∧ t.rd .PWR_STATE_State = 2 ∧ t.power.trans = none ∧ t.power.marked = [] ∧
        t.rd .EPOCH_STATUS_Epoch = (s.curEpoch + 1) % 65536) ∧
      (¬ falls → exec .wakeEpochBoundary s = .next s)) ∧
    (s.power.wakeAt = none → exec .wakeEpochBoundary s = .next s) ∧
    (let wakes := fun (c : Instr) =>
       (tr = none → s.rd .PWR_STATE_State = 5 → Does c s fun t => t.rd .PWR_STATE_State = 0 ∧ t.rd .PWR_STATE_Transit = 1 ∧
         t.power.trans = some (5, if s.on .SUSP_CFG_WakeTo = true then 3 else 2) ∧ (s.power.held = false → t.power.begun = 2)) ∧
       (∀ from_, tr = some (from_, 5) → Does c s fun t => t.power = { s.power with wakeLatch := true } ∧ s.keeps t [.power]) ∧
       (tr = none → s.rd .PWR_STATE_State ≠ 5 → exec c s = .next s)
     let armed := fun (cs level : Bool) => if cs then s.on .SUSP_CFG_CsWake = true
       else s.on .SUSP_CFG_PinWake = true ∧ (level = true ↔ s.on .WATCH_CTRL_PinFall = false)
     (∀ cs level, armed cs level → wakes (.suspendWake cs level)) ∧ (∀ cs level, ¬ armed cs level → exec (.suspendWake cs level) s = .next s) ∧
     (let due_ := s.rd .PWR_STATE_State = 5 ∧ s.rd .SUSP_TIMER_Seconds ≠ 0 ∧
        s.power.suspFrom + s.rd .SUSP_TIMER_Seconds * 1000000000 < s.xtal.aonNow + 25
      (due_ → wakes .suspTimerExpiry) ∧ (¬ due_ → exec .suspTimerExpiry s = .next s))) ∧
    (∀ dest, tr = some (5, dest) → dest = 2 ∨ dest = 3 → s.power.setBy = [] →
      let able := s.stageDone 9 = true ∧ s.dramReady = true ∧ s.locked 1 = true
      let kept := s.memMode ≠ 3 ∧ s.modeOf = s.memMode ∧ s.power.saved = some s.mem.lost
      let whole := kept ∧ s.restoreStores.2 = []
      (able → whole ∨ s.sameFlash ≠ none → Does .suspendExitDone s fun t => t.rd .PWR_STATE_State = dest ∧ t.rd .PWR_STATE_Transit = 0 ∧
        t.power.trans = none ∧ t.power.leftAt = s.xt ∧ (dest = 3 → t.power.sentinelAt = s.xt)) ∧
      (able → ¬ whole → s.sameFlash = none → Does .suspendExitDone s fun t =>
        t.rd .RESET_CAUSE_Last = 9 ∧ t.rd .PWR_STATE_State = 0) ∧
      (¬ able → exec .suspendExitDone s = .next s)) ∧
    ((∀ dest, tr ≠ some (5, dest)) → exec .suspendExitDone s = .next s) ∧
    (let due_ := s.rd .PWR_STATE_State = 2 ∧ tr = none ∧ s.power.marked ≠ [] ∧ s.due (s.power.leftAt + 3000000) = true ∧ s.locked 1 = true
     (due_ → Does .markedRestart s fun t => t.power.marked = [] ∧ t.rd .PWR_STATE_State = 2 ∧
       (s.isMarked 3 0 = true → t.ctl.stopped = false) ∧ (∀ e : Fin 8, s.isMarked 4 e = true → (t.ep e).stopped = false)) ∧
     (¬ due_ → exec .markedRestart s = .next s)) ∧
    (let warns := s.wdogRuns = true ∧ s.power.wdogWarned = false ∧ s.due (s.power.wdogFrom + s.rd .SYS_WDOG_Period * 500000) = true
     (warns → Does .wdogWarn s fun t => t.power = { s.power with wdogWarned := true } ∧ t.alarmed 0x0707 (s.rd .SYS_WDOG_Period) 0) ∧
     (¬ warns → exec .wdogWarn s = .next s)) ∧
    (∀ temp : BitVec 16,
      let c := Instr.dieTempUpdate temp
      let hot := temp.toInt > (s.rd .DIE_TEMP_TjWarn : Int) * 64
      (s.rd .PWR_STATE_State = 5 → exec c s = .next s) ∧
      (s.rd .PWR_STATE_State ≠ 5 → s.power.tempHold = true → Does c s fun t => t.rd .DIE_TEMP_Temp = temp.toNat ∧
        t.power.tempHold = decide (115 * 64 ≤ temp.toInt)) ∧
      (s.rd .PWR_STATE_State ≠ 5 → s.power.tempHold = false → s.xtal.running = false → Does c s fun t => t.rd .DIE_TEMP_Temp = temp.toNat ∧
        s.keeps t [.regs] ∧ s.keepsRegs t [Fld.DIE_TEMP_Temp.addr]) ∧
      (s.rd .PWR_STATE_State ≠ 5 → s.power.tempHold = false → s.xtal.running = true →
        Leads c s (fun u => if s.power.released = true then u.calTemp else u) fun u => u.rd .DIE_TEMP_Temp = temp.toNat ∧
          u.power = { s.power with hot := decide hot } ∧ (hot → s.power.hot = false → u.alarmed 0x0706 (ofS 32 (temp.toInt / 64)) 0) ∧
          (¬ hot ∨ s.power.hot = true → s.keeps u [.regs, .power] ∧ s.keepsRegs u [Fld.DIE_TEMP_Temp.addr]))) ∧
    (∀ (rail : Fin 9) (level : Nat),
      let entry := fun (t : State) => t.power.rails.find? fun (r : RailSt) => r.rail == rail.val
      let others := fun (t : State) => t.power.rails.filter (fun (r : RailSt) => r.rail != rail.val) = s.power.rails.filter fun (r : RailSt) => r.rail != rail.val
      let blind := s.rd .PWR_STATE_State = 5 ∧ rail.val < 7
      let warn := 10 * s.rd .SUPPLY_CFG_WarnPct
      let c := Instr.railBelowWarning rail level
      let warns := Does c s fun t => entry t = some ⟨rail, s.xt, level, none⟩ ∧ others t ∧ t.ctl.supplyHold = true ∧ (∀ e : Fin 8, (t.ep e).diags = []) ∧
        t.rd .SUPPLY_STATUS_Warn = setBit (s.rd .SUPPLY_STATUS_Warn) rail true ∧ t.rd .SUPPLY_STATUS_Seen = setBit (s.rd .SUPPLY_STATUS_Seen) rail true ∧
        (s.power.held = false → t.alarmed 0x0703 rail level)
      (blind → exec c s = .next s) ∧ (¬ blind → 80 < level → exec c s = exec (.railBelowReset ⟨rail, level⟩) s) ∧
      (¬ blind → warn < level → level ≤ 80 → entry s = none → warns) ∧
      (∀ r, ¬ blind → level ≤ 80 → entry s = some r →
        (∀ x0, warn < level → r.above = some x0 → warns) ∧
        (warn < level → r.above = none → Does c s fun t => s.keeps t [.power] ∧ entry t = some { r with lowest := max r.lowest level } ∧ others t ∧
          t.power = { s.power with rails := t.power.rails }) ∧
        (level + 10 ≤ warn → r.above = none → Does c s fun t => entry t = some { r with above := some s.xt } ∧ others t ∧
          t.power = { s.power with rails := t.power.rails, warnSpans := ((r.from_, s.xt) :: s.power.warnSpans).take 64 } ∧
          t.rd .SUPPLY_STATUS_Warn = setBit (s.rd .SUPPLY_STATUS_Warn) rail false ∧ s.keeps t [.regs, .power] ∧ s.keepsRegs t [Fld.SUPPLY_STATUS_Warn.addr]) ∧
        (level ≤ warn → warn < level + 10 ∨ r.above ≠ none → exec c s = .next s)) ∧
      (¬ blind → level ≤ 80 → level ≤ warn → entry s = none → exec c s = .next s) ∧
      (entry s = none → exec (.supplyOk rail) s = .next s) ∧
      (∀ r, entry s = some r →
        let back := match r.above with | some x0 => x0 | none => s.xt - 1000000
        (back < r.from_ ∨ s.due (back + 1000000) = false → exec (.supplyOk rail) s = .next s) ∧
        (r.from_ ≤ back → s.due (back + 1000000) = true → Does (.supplyOk rail) s fun t =>
          t.power.rails = s.power.rails.filter (fun (r : RailSt) => r.rail != rail.val) ∧
          t.rd .SUPPLY_STATUS_Warn = setBit (s.rd .SUPPLY_STATUS_Warn) rail false ∧
          (s.power.held = false → t.alarmed 0x0704 rail (min ((back - r.from_) / 1000000) (2 ^ 32 - 1))))))

/-! Calibration -/

/-- R101, R516, R517, R519 – R523, R536: CAL_CMD and the interval make passes and lanes due; a pass takes one slice a gap, is forced at a boundary after its wait,
and its results are discarded, refused until one Interval or 60 s later, or taken. Which of the four rows names a write of CAL_CMD does not matter.
The model's choices in it: logs 4, 115, 143. -/
def Obligations.CalibrationPasses : Prop :=
  ∀ (s : State),
    let fell := fun (x : PassCal) (cmd : Bool) =>
      { x with item := { x.item with due := true, since := s.xt, retry := none, cmd := cmd }, slices := 0, stepShot := none, forced := false, waited := false }
    let wait := if s.rd .CAL_CFG_Interval = 0 then 60000000000 else s.rd .CAL_CFG_Interval * 60000000000
    let ripe := fun (x : CalSt) => (∃ t0, x.retry = some t0 ∧ s.due t0 = true) ∨
      (x.retry = none ∧ ∃ t0, x.at_ = some t0 ∧ s.rd .CAL_CFG_Interval ≠ 0 ∧ s.due (t0 + s.rd .CAL_CFG_Interval * 60000000000) = true)
    (∀ (p : Fin 9) (tag : Byte) (v : Word), s.Takes p 2 tag → s.gated 0x710004 true = false →
      ∀ c ∈ [Instr.calCmdCoherent p tag v, .calCmdRaman p tag v, .calCmdTdc p tag v, .calCmdThresh p tag v],
        Answers c s p (mkResp 2 tag 0x710004 0 0 0 0) fun u => s.keepsTaken u p [.regs, .cal, .lidar] ∧ s.keepsRegs u [Fld.CAL_STATUS_Waiting.addr] ∧
          u.rd .CAL_STATUS_Failures = s.rd .CAL_STATUS_Failures ∧
          (∀ q : Fin 4, u.calOf q false = (if v.getLsbD q = true ∧ (s.calOf q false).item.due = false then fell (s.calOf q false) true else s.calOf q false) ∧
            u.calOf q true = (if v.getLsbD (4 + q) = true ∧ (s.calOf q true).item.due = false then fell (s.calOf q true) true else s.calOf q true)) ∧
          (∀ l : Fin 266, (v.getLsbD 8 = false ∨ s.on (.LANE_CFG_Enable l) = false → (u.lane l).tdc = (s.lane l).tdc ∧ (u.lane l).count = (s.lane l).count) ∧
            (v.getLsbD 9 = false ∨ s.on (.LANE_CFG_Enable l) = false → (u.lane l).thr = (s.lane l).thr) ∧
            (s.on (.LANE_CFG_Enable l) = true →
              (v.getLsbD 8 = true → (u.lane l).tdc.due = true ∧ (u.lane l).tdc.cmd = true ∧
                ((s.lane l).tdc.due = false → (u.lane l).tdc.since = s.xt ∧ (u.lane l).count = 0) ∧
                ((s.lane l).tdc.due = true → (u.lane l).tdc.since = (s.lane l).tdc.since ∧ (u.lane l).count = (s.lane l).count)) ∧
              (v.getLsbD 9 = true → (u.lane l).thr.due = true ∧ (u.lane l).thr.cmd = true ∧
                (u.lane l).thr.since = if (s.lane l).thr.due then (s.lane l).thr.since else s.xt)))) ∧
    (∀ (item : Fin 5) (unit : Fin 266),
      let c := Instr.calIntervalExpiry item unit
      let pulses := (s.lane unit).ready = none ∧ (s.lane unit).pulse = none ∧ (s.lane unit).trim = none ∧ s.rd .CAL_CFG_TdcSrc = 1 ∧ s.locked 3 = true ∧ s.blankingFits 1280000 0 = true
      (item.val = 0 → exec c s = .next s) ∧
      (∀ raman : Bool, item.val = (if raman then 2 else 1) →
        (4 ≤ unit.val → exec c s = .next s) ∧
        (∀ q : Fin 4, unit.val = q.val → (¬ ripe (s.calOf q raman).item → exec c s = .next s) ∧
          (ripe (s.calOf q raman).item → (s.calOf q raman).item.due = false → Does c s fun t => t.calOf q raman = fell (s.calOf q raman) false ∧
            t.calOf q (!raman) = s.calOf q (!raman) ∧ (∀ r, r ≠ q → t.cal.get r = s.cal.get r) ∧ s.keeps t [.regs, .cal] ∧
            s.keepsRegs t [Fld.CAL_STATUS_Waiting.addr]))) ∧
      (item.val = 3 →
        let y := s.lane unit
        (s.on (.LANE_CFG_Enable unit) = false ∨ ¬ ripe y.tdc → exec c s = .next s) ∧
        (s.on (.LANE_CFG_Enable unit) = true → ripe y.tdc → y.tdc.due = false → Does c s fun t => s.keeps t [.lidar] ∧
          (let z := { y with tdc := { y.tdc with due := true, since := s.xt, retry := none, cmd := false }, count := 0, countFrom := s.xt, inner := false }
           (¬ pulses → t.lane unit = z) ∧ (pulses → t.lane unit = { z with pulse := some s.xu, blind := some (s.xu, 2 ^ 80) })) ∧
          ∀ l : Fin 266, l ≠ unit → t.lane l = s.lane l)) ∧
      (item.val = 4 →
        let y := s.lane unit
        (s.on (.LANE_CFG_Enable unit) = false ∨ ¬ ripe y.thr → exec c s = .next s) ∧
        (s.on (.LANE_CFG_Enable unit) = true → ripe y.thr → y.thr.due = false → Does c s fun t => s.keeps t [.lidar] ∧
          t.lane unit = { y with thr := { y.thr with due := true, since := s.xt, retry := none, cmd := false } } ∧
          ∀ l : Fin 266, l ≠ unit → t.lane l = s.lane l))) ∧
    (∀ (p : Fin 4) (raman : Bool),
      let x := s.calOf p raman
      let n := (calSlices raman).length
      let which := if raman then 2 else 1
      let busy := s.calBusy p raman = true
      let others := fun (t : State) => t.calOf p (!raman) = s.calOf p (!raman) ∧ (∀ r, r ≠ p → t.cal.get r = s.cal.get r) ∧ s.otherPorts t p
      let starts := x.item.due = true ∧ x.forced = false ∧ x.slices < n ∧ x.stepEnd ≤ s.xt ∧ s.calPowered p raman = true ∧ s.sampling = true ∧
        s.locked 1 = true ∧ (busy → (if raman then s.inGap p else s.inTail p) = true ∧ x.stepShot ≠ s.gapId p raman)
      (starts → Does (.calStepStart p raman) s fun t => others t ∧ s.keeps t [.regs, .cal, .ports] ∧ s.keepsRegs t [Fld.CAL_STATUS_Running.addr] ∧
        bit (t.rd .CAL_STATUS_Running) p = true ∧ (t.feOf p).spans.head? = some ((if raman then 4 else 0) + x.slices, s.xt, s.xt + 48000) ∧
        (t.calOf p raman).item = { x.item with running := true } ∧ (t.calOf p raman).slices = x.slices + 1 ∧ (t.calOf p raman).stepEnd = s.xt + 48000 ∧
        (t.calOf p raman).stepShot = (if s.calBusy p raman then s.gapId p raman else none) ∧
        (t.calOf p raman).from_ = if x.item.running then x.from_ else s.xt) ∧
      (¬ starts → exec (.calStepStart p raman) s = .next s) ∧
      (let since := if x.item.running then max x.item.since x.stepEnd else x.item.since
       let late_ := x.item.due = true ∧ x.slices < n ∧ x.forced = false ∧ s.rd .CAL_CFG_ForceAfter ≠ 0 ∧ s.calNoGap p raman = true ∧
         s.due (since + s.rd .CAL_CFG_ForceAfter * 1000000000) = true
       (late_ → Does (.calForceTimeout p raman) s fun t => t.calOf p raman = { x with forced := true } ∧ others t ∧ s.keeps t [.cal]) ∧
       (¬ late_ → exec (.calForceTimeout p raman) s = .next s)) ∧
      (∀ at_ switched,
        let u := s.calBoundary1 p raman at_ switched
        let first := if x.item.running then max at_ x.stepEnd else at_
        let runs := x.item.due = true ∧ x.slices < n ∧ s.calPowered p raman = true ∧ (x.forced = true ∨ (switched = true ∧ x.waited = true))
        (¬ runs → u = s) ∧
        (runs → (u.calOf p raman).slices = n ∧ (u.calOf p raman).stepEnd = first + 48000 * (n - x.slices) ∧ (u.calOf p raman).forced = false ∧
          (u.calOf p raman).waited = false ∧ (u.calOf p raman).item = { x.item with running := true } ∧
          (∃ old, (u.feOf p).spans = passSpans raman x.slices first ++ old) ∧ (x.forced = true → u.alarmed 0x0802 which p) ∧
          (x.forced = false → u.alarm = s.alarm))) ∧
      (∀ res,
        let c := Instr.calPassDone p raman res
        let ends := x.item.running = true ∧ x.slices = n ∧ res.length = n ∧ s.due x.stepEnd = true
        let warned := s.supplyFlag x.from_ s.xt ≠ 0
        let rests := fun (t : State) => (t.calOf p raman).slices = 0 ∧ (t.calOf p raman).forced = false ∧ (t.calOf p raman).waited = false ∧ (t.calOf p raman).item.running = false ∧ others t
        (¬ ends → exec c s = .next s) ∧
        (ends → warned → Does c s fun t => rests t ∧ (t.calOf p raman).item.due = x.item.due ∧ t.ports = s.ports ∧ s.keeps t [.regs, .cal]) ∧
        (ends → ¬ warned → (∃ y ∈ res, calOk raman y = false) → Does c s fun t => rests t ∧ (t.calOf p raman).item.due = false ∧ t.ports = s.ports ∧
          (t.calOf p raman).item.retry = some (s.xt + wait) ∧ t.alarmed 0x0801 which p ∧
          t.rd .CAL_STATUS_Failures = min (s.rd .CAL_STATUS_Failures + 1) 65535) ∧
        (ends → ¬ warned → (∀ y ∈ res, calOk raman y = true) → Does c s fun t => rests t ∧ s.keeps t [.regs, .cal, .ports] ∧
          (t.calOf p raman).item = { x.item with due := false, running := false, at_ := some s.xt, temp := s.rdS .DIE_TEMP_Temp, retry := none, cmd := false } ∧
          t.rd .CAL_STATUS_Failures = s.rd .CAL_STATUS_Failures ∧
          (s.launches p = true → ∀ j y, res[j]? = some y → ((if raman then 4 else 0) + j, CalResult.trim raman y) ∈ (t.feOf p).calNext) ∧
          (s.launches p = false → (t.feOf p).calNext = [] ∧
            ∀ j y, res[j]? = some y → (t.feOf p).fore.get (fin 5 ((if raman then 4 else 0) + j)) = (y.off, y.gain)))))

/-- R213, R222, R516, R519, R524 – R526: a lane's edges give a table that loads in the last 2 µs of a blanking, for which the lane is blind, and takes effect at the
frame boundary; one that finds no blanking for 1 s loads at a frame sync; a lane short of edges turns to the internal pulses, under which it is blind; a
threshold trim takes 20 µs of a blanking, and an idle tick or a frame sync behind its end puts what it found in force.
The model's choices in it: logs 4, 18, 65, 68, 126. -/
def Obligations.LaneCalibration : Prop :=
  ∀ (s : State) (l : Fin 266),
    let y := s.lane l
    let wait := if s.rd .CAL_CFG_Interval = 0 then 60000000000 else s.rd .CAL_CFG_Interval * 60000000000
    let taken := fun (c : CalSt) => { c with due := false, running := false, at_ := some s.xt, temp := s.rdS .DIE_TEMP_Temp, retry := none, cmd := false }
    let others := fun (t : State) => ∀ k : Fin 266, k ≠ l → t.lane k = s.lane k
    let z := match y.pulse with
      | none => y
      | some a => { y with pulse := none, count := min (2 ^ 18) (y.count + (s.xu - a) / 640), blind := some (a, s.xu),
                           hold := if a < s.xu then some s.xu else y.hold }
    (∀ widths,
      let c := Instr.tdcTableReady l widths
      let full := y.tdc.due = true ∧ y.ready = none ∧ 2 ^ 18 ≤ z.count
      let warned := s.supplyFlag y.countFrom s.xt ≠ 0
      let sum := widths.foldl (fun (a b : Nat) => a + b) 0
      let good := (∀ w ∈ widths, 64 ≤ w ∧ w ≤ 1024) ∧ 32768 * 98 ≤ sum * 100 ∧ sum * 100 ≤ 32768 * 102
      (¬ full → exec c s = .next s) ∧
      (full → warned → Does c s fun t => t.lane l = { z with count := 0, countFrom := s.xt } ∧ others t ∧ s.keeps t [.lidar]) ∧
      (full → ¬ warned → good → Does c s fun t => t.lane l = { z with ready := some widths, readyAt := s.xt } ∧ others t ∧ s.keeps t [.lidar]) ∧
      (full → ¬ warned → ¬ good → Does c s fun t => (t.lane l).tdc.due = false ∧ (t.lane l).count = 0 ∧ (t.lane l).table = y.table ∧ others t ∧
        (t.lane l).tdc.retry = some (s.xt + wait) ∧ t.alarmed 0x0801 3 l ∧
        t.rd .CAL_STATUS_Failures = min (s.rd .CAL_STATUS_Failures + 1) 65535)) ∧
    (let turns := y.tdc.due = true ∧ y.inner = false ∧ s.rd .CAL_CFG_TdcSrc = 2 ∧ y.count < 2 ^ 18 ∧ s.due (y.countFrom + 10000000000) = true
     let pulses := y.ready = none ∧ y.pulse = none ∧ y.trim = none ∧ s.locked 3 = true ∧ s.blankingFits 1280000 0 = true
     (turns → Does (.tdcSourceSwitch l) s fun t => others t ∧ s.keeps t [.lidar] ∧ (¬ pulses → t.lane l = { y with inner := true, count := 0 }) ∧
       (pulses → t.lane l = { y with inner := true, count := 0, pulse := some s.xu, blind := some (s.xu, 2 ^ 80) })) ∧
     (¬ turns → exec (.tdcSourceSwitch l) s = .next s)) ∧
    (∀ t0, s.nextSync = some t0 →
      let loads := y.ready.isSome = true ∧ y.loadAt = none ∧ y.thr.due = false ∧ y.stepped ≠ s.ctl.blankNo ∧ s.on .EMT_STATUS_InFrame = false ∧
        s.ctl.blankFrom + 256000 ≤ t0 ∧ s.dueU (t0 - 256000) = true ∧ s.xu < t0 ∧ s.locked 3 = true
      (loads → Does (.tdcTableLoad l) s fun t => s.keeps t [.lidar] ∧ others t ∧
        t.lane l = { y with loadAt := some t0, stepped := s.ctl.blankNo, blind := some (t0 - 256000, t0), hold := some t0 }) ∧
      (¬ loads → exec (.tdcTableLoad l) s = .next s)) ∧
    (s.nextSync = none → exec (.tdcTableLoad l) s = .next s) ∧
    (∀ ws t0 s0, y.ready = some ws → y.trim = none → y.pulse = none → s.lidarRuns = true → s.frameDue = some (t0, s0) →
      let blanking := if s.on .EMT_STATUS_InFrame = true then s.ctl.blankNo + 1 else s.ctl.blankNo
      (∀ t1, y.loadAt = some t1 → t1 ≤ t0 → Does .frameSync s fun t =>
        t.lane l = { y with ready := none, loadAt := none, table := ws, count := 0, tdc := taken y.tdc, stepAt := some t1 }) ∧
      (y.loadAt = none → y.readyAt + 1000000000 ≤ s.xt → y.stepped ≠ blanking → Does .frameSync s fun t =>
        t.lane l = { y with ready := none, table := ws, count := 0, tdc := taken y.tdc, stepAt := some t0, stepped := blanking,
                            blind := some (t0, t0 + 256000), hold := some (t0 + 256000) }) ∧
      (y.loadAt = none → s.xt < y.readyAt + 1000000000 → Does .frameSync s fun t => t.lane l = y)) ∧
    (∀ steps,
      let c := Instr.thresholdTrim l steps
      let firing := ∃ n, s.laneOwner l = some n ∧ (s.portIdle (fin 7 n) = false ∨ s.isoMay (fin 7 n) = true ∨ ∃ k : Fin 16, s.diagMay (fin 7 n) k = true)
      let port := fun (k : Nat) => if k < 256 then k / 16 else if k < 264 then 16 else 17
      let shared := ∃ q ∈ s.lidar.lanes, port q.1 = port l ∧ q.2.trim.isSome = true
      let scanning := 264 ≤ l.val ∧ s.on (.SCAN_STATUS_Locked (l.val - 264)) = true ∧ y.thr.cmd = false
      let runs := y.thr.due = true ∧ y.stepped ≠ s.ctl.blankNo ∧ ¬ firing ∧ ¬ shared ∧ ¬ scanning ∧ s.locked 3 = true ∧
        s.blankingFits 2560000 3584000 = true
      (¬ runs → exec c s = .next s) ∧
      (runs → Does c s fun t => s.keeps t [.lidar] ∧ others t ∧
        t.lane l = { z with trim := some (s.xu, s.xu + 2560000, steps), stepped := s.ctl.blankNo, blind := some (s.xu, s.xu + 2560000),
                            hold := some (s.xu + 2560000) })) ∧
    (∀ a b steps x, y.trim = some (a, b, steps) → y.loadAt = none →
      let u := s.settleLane l x
      let warned := s.supplyFlag (a / 128) (b / 128) ≠ 0
      (x < b → u = s) ∧
      (b ≤ x → warned → u.lane l = { y with trim := none } ∧ others u ∧ s.keeps u [.lidar]) ∧
      (b ≤ x → ¬ warned → -128 < steps → steps < 127 → u.rdS (.LANE_TRIM_ThrTrim l) = steps ∧ u.lane l = { y with trim := none, thr := taken y.thr } ∧ others u ∧
        s.keeps u [.regs, .lidar] ∧ s.keepsRegs u [(Fld.LANE_TRIM_ThrTrim l).addr]) ∧
      (b ≤ x → ¬ warned → steps ≤ -128 ∨ 127 ≤ steps → (u.lane l).thr.due = false ∧ (u.lane l).thr.retry = some (s.xt + wait) ∧ u.alarmed 0x0801 4 l ∧
        u.rd (.LANE_TRIM_ThrTrim l) = s.rd (.LANE_TRIM_ThrTrim l) ∧ u.rd .CAL_STATUS_Failures = min (s.rd .CAL_STATUS_Failures + 1) 65535))

/-! The block -/

/-- R439, R440, R445, R450, R503: requests wait first in, first out; a step runs the command at the front on the state with the queue's rest, and on an empty queue one crystal tick
passes (model's choice: log 1, log 2). -/
def Obligations.StepTakesTheFront : Prop :=
  ∀ (s : State),
    (∀ (c : Instr) (rest : List Instr), s.pending = c :: rest → step s = exec c { s with pending := rest }) ∧
    (s.pending = [] → step s = .next s.idle) ∧
    (s.xtal.running = true → s.tick.xt = s.xt + 25 ∧ s.tick.time.lam48 = s.time.lam48 + (incOf s.time.corr).toNat ∧
      s.tick.time.sig48 + s.tick.time.slewLeft = s.time.sig48 + s.time.slewLeft) ∧
    (s.xtal.running = false → s.tick.time = s.time ∧ s.tick.regs = s.regs) ∧
    s.tick.xtal = { s.xtal with aonNow := s.xtal.aonNow + 25 }

/-- R18, R43, R380, R441, R458, R481, R504: what a power-on reset leaves: every register but RESET_CAUSE at the value its table gives, device time at 0, every
queue empty, no loop running, no consumer released. RESET_N is still low (model's choice: log 6). -/
def Obligations.ResetState : Prop :=
  let s := State.reset
  s.pending = [] ∧ (∀ a, a ≠ Fld.RESET_CAUSE_Last.addr → rfWord s.regs a = resetWord a) ∧ s.rd .RESET_CAUSE_Last = 1 ∧ s.rd .RESET_CAUSE_Previous = 0 ∧
  s.rd .PWR_STATE_State = 0 ∧ s.rd .PWR_STATE_Stage = 1 ∧ s.rd .TIME_STATE_State = 0 ∧ s.rd .IMAGE_STATUS_Source = 3 ∧
  s.rd .IMAGE_STATUS_ResultA = 15 ∧ s.rd .DIE_TEMP_TjWarn = 105 ∧ s.rd .CAL_CFG_Interval = 60 ∧ s.rd .CAL_CFG_ForceAfter = 10 ∧
  s.now = 0 ∧ s.xt = 0 ∧ (∀ k : Fin 6, (s.loops.get k).running = false) ∧ s.xtal.running = false ∧ s.power.released = false ∧ s.power.stages = 0 ∧
  (∀ p : Fin 9, (s.host.paths.get p).out = []) ∧ s.host.respQ = [] ∧ s.host.inQ = [] ∧ s.epoch.pend = [] ∧ s.epoch.sched = none ∧
  (∀ r : Fin 16, s.rd (.RING_STATE_State r) = 0 ∧ s.ringEmpty r = true) ∧ (∀ x : Fin 8, (s.links.get x).lock = false ∧ (s.links.get x).queue = []) ∧
  s.alarm.log = [] ∧ (∀ n : Fin 16, s.rd (.CORE_STATUS_State n) = 0) ∧ (∀ p : Fin 4, (s.probeOf p).running = false) ∧
  s.regsWf = true ∧ s.memWf = true ∧ s.flashWf = true ∧ s.hostWf ∧ s.alarmWf

/-- R18, R341, R399, R401, R497, R504: every step answers a next state and takes exactly the command at the front of the queue; from every state whose register file, stored
words and flash are in canonical form, whose paths hold at most eight outstanding commands, whose MGMT queue holds at most 16 responses, whose retention log holds at
most 64 occurrences and whose window tracks at most 512 codes, it gives such a state. -/
def Obligations.InvariantKept : Prop :=
  ∀ (s : State), ∃ t, step s = .next t ∧ t.pending = s.pending.tail ∧
    (s.regsWf = true → s.memWf = true → s.flashWf = true → s.hostWf → s.alarmWf →
      t.regsWf = true ∧ t.memWf = true ∧ t.flashWf = true ∧ t.hostWf ∧ t.alarmWf)
end

