-- ==== Sys2Proof/Laws/Sparse.lean ====
section
/-! SUPPORT. Laws of plain data by key: a read after a write, and the canonical form. -/
namespace Sys2Proof.Machine

variable {α : Type}

theorem spGet_spErase (d : Nat → α) (m : Sparse α) (a b : Nat) :
    spGet d (spErase a m) b = if b = a then d a else spGet d m b := by
  induction m with
  | nil => by_cases h : b = a <;> simp [spErase, spGet, h]
  | cons x m ih =>
    obtain ⟨k, w⟩ := x
    by_cases h : a = k <;> by_cases h' : b = a <;> by_cases h'' : b = k <;> simp_all [spErase, spGet]

theorem spGet_spIns (d : Nat → α) (m : Sparse α) (a b : Nat) (v : α) :
    spGet d (spIns a v m) b = if b = a then v else spGet d m b := by
  induction m with
  | nil => by_cases h : b = a <;> simp [spIns, spGet, h]
  | cons x m ih =>
    obtain ⟨k, w⟩ := x
    simp only [spIns]
    split
    · simp only [spGet]
    · split
      · subst_vars; simp only [spGet]; split <;> simp_all
      · simp only [spGet, ih]
        by_cases h' : b = a <;> by_cases h'' : b = k <;> simp_all

/-- Read after write: the written key gives the value, every other key what it gave before. -/
theorem spGet_spSet [DecidableEq α] (d : Nat → α) (m : Sparse α) (a b : Nat) (v : α) :
    spGet d (spSet d m a v) b = if b = a then v else spGet d m b := by
  unfold spSet
  split
  · rw [spGet_spErase]; split <;> simp_all
  · rw [spGet_spIns]

@[simp] theorem spGet_spSet_same [DecidableEq α] (d : Nat → α) (m : Sparse α) (a : Nat) (v : α) :
    spGet d (spSet d m a v) a = v := by simp [spGet_spSet]

theorem spGet_spSet_other [DecidableEq α] (d : Nat → α) (m : Sparse α) (a b : Nat) (v : α) (h : b ≠ a) :
    spGet d (spSet d m a v) b = spGet d m b := by simp [spGet_spSet, h]

/-- The keys of a list all lie above a bound. -/
def spAbove (k : Nat) (m : Sparse α) : Prop := ∀ x ∈ m, k < x.1

theorem spWf_cons [DecidableEq α] (d : Nat → α) (k : Nat) (w : α) (m : Sparse α) :
    spWf d ((k, w) :: m) = true ↔ w ≠ d k ∧ spAbove k m ∧ spWf d m = true := by
  induction m generalizing k w with
  | nil => simp [spWf, spAbove]
  | cons x m ih =>
    obtain ⟨j, u⟩ := x
    constructor
    · intro h
      simp only [spWf, Bool.and_eq_true, decide_eq_true_eq] at h
      refine ⟨h.1.2, ?_, h.2⟩
      have hj := (ih j u).1 h.2
      intro y hy
      rcases List.mem_cons.1 hy with rfl | hy
      · exact h.1.1
      · exact Nat.lt_trans h.1.1 (hj.2.1 y hy)
    · rintro ⟨h1, h2, h3⟩
      simp only [spWf, Bool.and_eq_true, decide_eq_true_eq]
      exact ⟨⟨h2 _ (List.mem_cons_self ..), h1⟩, h3⟩

@[simp] theorem spWf_nil [DecidableEq α] (d : Nat → α) : spWf d ([] : Sparse α) = true := rfl

theorem spAbove_spErase (k a : Nat) (m : Sparse α) (h : spAbove k m) : spAbove k (spErase a m) := by
  induction m with
  | nil => exact h
  | cons x m ih =>
    obtain ⟨j, u⟩ := x
    have hm : spAbove k m := fun y hy => h y (List.mem_cons_of_mem _ hy)
    simp only [spErase]
    split
    · exact ih hm
    · intro y hy
      rcases List.mem_cons.1 hy with rfl | hy
      · exact h _ (List.mem_cons_self ..)
      · exact ih hm y hy

theorem spAbove_spIns (k a : Nat) (v : α) (m : Sparse α) (h : spAbove k m) (ha : k < a) : spAbove k (spIns a v m) := by
  induction m with
  | nil => intro y hy; simp only [spIns, List.mem_singleton] at hy; subst hy; exact ha
  | cons x m ih =>
    obtain ⟨j, u⟩ := x
    have hm : spAbove k m := fun y hy => h y (List.mem_cons_of_mem _ hy)
    have hj : k < j := h (j, u) (List.mem_cons_self ..)
    simp only [spIns]
    split
    · intro y hy
      rcases List.mem_cons.1 hy with rfl | hy
      · exact ha
      · exact h y hy
    · split
      · intro y hy
        rcases List.mem_cons.1 hy with rfl | hy
        · exact ha
        · exact hm y hy
      · intro y hy
        rcases List.mem_cons.1 hy with rfl | hy
        · exact hj
        · exact ih hm y hy

theorem spWf_spErase [DecidableEq α] (d : Nat → α) (a : Nat) (m : Sparse α) (h : spWf d m = true) : spWf d (spErase a m) = true := by
  induction m with
  | nil => exact h
  | cons x m ih =>
    obtain ⟨j, u⟩ := x
    obtain ⟨h1, h2, h3⟩ := (spWf_cons d j u m).1 h
    simp only [spErase]
    split
    · exact ih h3
    · exact (spWf_cons d j u _).2 ⟨h1, spAbove_spErase j a m h2, ih h3⟩

theorem spWf_spIns [DecidableEq α] (d : Nat → α) (a : Nat) (v : α) (m : Sparse α) (hv : v ≠ d a) (h : spWf d m = true) :
    spWf d (spIns a v m) = true := by
  induction m with
  | nil => simpa [spIns, spWf] using hv
  | cons x m ih =>
    obtain ⟨j, u⟩ := x
    obtain ⟨h1, h2, h3⟩ := (spWf_cons d j u m).1 h
    simp only [spIns]
    split
    · rename_i hlt
      refine (spWf_cons d a v _).2 ⟨hv, ?_, h⟩
      intro y hy
      rcases List.mem_cons.1 hy with rfl | hy
      · exact hlt
      · exact Nat.lt_trans hlt (h2 y hy)
    · split
      · subst_vars; exact (spWf_cons d _ v m).2 ⟨hv, h2, h3⟩
      · rename_i h4 h5
        have : j < a := by omega
        exact (spWf_cons d j u _).2 ⟨h1, spAbove_spIns j a v m h2 this, ih h3⟩

/-- A write keeps the canonical form. -/
theorem spWf_spSet [DecidableEq α] (d : Nat → α) (m : Sparse α) (a : Nat) (v : α) (h : spWf d m = true) : spWf d (spSet d m a v) = true := by
  unfold spSet
  split
  · exact spWf_spErase d a m h
  · exact spWf_spIns d a v m (by assumption) h

theorem spWf_spSetRun [DecidableEq α] (d : Nat → α) (m : Sparse α) (a : Nat) (vs : List α) (h : spWf d m = true) :
    spWf d (spSetRun d m a vs) = true := by
  induction vs generalizing m a with
  | nil => exact h
  | cons v vs ih => exact ih _ _ (spWf_spSet d m a v h)

theorem spAbove_filter (k : Nat) (p : Nat × α → Bool) (m : Sparse α) (h : spAbove k m) : spAbove k (m.filter p) :=
  fun y hy => h y (List.mem_filter.1 hy).1

/-- Leaving out entries keeps the canonical form. -/
theorem spWf_filter [DecidableEq α] (d : Nat → α) (p : Nat × α → Bool) (m : Sparse α) (h : spWf d m = true) : spWf d (m.filter p) = true := by
  induction m with
  | nil => exact h
  | cons x m ih =>
    obtain ⟨j, u⟩ := x
    obtain ⟨h1, h2, h3⟩ := (spWf_cons d j u m).1 h
    by_cases hp : p (j, u) = true
    · rw [List.filter_cons_of_pos hp]
      exact (spWf_cons d j u _).2 ⟨h1, spAbove_filter j p m h2, ih h3⟩
    · rw [List.filter_cons_of_neg hp]
      exact ih h3

theorem spDrop_eq_filter (p : Nat → Bool) (m : Sparse α) : spDrop p m = m.filter fun x => !p x.1 := by
  induction m with
  | nil => rfl
  | cons x m ih =>
    obtain ⟨j, u⟩ := x
    by_cases hp : p j = true <;> simp [spDrop, List.filter, hp, ih]

theorem spWf_spDrop [DecidableEq α] (d : Nat → α) (p : Nat → Bool) (m : Sparse α) (h : spWf d m = true) : spWf d (spDrop p m) = true := by
  rw [spDrop_eq_filter]; exact spWf_filter d _ m h

/-- The canonical form under another default, where the entries that stay have the same default under both. -/
theorem spWf_congr [DecidableEq α] (d e : Nat → α) (m : Sparse α) (hde : ∀ x ∈ m, d x.1 = e x.1) (h : spWf d m = true) : spWf e m = true := by
  induction m with
  | nil => rfl
  | cons x m ih =>
    obtain ⟨j, u⟩ := x
    obtain ⟨h1, h2, h3⟩ := (spWf_cons d j u m).1 h
    refine (spWf_cons e j u m).2 ⟨?_, h2, ih (fun y hy => hde y (List.mem_cons_of_mem _ hy)) h3⟩
    rw [← hde (j, u) (List.mem_cons_self ..)]; exact h1

/-! The register file -/

theorem rfWf_rfSet (r : RegFile) (a : Nat) (v : Word) (h : spWf resetWord r = true) : spWf resetWord (rfSet r a v) = true :=
  spWf_spSet _ r a v h

theorem rfWf_rfWr (r : RegFile) (f : Fld) (v : Nat) (h : spWf resetWord r = true) : spWf resetWord (rfWr r f v) = true :=
  spWf_spSet _ r _ _ h

theorem rfWf_rfWr64 (r : RegFile) (a v : Nat) (h : spWf resetWord r = true) : spWf resetWord (rfWr64 r a v) = true :=
  rfWf_rfSet _ _ _ (rfWf_rfSet _ _ _ h)

theorem rfWf_rfOverlay (r : RegFile) (cs : Sparse Word) (h : spWf resetWord r = true) : spWf resetWord (rfOverlay r cs) = true := by
  induction cs generalizing r with
  | nil => exact h
  | cons c cs ih => exact ih _ (rfWf_rfSet _ _ _ h)

@[simp] theorem rfWord_rfSet_same (r : RegFile) (a : Nat) (v : Word) : rfWord (rfSet r a v) a = v := spGet_spSet_same _ r a v

theorem rfWord_rfSet_other (r : RegFile) (a b : Nat) (v : Word) (h : b ≠ a) : rfWord (rfSet r a v) b = rfWord r b :=
  spGet_spSet_other _ r a b v h

/-- A field write leaves every other register as it was. -/
theorem rfWord_rfWr_other (r : RegFile) (f : Fld) (v b : Nat) (h : b ≠ f.addr) : rfWord (rfWr r f v) b = rfWord r b :=
  rfWord_rfSet_other r _ _ _ h

end Sys2Proof.Machine
end

