-- ==== Sys2Proof/Laws/Fields.lean ====
section
/-! SUPPORT. Laws of register fields: what a field reads after a write of it, of another field, of another register. -/
namespace Sys2Proof.Machine

/-- A field that lies within a 32-bit register. -/
def Fld.ok (f : Fld) : Prop := f.lo ≤ f.hi ∧ f.hi < 32

/-- Two fields that share no bit. -/
def Fld.apart (f g : Fld) : Prop := f.addr ≠ g.addr ∨ f.hi < g.lo ∨ g.hi < f.lo

/-- A word splits at a field into what is above it, its value and what is below it. -/
theorem split_at (w lo n : Nat) : w = w / 2 ^ (lo + n) * 2 ^ (lo + n) + w / 2 ^ lo % 2 ^ n * 2 ^ lo + w % 2 ^ lo := by
  have h1 := Nat.div_add_mod w (2 ^ lo)
  have h2 := Nat.div_add_mod (w / 2 ^ lo) (2 ^ n)
  have h3 : w / 2 ^ lo / 2 ^ n = w / 2 ^ (lo + n) := by rw [Nat.div_div_eq_div_mul, ← Nat.pow_add]
  rw [h3] at h2
  have h4 : 2 ^ lo * (w / 2 ^ lo) = w / 2 ^ (lo + n) * 2 ^ (lo + n) + w / 2 ^ lo % 2 ^ n * 2 ^ lo := by
    conv_lhs => rw [← h2]
    rw [Nat.pow_add]; ring
  omega

theorem Fld.put_toNat (f : Fld) (hf : f.ok) (w : Word) (v : Nat) :
    (f.put w v).toNat = w.toNat / 2 ^ (f.hi + 1) * 2 ^ (f.hi + 1) + v % 2 ^ (f.hi + 1 - f.lo) * 2 ^ f.lo + w.toNat % 2 ^ f.lo := by
  obtain ⟨h1, h2⟩ := hf
  have hn : f.lo + (f.hi + 1 - f.lo) = f.hi + 1 := by omega
  have hs := split_at w.toNat f.lo (f.hi + 1 - f.lo)
  rw [hn] at hs
  have hw := w.isLt
  have hdiv : w.toNat / 2 ^ (f.hi + 1) < 2 ^ (32 - (f.hi + 1)) := by
    rw [Nat.div_lt_iff_lt_mul (Nat.two_pow_pos _), ← Nat.pow_add]
    have : 32 - (f.hi + 1) + (f.hi + 1) = 32 := by omega
    rw [this]; exact hw
  have hv : v % 2 ^ (f.hi + 1 - f.lo) * 2 ^ f.lo + w.toNat % 2 ^ f.lo < 2 ^ (f.hi + 1) := by
    have a := Nat.mod_lt v (Nat.two_pow_pos (f.hi + 1 - f.lo))
    have b := Nat.mod_lt w.toNat (Nat.two_pow_pos f.lo)
    have c : 2 ^ (f.hi + 1) = 2 ^ (f.hi + 1 - f.lo) * 2 ^ f.lo := by rw [← Nat.pow_add]; congr 1; omega
    rw [c]
    have e : (v % 2 ^ (f.hi + 1 - f.lo) + 1) * 2 ^ f.lo ≤ 2 ^ (f.hi + 1 - f.lo) * 2 ^ f.lo := Nat.mul_le_mul_right _ a
    rw [Nat.add_mul, Nat.one_mul] at e
    omega
  have htot : w.toNat / 2 ^ (f.hi + 1) * 2 ^ (f.hi + 1) + v % 2 ^ (f.hi + 1 - f.lo) * 2 ^ f.lo + w.toNat % 2 ^ f.lo < 2 ^ 32 := by
    have c : 2 ^ 32 = 2 ^ (32 - (f.hi + 1)) * 2 ^ (f.hi + 1) := by rw [← Nat.pow_add]; congr 1; omega
    have e : (w.toNat / 2 ^ (f.hi + 1) + 1) * 2 ^ (f.hi + 1) ≤ 2 ^ (32 - (f.hi + 1)) * 2 ^ (f.hi + 1) := Nat.mul_le_mul_right _ hdiv
    rw [Nat.add_mul, Nat.one_mul] at e
    omega
  have hp : f.of w % 2 ^ (f.hi + 1 - f.lo) = w.toNat / 2 ^ f.lo % 2 ^ (f.hi + 1 - f.lo) := by simp [Fld.of]
  simp only [Fld.put, placeBits, BitVec.toNat_ofNat, hp]
  rw [Nat.mod_eq_of_lt] <;> omega

theorem shape (X T P Q V C : Nat) (c : T = Q * P) : X * T + V * P + C = C + P * (X * Q + V) := by subst c; ring

/-- A field reads what was written to it, modulo its width. -/
theorem Fld.of_put (f : Fld) (hf : f.ok) (w : Word) (v : Nat) : f.of (f.put w v) = v % 2 ^ (f.hi + 1 - f.lo) := by
  have hb := Nat.mod_lt w.toNat (Nat.two_pow_pos f.lo)
  have c : 2 ^ (f.hi + 1) = 2 ^ (f.hi + 1 - f.lo) * 2 ^ f.lo := by rw [← Nat.pow_add]; congr 1; obtain ⟨_, _⟩ := hf; omega
  rw [Fld.of, Fld.put_toNat f hf, shape _ _ _ _ _ _ c, Nat.add_mul_div_left _ _ (Nat.two_pow_pos _), Nat.div_eq_of_lt hb, Nat.zero_add,
    Nat.add_comm, Nat.add_mul_mod_self_right, Nat.mod_mod]

/-- Another field of the register keeps its value. -/
theorem Fld.of_put_other (f g : Fld) (hf : f.ok) (w : Word) (v : Nat) (h : f.hi < g.lo ∨ g.hi < f.lo) (hg : g.lo ≤ g.hi) :
    g.of (f.put w v) = g.of w := by
  have hb := Nat.mod_lt w.toNat (Nat.two_pow_pos f.lo)
  have c : 2 ^ (f.hi + 1) = 2 ^ (f.hi + 1 - f.lo) * 2 ^ f.lo := by rw [← Nat.pow_add]; congr 1; obtain ⟨_, _⟩ := hf; omega
  rw [Fld.of, Fld.of, Fld.put_toNat f hf]
  rcases h with h | h
  · have hlt : v % 2 ^ (f.hi + 1 - f.lo) * 2 ^ f.lo + w.toNat % 2 ^ f.lo < 2 ^ (f.hi + 1) := by
      have a := Nat.mod_lt v (Nat.two_pow_pos (f.hi + 1 - f.lo))
      have e : (v % 2 ^ (f.hi + 1 - f.lo) + 1) * 2 ^ f.lo ≤ 2 ^ (f.hi + 1 - f.lo) * 2 ^ f.lo := Nat.mul_le_mul_right _ a
      rw [Nat.add_mul, Nat.one_mul] at e
      omega
    have hd : 2 ^ g.lo = 2 ^ (f.hi + 1) * 2 ^ (g.lo - (f.hi + 1)) := by rw [← Nat.pow_add]; congr 1; omega
    rw [hd, ← Nat.div_div_eq_div_mul, ← Nat.div_div_eq_div_mul, Nat.add_assoc, Nat.mul_comm (w.toNat / _), Nat.mul_add_div (Nat.two_pow_pos _),
      Nat.div_eq_of_lt hlt, Nat.add_zero]
  · have key : ∀ x y : Nat, x % 2 ^ f.lo = y % 2 ^ f.lo → x / 2 ^ g.lo % 2 ^ (g.hi + 1 - g.lo) = y / 2 ^ g.lo % 2 ^ (g.hi + 1 - g.lo) := by
      intro x y hxy
      have hm : ∀ z : Nat, z / 2 ^ g.lo % 2 ^ (g.hi + 1 - g.lo) = z % 2 ^ f.lo / 2 ^ g.lo % 2 ^ (g.hi + 1 - g.lo) := by
        intro z
        have e1 : 2 ^ f.lo = 2 ^ g.lo * 2 ^ (f.lo - g.lo) := by rw [← Nat.pow_add]; congr 1; omega
        have e2 : (2 : Nat) ^ (g.hi + 1 - g.lo) ∣ 2 ^ (f.lo - g.lo) := Nat.pow_dvd_pow 2 (by omega)
        rw [e1, Nat.mod_mul_right_div_self, Nat.mod_mod_of_dvd _ e2]
      rw [hm x, hm y, hxy]
    refine key _ _ ?_
    rw [shape _ _ _ _ _ _ c, Nat.add_mul_mod_self_left, Nat.mod_mod]

/-! The register file and the state -/

theorem rfRd_rfWr_same (r : RegFile) (f : Fld) (hf : f.ok) (v : Nat) : rfRd (rfWr r f v) f = v % 2 ^ (f.hi + 1 - f.lo) := by
  rw [rfRd, rfWr, rfWord_rfSet_same, Fld.of_put f hf]

theorem rfRd_rfWr_other (r : RegFile) (f g : Fld) (hf : f.ok) (hg : g.lo ≤ g.hi) (v : Nat) (h : f.apart g) : rfRd (rfWr r f v) g = rfRd r g := by
  by_cases ha : g.addr = f.addr
  · rcases h with h | h
    · exact absurd ha.symm h
    · rw [rfRd, rfRd, rfWr, ha, rfWord_rfSet_same, Fld.of_put_other f g hf _ _ h hg]
  · rw [rfRd, rfRd, rfWord_rfWr_other r f v _ ha]

/-- A written field reads the value written, modulo its width. -/
theorem State.rd_wr_same (s : State) (f : Fld) (hf : f.ok) (v : Nat) : (s.wr f v).rd f = v % 2 ^ (f.hi + 1 - f.lo) :=
  rfRd_rfWr_same s.regs f hf v

/-- A field that shares no bit with the written one reads as before. -/
theorem State.rd_wr_other (s : State) (f g : Fld) (hf : f.ok) (hg : g.lo ≤ g.hi) (v : Nat) (h : f.apart g) : (s.wr f v).rd g = s.rd g :=
  rfRd_rfWr_other s.regs f g hf hg v h

end Sys2Proof.Machine
end

