-- ==== Sys2Proof/Laws/Good.lean ====
section
/-! SUPPORT. The invariant of the block's plain data, and what it takes to keep it. -/
namespace Sys2Proof.Machine

/-- The invariant on the data it speaks of. -/
def GoodP (regs : RegFile) (lost : Nat) (words : Sparse (BitVec 80)) (flash : Sparse Byte) (paths : Vector PathSt 9) (respQ : List Resp)
    (log : List Occ) (tracks : List Track) : Prop :=
  spWf resetWord regs = true ∧ spWf (memDflt lost) words = true ∧ spWf (fun _ => (255 : Byte)) flash = true ∧
    (∀ p, (paths.get p).out.length ≤ 8) ∧ respQ.length ≤ 16 ∧ log.length ≤ 64 ∧ tracks.length ≤ 512

/-- The invariant of a state. -/
def Good (s : State) : Prop := GoodP s.regs s.mem.lost s.mem.words s.image.flash s.host.paths s.host.respQ s.alarm.log s.alarm.tracks

/-- The invariant of what a meaning answers. -/
def GoodO : Out → Prop
  | .next t => Good t
  | _ => True

theorem good_next {t : State} (h : Good t) : GoodO (.next t) := h

theorem good_let {v : State} {b : State → State} (hv : Good v) (hb : ∀ x, Good x → Good (b x)) : Good (let x := v; b x) := hb v hv

theorem good_foldl {α : Type} {f : State → α → State} {l : List α} {s : State} (hf : ∀ s x, Good s → Good (f s x)) (h : Good s) :
    Good (l.foldl f s) := by
  induction l generalizing s with
  | nil => exact h
  | cons a t ih => exact ih (hf _ _ h)

/-- The same data, the same invariant. -/
theorem good_of_eq {s t : State} (h : Good s) (h1 : t.regs = s.regs) (h2 : t.mem.lost = s.mem.lost) (h3 : t.mem.words = s.mem.words)
    (h4 : t.image.flash = s.image.flash) (h5 : t.host.paths = s.host.paths) (h6 : t.host.respQ = s.host.respQ) (h7 : t.alarm.log = s.alarm.log)
    (h8 : t.alarm.tracks = s.alarm.tracks) : Good t := by
  unfold Good at *; rw [h1, h2, h3, h4, h5, h6, h7, h8]; exact h

/-- New registers in canonical form. -/
theorem good_regs {s t : State} (h : Good s) (h1 : spWf resetWord t.regs = true) (h2 : t.mem = s.mem) (h4 : t.image = s.image)
    (h5 : t.host = s.host) (h7 : t.alarm = s.alarm) : Good t := by
  unfold Good at *; rw [h2, h4, h5, h7]; exact ⟨h1, h.2⟩

end Sys2Proof.Machine
end

