-- ==== Sys2Proof/Laws/State.lean ====
section
/-! SUPPORT. Laws of the updates of State: what each part holds after each update, and what an updated instance reads. -/
namespace Sys2Proof.Machine

/-! Vectors and tables -/

theorem vget_vupd {α : Type} {n : Nat} (v : Vector α n) (i j : Fin n) (f : α → α) :
    (vupd v i f).get j = if i = j then f (v.get i) else v.get j := by
  show (v.set i.val (f (v.get i)) i.isLt)[j.val] = _
  rw [Vector.getElem_set]
  split
  · rename_i h; rw [if_pos (Fin.ext h)]
  · rename_i h; rw [if_neg (fun e => h (congrArg Fin.val e))]; rfl

@[simp] theorem vget_vupd_same {α : Type} {n : Nat} (v : Vector α n) (i : Fin n) (f : α → α) : (vupd v i f).get i = f (v.get i) := by
  rw [vget_vupd, if_pos rfl]

theorem vget_vupd_other {α : Type} {n : Nat} (v : Vector α n) (i j : Fin n) (f : α → α) (h : j ≠ i) : (vupd v i f).get j = v.get j := by
  rw [vget_vupd, if_neg (fun e => h e.symm)]

/-! wr -/

@[simp] theorem State.wr_pending (s : State) (f : Fld) (v : Nat) : (s.wr f v).pending = s.pending := rfl
@[simp] theorem State.wr_time (s : State) (f : Fld) (v : Nat) : (s.wr f v).time = s.time := rfl
@[simp] theorem State.wr_loops (s : State) (f : Fld) (v : Nat) : (s.wr f v).loops = s.loops := rfl
@[simp] theorem State.wr_xtal (s : State) (f : Fld) (v : Nat) : (s.wr f v).xtal = s.xtal := rfl
@[simp] theorem State.wr_power (s : State) (f : Fld) (v : Nat) : (s.wr f v).power = s.power := rfl
@[simp] theorem State.wr_epoch (s : State) (f : Fld) (v : Nat) : (s.wr f v).epoch = s.epoch := rfl
@[simp] theorem State.wr_host (s : State) (f : Fld) (v : Nat) : (s.wr f v).host = s.host := rfl
@[simp] theorem State.wr_rings (s : State) (f : Fld) (v : Nat) : (s.wr f v).rings = s.rings := rfl
@[simp] theorem State.wr_links (s : State) (f : Fld) (v : Nat) : (s.wr f v).links = s.links := rfl
@[simp] theorem State.wr_alarm (s : State) (f : Fld) (v : Nat) : (s.wr f v).alarm = s.alarm := rfl
@[simp] theorem State.wr_engs (s : State) (f : Fld) (v : Nat) : (s.wr f v).engs = s.engs := rfl
@[simp] theorem State.wr_image (s : State) (f : Fld) (v : Nat) : (s.wr f v).image = s.image := rfl
@[simp] theorem State.wr_mem (s : State) (f : Fld) (v : Nat) : (s.wr f v).mem = s.mem := rfl
@[simp] theorem State.wr_ports (s : State) (f : Fld) (v : Nat) : (s.wr f v).ports = s.ports := rfl
@[simp] theorem State.wr_aux (s : State) (f : Fld) (v : Nat) : (s.wr f v).aux = s.aux := rfl
@[simp] theorem State.wr_zone (s : State) (f : Fld) (v : Nat) : (s.wr f v).zone = s.zone := rfl
@[simp] theorem State.wr_lidar (s : State) (f : Fld) (v : Nat) : (s.wr f v).lidar = s.lidar := rfl
@[simp] theorem State.wr_cores (s : State) (f : Fld) (v : Nat) : (s.wr f v).cores = s.cores := rfl
@[simp] theorem State.wr_cal (s : State) (f : Fld) (v : Nat) : (s.wr f v).cal = s.cal := rfl
@[simp] theorem State.wr_freeCtr (s : State) (f : Fld) (v : Nat) : (s.wr f v).freeCtr = s.freeCtr := rfl

/-! wrB -/

@[simp] theorem State.wrB_pending (s : State) (f : Fld) (b : Bool) : (s.wrB f b).pending = s.pending := rfl
@[simp] theorem State.wrB_time (s : State) (f : Fld) (b : Bool) : (s.wrB f b).time = s.time := rfl
@[simp] theorem State.wrB_loops (s : State) (f : Fld) (b : Bool) : (s.wrB f b).loops = s.loops := rfl
@[simp] theorem State.wrB_xtal (s : State) (f : Fld) (b : Bool) : (s.wrB f b).xtal = s.xtal := rfl
@[simp] theorem State.wrB_power (s : State) (f : Fld) (b : Bool) : (s.wrB f b).power = s.power := rfl
@[simp] theorem State.wrB_epoch (s : State) (f : Fld) (b : Bool) : (s.wrB f b).epoch = s.epoch := rfl
@[simp] theorem State.wrB_host (s : State) (f : Fld) (b : Bool) : (s.wrB f b).host = s.host := rfl
@[simp] theorem State.wrB_rings (s : State) (f : Fld) (b : Bool) : (s.wrB f b).rings = s.rings := rfl
@[simp] theorem State.wrB_links (s : State) (f : Fld) (b : Bool) : (s.wrB f b).links = s.links := rfl
@[simp] theorem State.wrB_alarm (s : State) (f : Fld) (b : Bool) : (s.wrB f b).alarm = s.alarm := rfl
@[simp] theorem State.wrB_engs (s : State) (f : Fld) (b : Bool) : (s.wrB f b).engs = s.engs := rfl
@[simp] theorem State.wrB_image (s : State) (f : Fld) (b : Bool) : (s.wrB f b).image = s.image := rfl
@[simp] theorem State.wrB_mem (s : State) (f : Fld) (b : Bool) : (s.wrB f b).mem = s.mem := rfl
@[simp] theorem State.wrB_ports (s : State) (f : Fld) (b : Bool) : (s.wrB f b).ports = s.ports := rfl
@[simp] theorem State.wrB_aux (s : State) (f : Fld) (b : Bool) : (s.wrB f b).aux = s.aux := rfl
@[simp] theorem State.wrB_zone (s : State) (f : Fld) (b : Bool) : (s.wrB f b).zone = s.zone := rfl
@[simp] theorem State.wrB_lidar (s : State) (f : Fld) (b : Bool) : (s.wrB f b).lidar = s.lidar := rfl
@[simp] theorem State.wrB_cores (s : State) (f : Fld) (b : Bool) : (s.wrB f b).cores = s.cores := rfl
@[simp] theorem State.wrB_cal (s : State) (f : Fld) (b : Bool) : (s.wrB f b).cal = s.cal := rfl
@[simp] theorem State.wrB_freeCtr (s : State) (f : Fld) (b : Bool) : (s.wrB f b).freeCtr = s.freeCtr := rfl

/-! wrS -/

@[simp] theorem State.wrS_pending (s : State) (f : Fld) (v : Int) : (s.wrS f v).pending = s.pending := rfl
@[simp] theorem State.wrS_time (s : State) (f : Fld) (v : Int) : (s.wrS f v).time = s.time := rfl
@[simp] theorem State.wrS_loops (s : State) (f : Fld) (v : Int) : (s.wrS f v).loops = s.loops := rfl
@[simp] theorem State.wrS_xtal (s : State) (f : Fld) (v : Int) : (s.wrS f v).xtal = s.xtal := rfl
@[simp] theorem State.wrS_power (s : State) (f : Fld) (v : Int) : (s.wrS f v).power = s.power := rfl
@[simp] theorem State.wrS_epoch (s : State) (f : Fld) (v : Int) : (s.wrS f v).epoch = s.epoch := rfl
@[simp] theorem State.wrS_host (s : State) (f : Fld) (v : Int) : (s.wrS f v).host = s.host := rfl
@[simp] theorem State.wrS_rings (s : State) (f : Fld) (v : Int) : (s.wrS f v).rings = s.rings := rfl
@[simp] theorem State.wrS_links (s : State) (f : Fld) (v : Int) : (s.wrS f v).links = s.links := rfl
@[simp] theorem State.wrS_alarm (s : State) (f : Fld) (v : Int) : (s.wrS f v).alarm = s.alarm := rfl
@[simp] theorem State.wrS_engs (s : State) (f : Fld) (v : Int) : (s.wrS f v).engs = s.engs := rfl
@[simp] theorem State.wrS_image (s : State) (f : Fld) (v : Int) : (s.wrS f v).image = s.image := rfl
@[simp] theorem State.wrS_mem (s : State) (f : Fld) (v : Int) : (s.wrS f v).mem = s.mem := rfl
@[simp] theorem State.wrS_ports (s : State) (f : Fld) (v : Int) : (s.wrS f v).ports = s.ports := rfl
@[simp] theorem State.wrS_aux (s : State) (f : Fld) (v : Int) : (s.wrS f v).aux = s.aux := rfl
@[simp] theorem State.wrS_zone (s : State) (f : Fld) (v : Int) : (s.wrS f v).zone = s.zone := rfl
@[simp] theorem State.wrS_lidar (s : State) (f : Fld) (v : Int) : (s.wrS f v).lidar = s.lidar := rfl
@[simp] theorem State.wrS_cores (s : State) (f : Fld) (v : Int) : (s.wrS f v).cores = s.cores := rfl
@[simp] theorem State.wrS_cal (s : State) (f : Fld) (v : Int) : (s.wrS f v).cal = s.cal := rfl
@[simp] theorem State.wrS_freeCtr (s : State) (f : Fld) (v : Int) : (s.wrS f v).freeCtr = s.freeCtr := rfl

/-! inc -/

@[simp] theorem State.inc_pending (s : State) (f : Fld) (k : Nat) : (s.inc f k).pending = s.pending := rfl
@[simp] theorem State.inc_time (s : State) (f : Fld) (k : Nat) : (s.inc f k).time = s.time := rfl
@[simp] theorem State.inc_loops (s : State) (f : Fld) (k : Nat) : (s.inc f k).loops = s.loops := rfl
@[simp] theorem State.inc_xtal (s : State) (f : Fld) (k : Nat) : (s.inc f k).xtal = s.xtal := rfl
@[simp] theorem State.inc_power (s : State) (f : Fld) (k : Nat) : (s.inc f k).power = s.power := rfl
@[simp] theorem State.inc_epoch (s : State) (f : Fld) (k : Nat) : (s.inc f k).epoch = s.epoch := rfl
@[simp] theorem State.inc_host (s : State) (f : Fld) (k : Nat) : (s.inc f k).host = s.host := rfl
@[simp] theorem State.inc_rings (s : State) (f : Fld) (k : Nat) : (s.inc f k).rings = s.rings := rfl
@[simp] theorem State.inc_links (s : State) (f : Fld) (k : Nat) : (s.inc f k).links = s.links := rfl
@[simp] theorem State.inc_alarm (s : State) (f : Fld) (k : Nat) : (s.inc f k).alarm = s.alarm := rfl
@[simp] theorem State.inc_engs (s : State) (f : Fld) (k : Nat) : (s.inc f k).engs = s.engs := rfl
@[simp] theorem State.inc_image (s : State) (f : Fld) (k : Nat) : (s.inc f k).image = s.image := rfl
@[simp] theorem State.inc_mem (s : State) (f : Fld) (k : Nat) : (s.inc f k).mem = s.mem := rfl
@[simp] theorem State.inc_ports (s : State) (f : Fld) (k : Nat) : (s.inc f k).ports = s.ports := rfl
@[simp] theorem State.inc_aux (s : State) (f : Fld) (k : Nat) : (s.inc f k).aux = s.aux := rfl
@[simp] theorem State.inc_zone (s : State) (f : Fld) (k : Nat) : (s.inc f k).zone = s.zone := rfl
@[simp] theorem State.inc_lidar (s : State) (f : Fld) (k : Nat) : (s.inc f k).lidar = s.lidar := rfl
@[simp] theorem State.inc_cores (s : State) (f : Fld) (k : Nat) : (s.inc f k).cores = s.cores := rfl
@[simp] theorem State.inc_cal (s : State) (f : Fld) (k : Nat) : (s.inc f k).cal = s.cal := rfl
@[simp] theorem State.inc_freeCtr (s : State) (f : Fld) (k : Nat) : (s.inc f k).freeCtr = s.freeCtr := rfl

/-! wr64 -/

@[simp] theorem State.wr64_pending (s : State) (f : Fld) (v : Nat) : (s.wr64 f v).pending = s.pending := rfl
@[simp] theorem State.wr64_time (s : State) (f : Fld) (v : Nat) : (s.wr64 f v).time = s.time := rfl
@[simp] theorem State.wr64_loops (s : State) (f : Fld) (v : Nat) : (s.wr64 f v).loops = s.loops := rfl
@[simp] theorem State.wr64_xtal (s : State) (f : Fld) (v : Nat) : (s.wr64 f v).xtal = s.xtal := rfl
@[simp] theorem State.wr64_power (s : State) (f : Fld) (v : Nat) : (s.wr64 f v).power = s.power := rfl
@[simp] theorem State.wr64_epoch (s : State) (f : Fld) (v : Nat) : (s.wr64 f v).epoch = s.epoch := rfl
@[simp] theorem State.wr64_host (s : State) (f : Fld) (v : Nat) : (s.wr64 f v).host = s.host := rfl
@[simp] theorem State.wr64_rings (s : State) (f : Fld) (v : Nat) : (s.wr64 f v).rings = s.rings := rfl
@[simp] theorem State.wr64_links (s : State) (f : Fld) (v : Nat) : (s.wr64 f v).links = s.links := rfl
@[simp] theorem State.wr64_alarm (s : State) (f : Fld) (v : Nat) : (s.wr64 f v).alarm = s.alarm := rfl
@[simp] theorem State.wr64_engs (s : State) (f : Fld) (v : Nat) : (s.wr64 f v).engs = s.engs := rfl
@[simp] theorem State.wr64_image (s : State) (f : Fld) (v : Nat) : (s.wr64 f v).image = s.image := rfl
@[simp] theorem State.wr64_mem (s : State) (f : Fld) (v : Nat) : (s.wr64 f v).mem = s.mem := rfl
@[simp] theorem State.wr64_ports (s : State) (f : Fld) (v : Nat) : (s.wr64 f v).ports = s.ports := rfl
@[simp] theorem State.wr64_aux (s : State) (f : Fld) (v : Nat) : (s.wr64 f v).aux = s.aux := rfl
@[simp] theorem State.wr64_zone (s : State) (f : Fld) (v : Nat) : (s.wr64 f v).zone = s.zone := rfl
@[simp] theorem State.wr64_lidar (s : State) (f : Fld) (v : Nat) : (s.wr64 f v).lidar = s.lidar := rfl
@[simp] theorem State.wr64_cores (s : State) (f : Fld) (v : Nat) : (s.wr64 f v).cores = s.cores := rfl
@[simp] theorem State.wr64_cal (s : State) (f : Fld) (v : Nat) : (s.wr64 f v).cal = s.cal := rfl
@[simp] theorem State.wr64_freeCtr (s : State) (f : Fld) (v : Nat) : (s.wr64 f v).freeCtr = s.freeCtr := rfl

/-! updRing -/

@[simp] theorem State.updRing_pending (s : State) (r : Fin 16) (f : RingSt → RingSt) : (s.updRing r f).pending = s.pending := rfl
@[simp] theorem State.updRing_regs (s : State) (r : Fin 16) (f : RingSt → RingSt) : (s.updRing r f).regs = s.regs := rfl
@[simp] theorem State.updRing_time (s : State) (r : Fin 16) (f : RingSt → RingSt) : (s.updRing r f).time = s.time := rfl
@[simp] theorem State.updRing_loops (s : State) (r : Fin 16) (f : RingSt → RingSt) : (s.updRing r f).loops = s.loops := rfl
@[simp] theorem State.updRing_xtal (s : State) (r : Fin 16) (f : RingSt → RingSt) : (s.updRing r f).xtal = s.xtal := rfl
@[simp] theorem State.updRing_power (s : State) (r : Fin 16) (f : RingSt → RingSt) : (s.updRing r f).power = s.power := rfl
@[simp] theorem State.updRing_epoch (s : State) (r : Fin 16) (f : RingSt → RingSt) : (s.updRing r f).epoch = s.epoch := rfl
@[simp] theorem State.updRing_host (s : State) (r : Fin 16) (f : RingSt → RingSt) : (s.updRing r f).host = s.host := rfl
@[simp] theorem State.updRing_links (s : State) (r : Fin 16) (f : RingSt → RingSt) : (s.updRing r f).links = s.links := rfl
@[simp] theorem State.updRing_alarm (s : State) (r : Fin 16) (f : RingSt → RingSt) : (s.updRing r f).alarm = s.alarm := rfl
@[simp] theorem State.updRing_engs (s : State) (r : Fin 16) (f : RingSt → RingSt) : (s.updRing r f).engs = s.engs := rfl
@[simp] theorem State.updRing_image (s : State) (r : Fin 16) (f : RingSt → RingSt) : (s.updRing r f).image = s.image := rfl
@[simp] theorem State.updRing_mem (s : State) (r : Fin 16) (f : RingSt → RingSt) : (s.updRing r f).mem = s.mem := rfl
@[simp] theorem State.updRing_ports (s : State) (r : Fin 16) (f : RingSt → RingSt) : (s.updRing r f).ports = s.ports := rfl
@[simp] theorem State.updRing_aux (s : State) (r : Fin 16) (f : RingSt → RingSt) : (s.updRing r f).aux = s.aux := rfl
@[simp] theorem State.updRing_zone (s : State) (r : Fin 16) (f : RingSt → RingSt) : (s.updRing r f).zone = s.zone := rfl
@[simp] theorem State.updRing_lidar (s : State) (r : Fin 16) (f : RingSt → RingSt) : (s.updRing r f).lidar = s.lidar := rfl
@[simp] theorem State.updRing_cores (s : State) (r : Fin 16) (f : RingSt → RingSt) : (s.updRing r f).cores = s.cores := rfl
@[simp] theorem State.updRing_cal (s : State) (r : Fin 16) (f : RingSt → RingSt) : (s.updRing r f).cal = s.cal := rfl
@[simp] theorem State.updRing_freeCtr (s : State) (r : Fin 16) (f : RingSt → RingSt) : (s.updRing r f).freeCtr = s.freeCtr := rfl

/-! updLink -/

@[simp] theorem State.updLink_pending (s : State) (x : Fin 8) (f : LinkSt → LinkSt) : (s.updLink x f).pending = s.pending := rfl
@[simp] theorem State.updLink_regs (s : State) (x : Fin 8) (f : LinkSt → LinkSt) : (s.updLink x f).regs = s.regs := rfl
@[simp] theorem State.updLink_time (s : State) (x : Fin 8) (f : LinkSt → LinkSt) : (s.updLink x f).time = s.time := rfl
@[simp] theorem State.updLink_loops (s : State) (x : Fin 8) (f : LinkSt → LinkSt) : (s.updLink x f).loops = s.loops := rfl
@[simp] theorem State.updLink_xtal (s : State) (x : Fin 8) (f : LinkSt → LinkSt) : (s.updLink x f).xtal = s.xtal := rfl
@[simp] theorem State.updLink_power (s : State) (x : Fin 8) (f : LinkSt → LinkSt) : (s.updLink x f).power = s.power := rfl
@[simp] theorem State.updLink_epoch (s : State) (x : Fin 8) (f : LinkSt → LinkSt) : (s.updLink x f).epoch = s.epoch := rfl
@[simp] theorem State.updLink_host (s : State) (x : Fin 8) (f : LinkSt → LinkSt) : (s.updLink x f).host = s.host := rfl
@[simp] theorem State.updLink_rings (s : State) (x : Fin 8) (f : LinkSt → LinkSt) : (s.updLink x f).rings = s.rings := rfl
@[simp] theorem State.updLink_alarm (s : State) (x : Fin 8) (f : LinkSt → LinkSt) : (s.updLink x f).alarm = s.alarm := rfl
@[simp] theorem State.updLink_engs (s : State) (x : Fin 8) (f : LinkSt → LinkSt) : (s.updLink x f).engs = s.engs := rfl
@[simp] theorem State.updLink_image (s : State) (x : Fin 8) (f : LinkSt → LinkSt) : (s.updLink x f).image = s.image := rfl
@[simp] theorem State.updLink_mem (s : State) (x : Fin 8) (f : LinkSt → LinkSt) : (s.updLink x f).mem = s.mem := rfl
@[simp] theorem State.updLink_ports (s : State) (x : Fin 8) (f : LinkSt → LinkSt) : (s.updLink x f).ports = s.ports := rfl
@[simp] theorem State.updLink_aux (s : State) (x : Fin 8) (f : LinkSt → LinkSt) : (s.updLink x f).aux = s.aux := rfl
@[simp] theorem State.updLink_zone (s : State) (x : Fin 8) (f : LinkSt → LinkSt) : (s.updLink x f).zone = s.zone := rfl
@[simp] theorem State.updLink_lidar (s : State) (x : Fin 8) (f : LinkSt → LinkSt) : (s.updLink x f).lidar = s.lidar := rfl
@[simp] theorem State.updLink_cores (s : State) (x : Fin 8) (f : LinkSt → LinkSt) : (s.updLink x f).cores = s.cores := rfl
@[simp] theorem State.updLink_cal (s : State) (x : Fin 8) (f : LinkSt → LinkSt) : (s.updLink x f).cal = s.cal := rfl
@[simp] theorem State.updLink_freeCtr (s : State) (x : Fin 8) (f : LinkSt → LinkSt) : (s.updLink x f).freeCtr = s.freeCtr := rfl

/-! updPath -/

@[simp] theorem State.updPath_pending (s : State) (p : Fin 9) (f : PathSt → PathSt) : (s.updPath p f).pending = s.pending := rfl
@[simp] theorem State.updPath_regs (s : State) (p : Fin 9) (f : PathSt → PathSt) : (s.updPath p f).regs = s.regs := rfl
@[simp] theorem State.updPath_time (s : State) (p : Fin 9) (f : PathSt → PathSt) : (s.updPath p f).time = s.time := rfl
@[simp] theorem State.updPath_loops (s : State) (p : Fin 9) (f : PathSt → PathSt) : (s.updPath p f).loops = s.loops := rfl
@[simp] theorem State.updPath_xtal (s : State) (p : Fin 9) (f : PathSt → PathSt) : (s.updPath p f).xtal = s.xtal := rfl
@[simp] theorem State.updPath_power (s : State) (p : Fin 9) (f : PathSt → PathSt) : (s.updPath p f).power = s.power := rfl
@[simp] theorem State.updPath_epoch (s : State) (p : Fin 9) (f : PathSt → PathSt) : (s.updPath p f).epoch = s.epoch := rfl
@[simp] theorem State.updPath_rings (s : State) (p : Fin 9) (f : PathSt → PathSt) : (s.updPath p f).rings = s.rings := rfl
@[simp] theorem State.updPath_links (s : State) (p : Fin 9) (f : PathSt → PathSt) : (s.updPath p f).links = s.links := rfl
@[simp] theorem State.updPath_alarm (s : State) (p : Fin 9) (f : PathSt → PathSt) : (s.updPath p f).alarm = s.alarm := rfl
@[simp] theorem State.updPath_engs (s : State) (p : Fin 9) (f : PathSt → PathSt) : (s.updPath p f).engs = s.engs := rfl
@[simp] theorem State.updPath_image (s : State) (p : Fin 9) (f : PathSt → PathSt) : (s.updPath p f).image = s.image := rfl
@[simp] theorem State.updPath_mem (s : State) (p : Fin 9) (f : PathSt → PathSt) : (s.updPath p f).mem = s.mem := rfl
@[simp] theorem State.updPath_ports (s : State) (p : Fin 9) (f : PathSt → PathSt) : (s.updPath p f).ports = s.ports := rfl
@[simp] theorem State.updPath_aux (s : State) (p : Fin 9) (f : PathSt → PathSt) : (s.updPath p f).aux = s.aux := rfl
@[simp] theorem State.updPath_zone (s : State) (p : Fin 9) (f : PathSt → PathSt) : (s.updPath p f).zone = s.zone := rfl
@[simp] theorem State.updPath_lidar (s : State) (p : Fin 9) (f : PathSt → PathSt) : (s.updPath p f).lidar = s.lidar := rfl
@[simp] theorem State.updPath_cores (s : State) (p : Fin 9) (f : PathSt → PathSt) : (s.updPath p f).cores = s.cores := rfl
@[simp] theorem State.updPath_cal (s : State) (p : Fin 9) (f : PathSt → PathSt) : (s.updPath p f).cal = s.cal := rfl
@[simp] theorem State.updPath_freeCtr (s : State) (p : Fin 9) (f : PathSt → PathSt) : (s.updPath p f).freeCtr = s.freeCtr := rfl

/-! updPort -/

@[simp] theorem State.updPort_pending (s : State) (p : Fin 4) (f : PortSt → PortSt) : (s.updPort p f).pending = s.pending := rfl
@[simp] theorem State.updPort_regs (s : State) (p : Fin 4) (f : PortSt → PortSt) : (s.updPort p f).regs = s.regs := rfl
@[simp] theorem State.updPort_time (s : State) (p : Fin 4) (f : PortSt → PortSt) : (s.updPort p f).time = s.time := rfl
@[simp] theorem State.updPort_loops (s : State) (p : Fin 4) (f : PortSt → PortSt) : (s.updPort p f).loops = s.loops := rfl
@[simp] theorem State.updPort_xtal (s : State) (p : Fin 4) (f : PortSt → PortSt) : (s.updPort p f).xtal = s.xtal := rfl
@[simp] theorem State.updPort_power (s : State) (p : Fin 4) (f : PortSt → PortSt) : (s.updPort p f).power = s.power := rfl
@[simp] theorem State.updPort_epoch (s : State) (p : Fin 4) (f : PortSt → PortSt) : (s.updPort p f).epoch = s.epoch := rfl
@[simp] theorem State.updPort_host (s : State) (p : Fin 4) (f : PortSt → PortSt) : (s.updPort p f).host = s.host := rfl
@[simp] theorem State.updPort_rings (s : State) (p : Fin 4) (f : PortSt → PortSt) : (s.updPort p f).rings = s.rings := rfl
@[simp] theorem State.updPort_links (s : State) (p : Fin 4) (f : PortSt → PortSt) : (s.updPort p f).links = s.links := rfl
@[simp] theorem State.updPort_alarm (s : State) (p : Fin 4) (f : PortSt → PortSt) : (s.updPort p f).alarm = s.alarm := rfl
@[simp] theorem State.updPort_engs (s : State) (p : Fin 4) (f : PortSt → PortSt) : (s.updPort p f).engs = s.engs := rfl
@[simp] theorem State.updPort_image (s : State) (p : Fin 4) (f : PortSt → PortSt) : (s.updPort p f).image = s.image := rfl
@[simp] theorem State.updPort_mem (s : State) (p : Fin 4) (f : PortSt → PortSt) : (s.updPort p f).mem = s.mem := rfl
@[simp] theorem State.updPort_aux (s : State) (p : Fin 4) (f : PortSt → PortSt) : (s.updPort p f).aux = s.aux := rfl
@[simp] theorem State.updPort_zone (s : State) (p : Fin 4) (f : PortSt → PortSt) : (s.updPort p f).zone = s.zone := rfl
@[simp] theorem State.updPort_lidar (s : State) (p : Fin 4) (f : PortSt → PortSt) : (s.updPort p f).lidar = s.lidar := rfl
@[simp] theorem State.updPort_cores (s : State) (p : Fin 4) (f : PortSt → PortSt) : (s.updPort p f).cores = s.cores := rfl
@[simp] theorem State.updPort_cal (s : State) (p : Fin 4) (f : PortSt → PortSt) : (s.updPort p f).cal = s.cal := rfl
@[simp] theorem State.updPort_freeCtr (s : State) (p : Fin 4) (f : PortSt → PortSt) : (s.updPort p f).freeCtr = s.freeCtr := rfl

/-! updFe -/

@[simp] theorem State.updFe_pending (s : State) (p : Fin 4) (f : FeSt → FeSt) : (s.updFe p f).pending = s.pending := rfl
@[simp] theorem State.updFe_regs (s : State) (p : Fin 4) (f : FeSt → FeSt) : (s.updFe p f).regs = s.regs := rfl
@[simp] theorem State.updFe_time (s : State) (p : Fin 4) (f : FeSt → FeSt) : (s.updFe p f).time = s.time := rfl
@[simp] theorem State.updFe_loops (s : State) (p : Fin 4) (f : FeSt → FeSt) : (s.updFe p f).loops = s.loops := rfl
@[simp] theorem State.updFe_xtal (s : State) (p : Fin 4) (f : FeSt → FeSt) : (s.updFe p f).xtal = s.xtal := rfl
@[simp] theorem State.updFe_power (s : State) (p : Fin 4) (f : FeSt → FeSt) : (s.updFe p f).power = s.power := rfl
@[simp] theorem State.updFe_epoch (s : State) (p : Fin 4) (f : FeSt → FeSt) : (s.updFe p f).epoch = s.epoch := rfl
@[simp] theorem State.updFe_host (s : State) (p : Fin 4) (f : FeSt → FeSt) : (s.updFe p f).host = s.host := rfl
@[simp] theorem State.updFe_rings (s : State) (p : Fin 4) (f : FeSt → FeSt) : (s.updFe p f).rings = s.rings := rfl
@[simp] theorem State.updFe_links (s : State) (p : Fin 4) (f : FeSt → FeSt) : (s.updFe p f).links = s.links := rfl
@[simp] theorem State.updFe_alarm (s : State) (p : Fin 4) (f : FeSt → FeSt) : (s.updFe p f).alarm = s.alarm := rfl
@[simp] theorem State.updFe_engs (s : State) (p : Fin 4) (f : FeSt → FeSt) : (s.updFe p f).engs = s.engs := rfl
@[simp] theorem State.updFe_image (s : State) (p : Fin 4) (f : FeSt → FeSt) : (s.updFe p f).image = s.image := rfl
@[simp] theorem State.updFe_mem (s : State) (p : Fin 4) (f : FeSt → FeSt) : (s.updFe p f).mem = s.mem := rfl
@[simp] theorem State.updFe_aux (s : State) (p : Fin 4) (f : FeSt → FeSt) : (s.updFe p f).aux = s.aux := rfl
@[simp] theorem State.updFe_zone (s : State) (p : Fin 4) (f : FeSt → FeSt) : (s.updFe p f).zone = s.zone := rfl
@[simp] theorem State.updFe_lidar (s : State) (p : Fin 4) (f : FeSt → FeSt) : (s.updFe p f).lidar = s.lidar := rfl
@[simp] theorem State.updFe_cores (s : State) (p : Fin 4) (f : FeSt → FeSt) : (s.updFe p f).cores = s.cores := rfl
@[simp] theorem State.updFe_cal (s : State) (p : Fin 4) (f : FeSt → FeSt) : (s.updFe p f).cal = s.cal := rfl
@[simp] theorem State.updFe_freeCtr (s : State) (p : Fin 4) (f : FeSt → FeSt) : (s.updFe p f).freeCtr = s.freeCtr := rfl

/-! updCap -/

@[simp] theorem State.updCap_pending (s : State) (p : Fin 4) (f : CapSt → CapSt) : (s.updCap p f).pending = s.pending := rfl
@[simp] theorem State.updCap_regs (s : State) (p : Fin 4) (f : CapSt → CapSt) : (s.updCap p f).regs = s.regs := rfl
@[simp] theorem State.updCap_time (s : State) (p : Fin 4) (f : CapSt → CapSt) : (s.updCap p f).time = s.time := rfl
@[simp] theorem State.updCap_loops (s : State) (p : Fin 4) (f : CapSt → CapSt) : (s.updCap p f).loops = s.loops := rfl
@[simp] theorem State.updCap_xtal (s : State) (p : Fin 4) (f : CapSt → CapSt) : (s.updCap p f).xtal = s.xtal := rfl
@[simp] theorem State.updCap_power (s : State) (p : Fin 4) (f : CapSt → CapSt) : (s.updCap p f).power = s.power := rfl
@[simp] theorem State.updCap_epoch (s : State) (p : Fin 4) (f : CapSt → CapSt) : (s.updCap p f).epoch = s.epoch := rfl
@[simp] theorem State.updCap_host (s : State) (p : Fin 4) (f : CapSt → CapSt) : (s.updCap p f).host = s.host := rfl
@[simp] theorem State.updCap_rings (s : State) (p : Fin 4) (f : CapSt → CapSt) : (s.updCap p f).rings = s.rings := rfl
@[simp] theorem State.updCap_links (s : State) (p : Fin 4) (f : CapSt → CapSt) : (s.updCap p f).links = s.links := rfl
@[simp] theorem State.updCap_alarm (s : State) (p : Fin 4) (f : CapSt → CapSt) : (s.updCap p f).alarm = s.alarm := rfl
@[simp] theorem State.updCap_engs (s : State) (p : Fin 4) (f : CapSt → CapSt) : (s.updCap p f).engs = s.engs := rfl
@[simp] theorem State.updCap_image (s : State) (p : Fin 4) (f : CapSt → CapSt) : (s.updCap p f).image = s.image := rfl
@[simp] theorem State.updCap_mem (s : State) (p : Fin 4) (f : CapSt → CapSt) : (s.updCap p f).mem = s.mem := rfl
@[simp] theorem State.updCap_aux (s : State) (p : Fin 4) (f : CapSt → CapSt) : (s.updCap p f).aux = s.aux := rfl
@[simp] theorem State.updCap_zone (s : State) (p : Fin 4) (f : CapSt → CapSt) : (s.updCap p f).zone = s.zone := rfl
@[simp] theorem State.updCap_lidar (s : State) (p : Fin 4) (f : CapSt → CapSt) : (s.updCap p f).lidar = s.lidar := rfl
@[simp] theorem State.updCap_cores (s : State) (p : Fin 4) (f : CapSt → CapSt) : (s.updCap p f).cores = s.cores := rfl
@[simp] theorem State.updCap_cal (s : State) (p : Fin 4) (f : CapSt → CapSt) : (s.updCap p f).cal = s.cal := rfl
@[simp] theorem State.updCap_freeCtr (s : State) (p : Fin 4) (f : CapSt → CapSt) : (s.updCap p f).freeCtr = s.freeCtr := rfl

/-! updProbe -/

@[simp] theorem State.updProbe_pending (s : State) (p : Fin 4) (f : ProbeSt → ProbeSt) : (s.updProbe p f).pending = s.pending := rfl
@[simp] theorem State.updProbe_regs (s : State) (p : Fin 4) (f : ProbeSt → ProbeSt) : (s.updProbe p f).regs = s.regs := rfl
@[simp] theorem State.updProbe_time (s : State) (p : Fin 4) (f : ProbeSt → ProbeSt) : (s.updProbe p f).time = s.time := rfl
@[simp] theorem State.updProbe_loops (s : State) (p : Fin 4) (f : ProbeSt → ProbeSt) : (s.updProbe p f).loops = s.loops := rfl
@[simp] theorem State.updProbe_xtal (s : State) (p : Fin 4) (f : ProbeSt → ProbeSt) : (s.updProbe p f).xtal = s.xtal := rfl
@[simp] theorem State.updProbe_power (s : State) (p : Fin 4) (f : ProbeSt → ProbeSt) : (s.updProbe p f).power = s.power := rfl
@[simp] theorem State.updProbe_epoch (s : State) (p : Fin 4) (f : ProbeSt → ProbeSt) : (s.updProbe p f).epoch = s.epoch := rfl
@[simp] theorem State.updProbe_host (s : State) (p : Fin 4) (f : ProbeSt → ProbeSt) : (s.updProbe p f).host = s.host := rfl
@[simp] theorem State.updProbe_rings (s : State) (p : Fin 4) (f : ProbeSt → ProbeSt) : (s.updProbe p f).rings = s.rings := rfl
@[simp] theorem State.updProbe_links (s : State) (p : Fin 4) (f : ProbeSt → ProbeSt) : (s.updProbe p f).links = s.links := rfl
@[simp] theorem State.updProbe_alarm (s : State) (p : Fin 4) (f : ProbeSt → ProbeSt) : (s.updProbe p f).alarm = s.alarm := rfl
@[simp] theorem State.updProbe_engs (s : State) (p : Fin 4) (f : ProbeSt → ProbeSt) : (s.updProbe p f).engs = s.engs := rfl
@[simp] theorem State.updProbe_image (s : State) (p : Fin 4) (f : ProbeSt → ProbeSt) : (s.updProbe p f).image = s.image := rfl
@[simp] theorem State.updProbe_mem (s : State) (p : Fin 4) (f : ProbeSt → ProbeSt) : (s.updProbe p f).mem = s.mem := rfl
@[simp] theorem State.updProbe_aux (s : State) (p : Fin 4) (f : ProbeSt → ProbeSt) : (s.updProbe p f).aux = s.aux := rfl
@[simp] theorem State.updProbe_zone (s : State) (p : Fin 4) (f : ProbeSt → ProbeSt) : (s.updProbe p f).zone = s.zone := rfl
@[simp] theorem State.updProbe_lidar (s : State) (p : Fin 4) (f : ProbeSt → ProbeSt) : (s.updProbe p f).lidar = s.lidar := rfl
@[simp] theorem State.updProbe_cores (s : State) (p : Fin 4) (f : ProbeSt → ProbeSt) : (s.updProbe p f).cores = s.cores := rfl
@[simp] theorem State.updProbe_cal (s : State) (p : Fin 4) (f : ProbeSt → ProbeSt) : (s.updProbe p f).cal = s.cal := rfl
@[simp] theorem State.updProbe_freeCtr (s : State) (p : Fin 4) (f : ProbeSt → ProbeSt) : (s.updProbe p f).freeCtr = s.freeCtr := rfl

/-! updRam -/

@[simp] theorem State.updRam_pending (s : State) (p : Fin 4) (f : RamSt → RamSt) : (s.updRam p f).pending = s.pending := rfl
@[simp] theorem State.updRam_regs (s : State) (p : Fin 4) (f : RamSt → RamSt) : (s.updRam p f).regs = s.regs := rfl
@[simp] theorem State.updRam_time (s : State) (p : Fin 4) (f : RamSt → RamSt) : (s.updRam p f).time = s.time := rfl
@[simp] theorem State.updRam_loops (s : State) (p : Fin 4) (f : RamSt → RamSt) : (s.updRam p f).loops = s.loops := rfl
@[simp] theorem State.updRam_xtal (s : State) (p : Fin 4) (f : RamSt → RamSt) : (s.updRam p f).xtal = s.xtal := rfl
@[simp] theorem State.updRam_power (s : State) (p : Fin 4) (f : RamSt → RamSt) : (s.updRam p f).power = s.power := rfl
@[simp] theorem State.updRam_epoch (s : State) (p : Fin 4) (f : RamSt → RamSt) : (s.updRam p f).epoch = s.epoch := rfl
@[simp] theorem State.updRam_host (s : State) (p : Fin 4) (f : RamSt → RamSt) : (s.updRam p f).host = s.host := rfl
@[simp] theorem State.updRam_rings (s : State) (p : Fin 4) (f : RamSt → RamSt) : (s.updRam p f).rings = s.rings := rfl
@[simp] theorem State.updRam_links (s : State) (p : Fin 4) (f : RamSt → RamSt) : (s.updRam p f).links = s.links := rfl
@[simp] theorem State.updRam_alarm (s : State) (p : Fin 4) (f : RamSt → RamSt) : (s.updRam p f).alarm = s.alarm := rfl
@[simp] theorem State.updRam_engs (s : State) (p : Fin 4) (f : RamSt → RamSt) : (s.updRam p f).engs = s.engs := rfl
@[simp] theorem State.updRam_image (s : State) (p : Fin 4) (f : RamSt → RamSt) : (s.updRam p f).image = s.image := rfl
@[simp] theorem State.updRam_mem (s : State) (p : Fin 4) (f : RamSt → RamSt) : (s.updRam p f).mem = s.mem := rfl
@[simp] theorem State.updRam_aux (s : State) (p : Fin 4) (f : RamSt → RamSt) : (s.updRam p f).aux = s.aux := rfl
@[simp] theorem State.updRam_zone (s : State) (p : Fin 4) (f : RamSt → RamSt) : (s.updRam p f).zone = s.zone := rfl
@[simp] theorem State.updRam_lidar (s : State) (p : Fin 4) (f : RamSt → RamSt) : (s.updRam p f).lidar = s.lidar := rfl
@[simp] theorem State.updRam_cores (s : State) (p : Fin 4) (f : RamSt → RamSt) : (s.updRam p f).cores = s.cores := rfl
@[simp] theorem State.updRam_cal (s : State) (p : Fin 4) (f : RamSt → RamSt) : (s.updRam p f).cal = s.cal := rfl
@[simp] theorem State.updRam_freeCtr (s : State) (p : Fin 4) (f : RamSt → RamSt) : (s.updRam p f).freeCtr = s.freeCtr := rfl

/-! updDas -/

@[simp] theorem State.updDas_pending (s : State) (p : Fin 4) (f : DasSt → DasSt) : (s.updDas p f).pending = s.pending := rfl
@[simp] theorem State.updDas_regs (s : State) (p : Fin 4) (f : DasSt → DasSt) : (s.updDas p f).regs = s.regs := rfl
@[simp] theorem State.updDas_time (s : State) (p : Fin 4) (f : DasSt → DasSt) : (s.updDas p f).time = s.time := rfl
@[simp] theorem State.updDas_loops (s : State) (p : Fin 4) (f : DasSt → DasSt) : (s.updDas p f).loops = s.loops := rfl
@[simp] theorem State.updDas_xtal (s : State) (p : Fin 4) (f : DasSt → DasSt) : (s.updDas p f).xtal = s.xtal := rfl
@[simp] theorem State.updDas_power (s : State) (p : Fin 4) (f : DasSt → DasSt) : (s.updDas p f).power = s.power := rfl
@[simp] theorem State.updDas_epoch (s : State) (p : Fin 4) (f : DasSt → DasSt) : (s.updDas p f).epoch = s.epoch := rfl
@[simp] theorem State.updDas_host (s : State) (p : Fin 4) (f : DasSt → DasSt) : (s.updDas p f).host = s.host := rfl
@[simp] theorem State.updDas_rings (s : State) (p : Fin 4) (f : DasSt → DasSt) : (s.updDas p f).rings = s.rings := rfl
@[simp] theorem State.updDas_links (s : State) (p : Fin 4) (f : DasSt → DasSt) : (s.updDas p f).links = s.links := rfl
@[simp] theorem State.updDas_alarm (s : State) (p : Fin 4) (f : DasSt → DasSt) : (s.updDas p f).alarm = s.alarm := rfl
@[simp] theorem State.updDas_engs (s : State) (p : Fin 4) (f : DasSt → DasSt) : (s.updDas p f).engs = s.engs := rfl
@[simp] theorem State.updDas_image (s : State) (p : Fin 4) (f : DasSt → DasSt) : (s.updDas p f).image = s.image := rfl
@[simp] theorem State.updDas_mem (s : State) (p : Fin 4) (f : DasSt → DasSt) : (s.updDas p f).mem = s.mem := rfl
@[simp] theorem State.updDas_aux (s : State) (p : Fin 4) (f : DasSt → DasSt) : (s.updDas p f).aux = s.aux := rfl
@[simp] theorem State.updDas_zone (s : State) (p : Fin 4) (f : DasSt → DasSt) : (s.updDas p f).zone = s.zone := rfl
@[simp] theorem State.updDas_lidar (s : State) (p : Fin 4) (f : DasSt → DasSt) : (s.updDas p f).lidar = s.lidar := rfl
@[simp] theorem State.updDas_cores (s : State) (p : Fin 4) (f : DasSt → DasSt) : (s.updDas p f).cores = s.cores := rfl
@[simp] theorem State.updDas_cal (s : State) (p : Fin 4) (f : DasSt → DasSt) : (s.updDas p f).cal = s.cal := rfl
@[simp] theorem State.updDas_freeCtr (s : State) (p : Fin 4) (f : DasSt → DasSt) : (s.updDas p f).freeCtr = s.freeCtr := rfl

/-! updRange -/

@[simp] theorem State.updRange_pending (s : State) (p : Fin 4) (r : Fin 16) (f : RangeSt → RangeSt) : (s.updRange p r f).pending = s.pending := rfl
@[simp] theorem State.updRange_regs (s : State) (p : Fin 4) (r : Fin 16) (f : RangeSt → RangeSt) : (s.updRange p r f).regs = s.regs := rfl
@[simp] theorem State.updRange_time (s : State) (p : Fin 4) (r : Fin 16) (f : RangeSt → RangeSt) : (s.updRange p r f).time = s.time := rfl
@[simp] theorem State.updRange_loops (s : State) (p : Fin 4) (r : Fin 16) (f : RangeSt → RangeSt) : (s.updRange p r f).loops = s.loops := rfl
@[simp] theorem State.updRange_xtal (s : State) (p : Fin 4) (r : Fin 16) (f : RangeSt → RangeSt) : (s.updRange p r f).xtal = s.xtal := rfl
@[simp] theorem State.updRange_power (s : State) (p : Fin 4) (r : Fin 16) (f : RangeSt → RangeSt) : (s.updRange p r f).power = s.power := rfl
@[simp] theorem State.updRange_epoch (s : State) (p : Fin 4) (r : Fin 16) (f : RangeSt → RangeSt) : (s.updRange p r f).epoch = s.epoch := rfl
@[simp] theorem State.updRange_host (s : State) (p : Fin 4) (r : Fin 16) (f : RangeSt → RangeSt) : (s.updRange p r f).host = s.host := rfl
@[simp] theorem State.updRange_rings (s : State) (p : Fin 4) (r : Fin 16) (f : RangeSt → RangeSt) : (s.updRange p r f).rings = s.rings := rfl
@[simp] theorem State.updRange_links (s : State) (p : Fin 4) (r : Fin 16) (f : RangeSt → RangeSt) : (s.updRange p r f).links = s.links := rfl
@[simp] theorem State.updRange_alarm (s : State) (p : Fin 4) (r : Fin 16) (f : RangeSt → RangeSt) : (s.updRange p r f).alarm = s.alarm := rfl
@[simp] theorem State.updRange_engs (s : State) (p : Fin 4) (r : Fin 16) (f : RangeSt → RangeSt) : (s.updRange p r f).engs = s.engs := rfl
@[simp] theorem State.updRange_image (s : State) (p : Fin 4) (r : Fin 16) (f : RangeSt → RangeSt) : (s.updRange p r f).image = s.image := rfl
@[simp] theorem State.updRange_mem (s : State) (p : Fin 4) (r : Fin 16) (f : RangeSt → RangeSt) : (s.updRange p r f).mem = s.mem := rfl
@[simp] theorem State.updRange_aux (s : State) (p : Fin 4) (r : Fin 16) (f : RangeSt → RangeSt) : (s.updRange p r f).aux = s.aux := rfl
@[simp] theorem State.updRange_zone (s : State) (p : Fin 4) (r : Fin 16) (f : RangeSt → RangeSt) : (s.updRange p r f).zone = s.zone := rfl
@[simp] theorem State.updRange_lidar (s : State) (p : Fin 4) (r : Fin 16) (f : RangeSt → RangeSt) : (s.updRange p r f).lidar = s.lidar := rfl
@[simp] theorem State.updRange_cores (s : State) (p : Fin 4) (r : Fin 16) (f : RangeSt → RangeSt) : (s.updRange p r f).cores = s.cores := rfl
@[simp] theorem State.updRange_cal (s : State) (p : Fin 4) (r : Fin 16) (f : RangeSt → RangeSt) : (s.updRange p r f).cal = s.cal := rfl
@[simp] theorem State.updRange_freeCtr (s : State) (p : Fin 4) (r : Fin 16) (f : RangeSt → RangeSt) : (s.updRange p r f).freeCtr = s.freeCtr := rfl

/-! updEv -/

@[simp] theorem State.updEv_pending (s : State) (p : Fin 4) (f : EvCapSt → EvCapSt) : (s.updEv p f).pending = s.pending := rfl
@[simp] theorem State.updEv_regs (s : State) (p : Fin 4) (f : EvCapSt → EvCapSt) : (s.updEv p f).regs = s.regs := rfl
@[simp] theorem State.updEv_time (s : State) (p : Fin 4) (f : EvCapSt → EvCapSt) : (s.updEv p f).time = s.time := rfl
@[simp] theorem State.updEv_loops (s : State) (p : Fin 4) (f : EvCapSt → EvCapSt) : (s.updEv p f).loops = s.loops := rfl
@[simp] theorem State.updEv_xtal (s : State) (p : Fin 4) (f : EvCapSt → EvCapSt) : (s.updEv p f).xtal = s.xtal := rfl
@[simp] theorem State.updEv_power (s : State) (p : Fin 4) (f : EvCapSt → EvCapSt) : (s.updEv p f).power = s.power := rfl
@[simp] theorem State.updEv_epoch (s : State) (p : Fin 4) (f : EvCapSt → EvCapSt) : (s.updEv p f).epoch = s.epoch := rfl
@[simp] theorem State.updEv_host (s : State) (p : Fin 4) (f : EvCapSt → EvCapSt) : (s.updEv p f).host = s.host := rfl
@[simp] theorem State.updEv_rings (s : State) (p : Fin 4) (f : EvCapSt → EvCapSt) : (s.updEv p f).rings = s.rings := rfl
@[simp] theorem State.updEv_links (s : State) (p : Fin 4) (f : EvCapSt → EvCapSt) : (s.updEv p f).links = s.links := rfl
@[simp] theorem State.updEv_alarm (s : State) (p : Fin 4) (f : EvCapSt → EvCapSt) : (s.updEv p f).alarm = s.alarm := rfl
@[simp] theorem State.updEv_engs (s : State) (p : Fin 4) (f : EvCapSt → EvCapSt) : (s.updEv p f).engs = s.engs := rfl
@[simp] theorem State.updEv_image (s : State) (p : Fin 4) (f : EvCapSt → EvCapSt) : (s.updEv p f).image = s.image := rfl
@[simp] theorem State.updEv_mem (s : State) (p : Fin 4) (f : EvCapSt → EvCapSt) : (s.updEv p f).mem = s.mem := rfl
@[simp] theorem State.updEv_aux (s : State) (p : Fin 4) (f : EvCapSt → EvCapSt) : (s.updEv p f).aux = s.aux := rfl
@[simp] theorem State.updEv_zone (s : State) (p : Fin 4) (f : EvCapSt → EvCapSt) : (s.updEv p f).zone = s.zone := rfl
@[simp] theorem State.updEv_lidar (s : State) (p : Fin 4) (f : EvCapSt → EvCapSt) : (s.updEv p f).lidar = s.lidar := rfl
@[simp] theorem State.updEv_cores (s : State) (p : Fin 4) (f : EvCapSt → EvCapSt) : (s.updEv p f).cores = s.cores := rfl
@[simp] theorem State.updEv_cal (s : State) (p : Fin 4) (f : EvCapSt → EvCapSt) : (s.updEv p f).cal = s.cal := rfl
@[simp] theorem State.updEv_freeCtr (s : State) (p : Fin 4) (f : EvCapSt → EvCapSt) : (s.updEv p f).freeCtr = s.freeCtr := rfl

/-! updChain -/

@[simp] theorem State.updChain_pending (s : State) (p : Fin 4) (f : ChainSt → ChainSt) : (s.updChain p f).pending = s.pending := rfl
@[simp] theorem State.updChain_regs (s : State) (p : Fin 4) (f : ChainSt → ChainSt) : (s.updChain p f).regs = s.regs := rfl
@[simp] theorem State.updChain_time (s : State) (p : Fin 4) (f : ChainSt → ChainSt) : (s.updChain p f).time = s.time := rfl
@[simp] theorem State.updChain_loops (s : State) (p : Fin 4) (f : ChainSt → ChainSt) : (s.updChain p f).loops = s.loops := rfl
@[simp] theorem State.updChain_xtal (s : State) (p : Fin 4) (f : ChainSt → ChainSt) : (s.updChain p f).xtal = s.xtal := rfl
@[simp] theorem State.updChain_power (s : State) (p : Fin 4) (f : ChainSt → ChainSt) : (s.updChain p f).power = s.power := rfl
@[simp] theorem State.updChain_epoch (s : State) (p : Fin 4) (f : ChainSt → ChainSt) : (s.updChain p f).epoch = s.epoch := rfl
@[simp] theorem State.updChain_host (s : State) (p : Fin 4) (f : ChainSt → ChainSt) : (s.updChain p f).host = s.host := rfl
@[simp] theorem State.updChain_rings (s : State) (p : Fin 4) (f : ChainSt → ChainSt) : (s.updChain p f).rings = s.rings := rfl
@[simp] theorem State.updChain_links (s : State) (p : Fin 4) (f : ChainSt → ChainSt) : (s.updChain p f).links = s.links := rfl
@[simp] theorem State.updChain_alarm (s : State) (p : Fin 4) (f : ChainSt → ChainSt) : (s.updChain p f).alarm = s.alarm := rfl
@[simp] theorem State.updChain_engs (s : State) (p : Fin 4) (f : ChainSt → ChainSt) : (s.updChain p f).engs = s.engs := rfl
@[simp] theorem State.updChain_image (s : State) (p : Fin 4) (f : ChainSt → ChainSt) : (s.updChain p f).image = s.image := rfl
@[simp] theorem State.updChain_mem (s : State) (p : Fin 4) (f : ChainSt → ChainSt) : (s.updChain p f).mem = s.mem := rfl
@[simp] theorem State.updChain_aux (s : State) (p : Fin 4) (f : ChainSt → ChainSt) : (s.updChain p f).aux = s.aux := rfl
@[simp] theorem State.updChain_zone (s : State) (p : Fin 4) (f : ChainSt → ChainSt) : (s.updChain p f).zone = s.zone := rfl
@[simp] theorem State.updChain_lidar (s : State) (p : Fin 4) (f : ChainSt → ChainSt) : (s.updChain p f).lidar = s.lidar := rfl
@[simp] theorem State.updChain_cores (s : State) (p : Fin 4) (f : ChainSt → ChainSt) : (s.updChain p f).cores = s.cores := rfl
@[simp] theorem State.updChain_cal (s : State) (p : Fin 4) (f : ChainSt → ChainSt) : (s.updChain p f).cal = s.cal := rfl
@[simp] theorem State.updChain_freeCtr (s : State) (p : Fin 4) (f : ChainSt → ChainSt) : (s.updChain p f).freeCtr = s.freeCtr := rfl

/-! updAux -/

@[simp] theorem State.updAux_pending (s : State) (f : AuxSt → AuxSt) : (s.updAux f).pending = s.pending := rfl
@[simp] theorem State.updAux_regs (s : State) (f : AuxSt → AuxSt) : (s.updAux f).regs = s.regs := rfl
@[simp] theorem State.updAux_time (s : State) (f : AuxSt → AuxSt) : (s.updAux f).time = s.time := rfl
@[simp] theorem State.updAux_loops (s : State) (f : AuxSt → AuxSt) : (s.updAux f).loops = s.loops := rfl
@[simp] theorem State.updAux_xtal (s : State) (f : AuxSt → AuxSt) : (s.updAux f).xtal = s.xtal := rfl
@[simp] theorem State.updAux_power (s : State) (f : AuxSt → AuxSt) : (s.updAux f).power = s.power := rfl
@[simp] theorem State.updAux_epoch (s : State) (f : AuxSt → AuxSt) : (s.updAux f).epoch = s.epoch := rfl
@[simp] theorem State.updAux_host (s : State) (f : AuxSt → AuxSt) : (s.updAux f).host = s.host := rfl
@[simp] theorem State.updAux_rings (s : State) (f : AuxSt → AuxSt) : (s.updAux f).rings = s.rings := rfl
@[simp] theorem State.updAux_links (s : State) (f : AuxSt → AuxSt) : (s.updAux f).links = s.links := rfl
@[simp] theorem State.updAux_alarm (s : State) (f : AuxSt → AuxSt) : (s.updAux f).alarm = s.alarm := rfl
@[simp] theorem State.updAux_engs (s : State) (f : AuxSt → AuxSt) : (s.updAux f).engs = s.engs := rfl
@[simp] theorem State.updAux_image (s : State) (f : AuxSt → AuxSt) : (s.updAux f).image = s.image := rfl
@[simp] theorem State.updAux_mem (s : State) (f : AuxSt → AuxSt) : (s.updAux f).mem = s.mem := rfl
@[simp] theorem State.updAux_ports (s : State) (f : AuxSt → AuxSt) : (s.updAux f).ports = s.ports := rfl
@[simp] theorem State.updAux_zone (s : State) (f : AuxSt → AuxSt) : (s.updAux f).zone = s.zone := rfl
@[simp] theorem State.updAux_lidar (s : State) (f : AuxSt → AuxSt) : (s.updAux f).lidar = s.lidar := rfl
@[simp] theorem State.updAux_cores (s : State) (f : AuxSt → AuxSt) : (s.updAux f).cores = s.cores := rfl
@[simp] theorem State.updAux_cal (s : State) (f : AuxSt → AuxSt) : (s.updAux f).cal = s.cal := rfl
@[simp] theorem State.updAux_freeCtr (s : State) (f : AuxSt → AuxSt) : (s.updAux f).freeCtr = s.freeCtr := rfl

/-! updTc -/

@[simp] theorem State.updTc_pending (s : State) (k : Fin 4) (f : TcSt → TcSt) : (s.updTc k f).pending = s.pending := rfl
@[simp] theorem State.updTc_regs (s : State) (k : Fin 4) (f : TcSt → TcSt) : (s.updTc k f).regs = s.regs := rfl
@[simp] theorem State.updTc_time (s : State) (k : Fin 4) (f : TcSt → TcSt) : (s.updTc k f).time = s.time := rfl
@[simp] theorem State.updTc_loops (s : State) (k : Fin 4) (f : TcSt → TcSt) : (s.updTc k f).loops = s.loops := rfl
@[simp] theorem State.updTc_xtal (s : State) (k : Fin 4) (f : TcSt → TcSt) : (s.updTc k f).xtal = s.xtal := rfl
@[simp] theorem State.updTc_power (s : State) (k : Fin 4) (f : TcSt → TcSt) : (s.updTc k f).power = s.power := rfl
@[simp] theorem State.updTc_epoch (s : State) (k : Fin 4) (f : TcSt → TcSt) : (s.updTc k f).epoch = s.epoch := rfl
@[simp] theorem State.updTc_host (s : State) (k : Fin 4) (f : TcSt → TcSt) : (s.updTc k f).host = s.host := rfl
@[simp] theorem State.updTc_rings (s : State) (k : Fin 4) (f : TcSt → TcSt) : (s.updTc k f).rings = s.rings := rfl
@[simp] theorem State.updTc_links (s : State) (k : Fin 4) (f : TcSt → TcSt) : (s.updTc k f).links = s.links := rfl
@[simp] theorem State.updTc_alarm (s : State) (k : Fin 4) (f : TcSt → TcSt) : (s.updTc k f).alarm = s.alarm := rfl
@[simp] theorem State.updTc_engs (s : State) (k : Fin 4) (f : TcSt → TcSt) : (s.updTc k f).engs = s.engs := rfl
@[simp] theorem State.updTc_image (s : State) (k : Fin 4) (f : TcSt → TcSt) : (s.updTc k f).image = s.image := rfl
@[simp] theorem State.updTc_mem (s : State) (k : Fin 4) (f : TcSt → TcSt) : (s.updTc k f).mem = s.mem := rfl
@[simp] theorem State.updTc_ports (s : State) (k : Fin 4) (f : TcSt → TcSt) : (s.updTc k f).ports = s.ports := rfl
@[simp] theorem State.updTc_zone (s : State) (k : Fin 4) (f : TcSt → TcSt) : (s.updTc k f).zone = s.zone := rfl
@[simp] theorem State.updTc_lidar (s : State) (k : Fin 4) (f : TcSt → TcSt) : (s.updTc k f).lidar = s.lidar := rfl
@[simp] theorem State.updTc_cores (s : State) (k : Fin 4) (f : TcSt → TcSt) : (s.updTc k f).cores = s.cores := rfl
@[simp] theorem State.updTc_cal (s : State) (k : Fin 4) (f : TcSt → TcSt) : (s.updTc k f).cal = s.cal := rfl
@[simp] theorem State.updTc_freeCtr (s : State) (k : Fin 4) (f : TcSt → TcSt) : (s.updTc k f).freeCtr = s.freeCtr := rfl

/-! updLidar -/

@[simp] theorem State.updLidar_pending (s : State) (f : LidarSt → LidarSt) : (s.updLidar f).pending = s.pending := rfl
@[simp] theorem State.updLidar_regs (s : State) (f : LidarSt → LidarSt) : (s.updLidar f).regs = s.regs := rfl
@[simp] theorem State.updLidar_time (s : State) (f : LidarSt → LidarSt) : (s.updLidar f).time = s.time := rfl
@[simp] theorem State.updLidar_loops (s : State) (f : LidarSt → LidarSt) : (s.updLidar f).loops = s.loops := rfl
@[simp] theorem State.updLidar_xtal (s : State) (f : LidarSt → LidarSt) : (s.updLidar f).xtal = s.xtal := rfl
@[simp] theorem State.updLidar_power (s : State) (f : LidarSt → LidarSt) : (s.updLidar f).power = s.power := rfl
@[simp] theorem State.updLidar_epoch (s : State) (f : LidarSt → LidarSt) : (s.updLidar f).epoch = s.epoch := rfl
@[simp] theorem State.updLidar_host (s : State) (f : LidarSt → LidarSt) : (s.updLidar f).host = s.host := rfl
@[simp] theorem State.updLidar_rings (s : State) (f : LidarSt → LidarSt) : (s.updLidar f).rings = s.rings := rfl
@[simp] theorem State.updLidar_links (s : State) (f : LidarSt → LidarSt) : (s.updLidar f).links = s.links := rfl
@[simp] theorem State.updLidar_alarm (s : State) (f : LidarSt → LidarSt) : (s.updLidar f).alarm = s.alarm := rfl
@[simp] theorem State.updLidar_engs (s : State) (f : LidarSt → LidarSt) : (s.updLidar f).engs = s.engs := rfl
@[simp] theorem State.updLidar_image (s : State) (f : LidarSt → LidarSt) : (s.updLidar f).image = s.image := rfl
@[simp] theorem State.updLidar_mem (s : State) (f : LidarSt → LidarSt) : (s.updLidar f).mem = s.mem := rfl
@[simp] theorem State.updLidar_ports (s : State) (f : LidarSt → LidarSt) : (s.updLidar f).ports = s.ports := rfl
@[simp] theorem State.updLidar_aux (s : State) (f : LidarSt → LidarSt) : (s.updLidar f).aux = s.aux := rfl
@[simp] theorem State.updLidar_zone (s : State) (f : LidarSt → LidarSt) : (s.updLidar f).zone = s.zone := rfl
@[simp] theorem State.updLidar_cores (s : State) (f : LidarSt → LidarSt) : (s.updLidar f).cores = s.cores := rfl
@[simp] theorem State.updLidar_cal (s : State) (f : LidarSt → LidarSt) : (s.updLidar f).cal = s.cal := rfl
@[simp] theorem State.updLidar_freeCtr (s : State) (f : LidarSt → LidarSt) : (s.updLidar f).freeCtr = s.freeCtr := rfl

/-! updLane -/

@[simp] theorem State.updLane_pending (s : State) (l : Nat) (f : LaneSt → LaneSt) : (s.updLane l f).pending = s.pending := rfl
@[simp] theorem State.updLane_regs (s : State) (l : Nat) (f : LaneSt → LaneSt) : (s.updLane l f).regs = s.regs := rfl
@[simp] theorem State.updLane_time (s : State) (l : Nat) (f : LaneSt → LaneSt) : (s.updLane l f).time = s.time := rfl
@[simp] theorem State.updLane_loops (s : State) (l : Nat) (f : LaneSt → LaneSt) : (s.updLane l f).loops = s.loops := rfl
@[simp] theorem State.updLane_xtal (s : State) (l : Nat) (f : LaneSt → LaneSt) : (s.updLane l f).xtal = s.xtal := rfl
@[simp] theorem State.updLane_power (s : State) (l : Nat) (f : LaneSt → LaneSt) : (s.updLane l f).power = s.power := rfl
@[simp] theorem State.updLane_epoch (s : State) (l : Nat) (f : LaneSt → LaneSt) : (s.updLane l f).epoch = s.epoch := rfl
@[simp] theorem State.updLane_host (s : State) (l : Nat) (f : LaneSt → LaneSt) : (s.updLane l f).host = s.host := rfl
@[simp] theorem State.updLane_rings (s : State) (l : Nat) (f : LaneSt → LaneSt) : (s.updLane l f).rings = s.rings := rfl
@[simp] theorem State.updLane_links (s : State) (l : Nat) (f : LaneSt → LaneSt) : (s.updLane l f).links = s.links := rfl
@[simp] theorem State.updLane_alarm (s : State) (l : Nat) (f : LaneSt → LaneSt) : (s.updLane l f).alarm = s.alarm := rfl
@[simp] theorem State.updLane_engs (s : State) (l : Nat) (f : LaneSt → LaneSt) : (s.updLane l f).engs = s.engs := rfl
@[simp] theorem State.updLane_image (s : State) (l : Nat) (f : LaneSt → LaneSt) : (s.updLane l f).image = s.image := rfl
@[simp] theorem State.updLane_mem (s : State) (l : Nat) (f : LaneSt → LaneSt) : (s.updLane l f).mem = s.mem := rfl
@[simp] theorem State.updLane_ports (s : State) (l : Nat) (f : LaneSt → LaneSt) : (s.updLane l f).ports = s.ports := rfl
@[simp] theorem State.updLane_aux (s : State) (l : Nat) (f : LaneSt → LaneSt) : (s.updLane l f).aux = s.aux := rfl
@[simp] theorem State.updLane_zone (s : State) (l : Nat) (f : LaneSt → LaneSt) : (s.updLane l f).zone = s.zone := rfl
@[simp] theorem State.updLane_cores (s : State) (l : Nat) (f : LaneSt → LaneSt) : (s.updLane l f).cores = s.cores := rfl
@[simp] theorem State.updLane_cal (s : State) (l : Nat) (f : LaneSt → LaneSt) : (s.updLane l f).cal = s.cal := rfl
@[simp] theorem State.updLane_freeCtr (s : State) (l : Nat) (f : LaneSt → LaneSt) : (s.updLane l f).freeCtr = s.freeCtr := rfl

/-! updChannel -/

@[simp] theorem State.updChannel_pending (s : State) (c : Fin 16) (f : RegChan → RegChan) : (s.updChannel c f).pending = s.pending := rfl
@[simp] theorem State.updChannel_regs (s : State) (c : Fin 16) (f : RegChan → RegChan) : (s.updChannel c f).regs = s.regs := rfl
@[simp] theorem State.updChannel_time (s : State) (c : Fin 16) (f : RegChan → RegChan) : (s.updChannel c f).time = s.time := rfl
@[simp] theorem State.updChannel_loops (s : State) (c : Fin 16) (f : RegChan → RegChan) : (s.updChannel c f).loops = s.loops := rfl
@[simp] theorem State.updChannel_xtal (s : State) (c : Fin 16) (f : RegChan → RegChan) : (s.updChannel c f).xtal = s.xtal := rfl
@[simp] theorem State.updChannel_power (s : State) (c : Fin 16) (f : RegChan → RegChan) : (s.updChannel c f).power = s.power := rfl
@[simp] theorem State.updChannel_epoch (s : State) (c : Fin 16) (f : RegChan → RegChan) : (s.updChannel c f).epoch = s.epoch := rfl
@[simp] theorem State.updChannel_host (s : State) (c : Fin 16) (f : RegChan → RegChan) : (s.updChannel c f).host = s.host := rfl
@[simp] theorem State.updChannel_rings (s : State) (c : Fin 16) (f : RegChan → RegChan) : (s.updChannel c f).rings = s.rings := rfl
@[simp] theorem State.updChannel_links (s : State) (c : Fin 16) (f : RegChan → RegChan) : (s.updChannel c f).links = s.links := rfl
@[simp] theorem State.updChannel_alarm (s : State) (c : Fin 16) (f : RegChan → RegChan) : (s.updChannel c f).alarm = s.alarm := rfl
@[simp] theorem State.updChannel_engs (s : State) (c : Fin 16) (f : RegChan → RegChan) : (s.updChannel c f).engs = s.engs := rfl
@[simp] theorem State.updChannel_image (s : State) (c : Fin 16) (f : RegChan → RegChan) : (s.updChannel c f).image = s.image := rfl
@[simp] theorem State.updChannel_mem (s : State) (c : Fin 16) (f : RegChan → RegChan) : (s.updChannel c f).mem = s.mem := rfl
@[simp] theorem State.updChannel_ports (s : State) (c : Fin 16) (f : RegChan → RegChan) : (s.updChannel c f).ports = s.ports := rfl
@[simp] theorem State.updChannel_aux (s : State) (c : Fin 16) (f : RegChan → RegChan) : (s.updChannel c f).aux = s.aux := rfl
@[simp] theorem State.updChannel_zone (s : State) (c : Fin 16) (f : RegChan → RegChan) : (s.updChannel c f).zone = s.zone := rfl
@[simp] theorem State.updChannel_cores (s : State) (c : Fin 16) (f : RegChan → RegChan) : (s.updChannel c f).cores = s.cores := rfl
@[simp] theorem State.updChannel_cal (s : State) (c : Fin 16) (f : RegChan → RegChan) : (s.updChannel c f).cal = s.cal := rfl
@[simp] theorem State.updChannel_freeCtr (s : State) (c : Fin 16) (f : RegChan → RegChan) : (s.updChannel c f).freeCtr = s.freeCtr := rfl

/-! updScan -/

@[simp] theorem State.updScan_pending (s : State) (k : Fin 2) (f : ScanSt → ScanSt) : (s.updScan k f).pending = s.pending := rfl
@[simp] theorem State.updScan_regs (s : State) (k : Fin 2) (f : ScanSt → ScanSt) : (s.updScan k f).regs = s.regs := rfl
@[simp] theorem State.updScan_time (s : State) (k : Fin 2) (f : ScanSt → ScanSt) : (s.updScan k f).time = s.time := rfl
@[simp] theorem State.updScan_loops (s : State) (k : Fin 2) (f : ScanSt → ScanSt) : (s.updScan k f).loops = s.loops := rfl
@[simp] theorem State.updScan_xtal (s : State) (k : Fin 2) (f : ScanSt → ScanSt) : (s.updScan k f).xtal = s.xtal := rfl
@[simp] theorem State.updScan_power (s : State) (k : Fin 2) (f : ScanSt → ScanSt) : (s.updScan k f).power = s.power := rfl
@[simp] theorem State.updScan_epoch (s : State) (k : Fin 2) (f : ScanSt → ScanSt) : (s.updScan k f).epoch = s.epoch := rfl
@[simp] theorem State.updScan_host (s : State) (k : Fin 2) (f : ScanSt → ScanSt) : (s.updScan k f).host = s.host := rfl
@[simp] theorem State.updScan_rings (s : State) (k : Fin 2) (f : ScanSt → ScanSt) : (s.updScan k f).rings = s.rings := rfl
@[simp] theorem State.updScan_links (s : State) (k : Fin 2) (f : ScanSt → ScanSt) : (s.updScan k f).links = s.links := rfl
@[simp] theorem State.updScan_alarm (s : State) (k : Fin 2) (f : ScanSt → ScanSt) : (s.updScan k f).alarm = s.alarm := rfl
@[simp] theorem State.updScan_engs (s : State) (k : Fin 2) (f : ScanSt → ScanSt) : (s.updScan k f).engs = s.engs := rfl
@[simp] theorem State.updScan_image (s : State) (k : Fin 2) (f : ScanSt → ScanSt) : (s.updScan k f).image = s.image := rfl
@[simp] theorem State.updScan_mem (s : State) (k : Fin 2) (f : ScanSt → ScanSt) : (s.updScan k f).mem = s.mem := rfl
@[simp] theorem State.updScan_ports (s : State) (k : Fin 2) (f : ScanSt → ScanSt) : (s.updScan k f).ports = s.ports := rfl
@[simp] theorem State.updScan_aux (s : State) (k : Fin 2) (f : ScanSt → ScanSt) : (s.updScan k f).aux = s.aux := rfl
@[simp] theorem State.updScan_zone (s : State) (k : Fin 2) (f : ScanSt → ScanSt) : (s.updScan k f).zone = s.zone := rfl
@[simp] theorem State.updScan_cores (s : State) (k : Fin 2) (f : ScanSt → ScanSt) : (s.updScan k f).cores = s.cores := rfl
@[simp] theorem State.updScan_cal (s : State) (k : Fin 2) (f : ScanSt → ScanSt) : (s.updScan k f).cal = s.cal := rfl
@[simp] theorem State.updScan_freeCtr (s : State) (k : Fin 2) (f : ScanSt → ScanSt) : (s.updScan k f).freeCtr = s.freeCtr := rfl

/-! updE -/

@[simp] theorem State.updE_pending (s : State) (e : Fin 8) (f : EPort → EPort) : (s.updE e f).pending = s.pending := rfl
@[simp] theorem State.updE_regs (s : State) (e : Fin 8) (f : EPort → EPort) : (s.updE e f).regs = s.regs := rfl
@[simp] theorem State.updE_time (s : State) (e : Fin 8) (f : EPort → EPort) : (s.updE e f).time = s.time := rfl
@[simp] theorem State.updE_loops (s : State) (e : Fin 8) (f : EPort → EPort) : (s.updE e f).loops = s.loops := rfl
@[simp] theorem State.updE_xtal (s : State) (e : Fin 8) (f : EPort → EPort) : (s.updE e f).xtal = s.xtal := rfl
@[simp] theorem State.updE_power (s : State) (e : Fin 8) (f : EPort → EPort) : (s.updE e f).power = s.power := rfl
@[simp] theorem State.updE_epoch (s : State) (e : Fin 8) (f : EPort → EPort) : (s.updE e f).epoch = s.epoch := rfl
@[simp] theorem State.updE_host (s : State) (e : Fin 8) (f : EPort → EPort) : (s.updE e f).host = s.host := rfl
@[simp] theorem State.updE_rings (s : State) (e : Fin 8) (f : EPort → EPort) : (s.updE e f).rings = s.rings := rfl
@[simp] theorem State.updE_links (s : State) (e : Fin 8) (f : EPort → EPort) : (s.updE e f).links = s.links := rfl
@[simp] theorem State.updE_alarm (s : State) (e : Fin 8) (f : EPort → EPort) : (s.updE e f).alarm = s.alarm := rfl
@[simp] theorem State.updE_engs (s : State) (e : Fin 8) (f : EPort → EPort) : (s.updE e f).engs = s.engs := rfl
@[simp] theorem State.updE_image (s : State) (e : Fin 8) (f : EPort → EPort) : (s.updE e f).image = s.image := rfl
@[simp] theorem State.updE_mem (s : State) (e : Fin 8) (f : EPort → EPort) : (s.updE e f).mem = s.mem := rfl
@[simp] theorem State.updE_ports (s : State) (e : Fin 8) (f : EPort → EPort) : (s.updE e f).ports = s.ports := rfl
@[simp] theorem State.updE_aux (s : State) (e : Fin 8) (f : EPort → EPort) : (s.updE e f).aux = s.aux := rfl
@[simp] theorem State.updE_zone (s : State) (e : Fin 8) (f : EPort → EPort) : (s.updE e f).zone = s.zone := rfl
@[simp] theorem State.updE_cores (s : State) (e : Fin 8) (f : EPort → EPort) : (s.updE e f).cores = s.cores := rfl
@[simp] theorem State.updE_cal (s : State) (e : Fin 8) (f : EPort → EPort) : (s.updE e f).cal = s.cal := rfl
@[simp] theorem State.updE_freeCtr (s : State) (e : Fin 8) (f : EPort → EPort) : (s.updE e f).freeCtr = s.freeCtr := rfl

/-! updCtl -/

@[simp] theorem State.updCtl_pending (s : State) (f : EmtSt → EmtSt) : (s.updCtl f).pending = s.pending := rfl
@[simp] theorem State.updCtl_regs (s : State) (f : EmtSt → EmtSt) : (s.updCtl f).regs = s.regs := rfl
@[simp] theorem State.updCtl_time (s : State) (f : EmtSt → EmtSt) : (s.updCtl f).time = s.time := rfl
@[simp] theorem State.updCtl_loops (s : State) (f : EmtSt → EmtSt) : (s.updCtl f).loops = s.loops := rfl
@[simp] theorem State.updCtl_xtal (s : State) (f : EmtSt → EmtSt) : (s.updCtl f).xtal = s.xtal := rfl
@[simp] theorem State.updCtl_power (s : State) (f : EmtSt → EmtSt) : (s.updCtl f).power = s.power := rfl
@[simp] theorem State.updCtl_epoch (s : State) (f : EmtSt → EmtSt) : (s.updCtl f).epoch = s.epoch := rfl
@[simp] theorem State.updCtl_host (s : State) (f : EmtSt → EmtSt) : (s.updCtl f).host = s.host := rfl
@[simp] theorem State.updCtl_rings (s : State) (f : EmtSt → EmtSt) : (s.updCtl f).rings = s.rings := rfl
@[simp] theorem State.updCtl_links (s : State) (f : EmtSt → EmtSt) : (s.updCtl f).links = s.links := rfl
@[simp] theorem State.updCtl_alarm (s : State) (f : EmtSt → EmtSt) : (s.updCtl f).alarm = s.alarm := rfl
@[simp] theorem State.updCtl_engs (s : State) (f : EmtSt → EmtSt) : (s.updCtl f).engs = s.engs := rfl
@[simp] theorem State.updCtl_image (s : State) (f : EmtSt → EmtSt) : (s.updCtl f).image = s.image := rfl
@[simp] theorem State.updCtl_mem (s : State) (f : EmtSt → EmtSt) : (s.updCtl f).mem = s.mem := rfl
@[simp] theorem State.updCtl_ports (s : State) (f : EmtSt → EmtSt) : (s.updCtl f).ports = s.ports := rfl
@[simp] theorem State.updCtl_aux (s : State) (f : EmtSt → EmtSt) : (s.updCtl f).aux = s.aux := rfl
@[simp] theorem State.updCtl_zone (s : State) (f : EmtSt → EmtSt) : (s.updCtl f).zone = s.zone := rfl
@[simp] theorem State.updCtl_cores (s : State) (f : EmtSt → EmtSt) : (s.updCtl f).cores = s.cores := rfl
@[simp] theorem State.updCtl_cal (s : State) (f : EmtSt → EmtSt) : (s.updCtl f).cal = s.cal := rfl
@[simp] theorem State.updCtl_freeCtr (s : State) (f : EmtSt → EmtSt) : (s.updCtl f).freeCtr = s.freeCtr := rfl

/-! updCore -/

@[simp] theorem State.updCore_pending (s : State) (n : Fin 16) (f : CoreSt → CoreSt) : (s.updCore n f).pending = s.pending := rfl
@[simp] theorem State.updCore_regs (s : State) (n : Fin 16) (f : CoreSt → CoreSt) : (s.updCore n f).regs = s.regs := rfl
@[simp] theorem State.updCore_time (s : State) (n : Fin 16) (f : CoreSt → CoreSt) : (s.updCore n f).time = s.time := rfl
@[simp] theorem State.updCore_loops (s : State) (n : Fin 16) (f : CoreSt → CoreSt) : (s.updCore n f).loops = s.loops := rfl
@[simp] theorem State.updCore_xtal (s : State) (n : Fin 16) (f : CoreSt → CoreSt) : (s.updCore n f).xtal = s.xtal := rfl
@[simp] theorem State.updCore_power (s : State) (n : Fin 16) (f : CoreSt → CoreSt) : (s.updCore n f).power = s.power := rfl
@[simp] theorem State.updCore_epoch (s : State) (n : Fin 16) (f : CoreSt → CoreSt) : (s.updCore n f).epoch = s.epoch := rfl
@[simp] theorem State.updCore_host (s : State) (n : Fin 16) (f : CoreSt → CoreSt) : (s.updCore n f).host = s.host := rfl
@[simp] theorem State.updCore_rings (s : State) (n : Fin 16) (f : CoreSt → CoreSt) : (s.updCore n f).rings = s.rings := rfl
@[simp] theorem State.updCore_links (s : State) (n : Fin 16) (f : CoreSt → CoreSt) : (s.updCore n f).links = s.links := rfl
@[simp] theorem State.updCore_alarm (s : State) (n : Fin 16) (f : CoreSt → CoreSt) : (s.updCore n f).alarm = s.alarm := rfl
@[simp] theorem State.updCore_engs (s : State) (n : Fin 16) (f : CoreSt → CoreSt) : (s.updCore n f).engs = s.engs := rfl
@[simp] theorem State.updCore_image (s : State) (n : Fin 16) (f : CoreSt → CoreSt) : (s.updCore n f).image = s.image := rfl
@[simp] theorem State.updCore_mem (s : State) (n : Fin 16) (f : CoreSt → CoreSt) : (s.updCore n f).mem = s.mem := rfl
@[simp] theorem State.updCore_ports (s : State) (n : Fin 16) (f : CoreSt → CoreSt) : (s.updCore n f).ports = s.ports := rfl
@[simp] theorem State.updCore_aux (s : State) (n : Fin 16) (f : CoreSt → CoreSt) : (s.updCore n f).aux = s.aux := rfl
@[simp] theorem State.updCore_zone (s : State) (n : Fin 16) (f : CoreSt → CoreSt) : (s.updCore n f).zone = s.zone := rfl
@[simp] theorem State.updCore_lidar (s : State) (n : Fin 16) (f : CoreSt → CoreSt) : (s.updCore n f).lidar = s.lidar := rfl
@[simp] theorem State.updCore_cal (s : State) (n : Fin 16) (f : CoreSt → CoreSt) : (s.updCore n f).cal = s.cal := rfl
@[simp] theorem State.updCore_freeCtr (s : State) (n : Fin 16) (f : CoreSt → CoreSt) : (s.updCore n f).freeCtr = s.freeCtr := rfl

/-! updCal -/

@[simp] theorem State.updCal_pending (s : State) (p : Fin 4) (raman : Bool) (f : PassCal → PassCal) : (s.updCal p raman f).pending = s.pending := rfl
@[simp] theorem State.updCal_regs (s : State) (p : Fin 4) (raman : Bool) (f : PassCal → PassCal) : (s.updCal p raman f).regs = s.regs := rfl
@[simp] theorem State.updCal_time (s : State) (p : Fin 4) (raman : Bool) (f : PassCal → PassCal) : (s.updCal p raman f).time = s.time := rfl
@[simp] theorem State.updCal_loops (s : State) (p : Fin 4) (raman : Bool) (f : PassCal → PassCal) : (s.updCal p raman f).loops = s.loops := rfl
@[simp] theorem State.updCal_xtal (s : State) (p : Fin 4) (raman : Bool) (f : PassCal → PassCal) : (s.updCal p raman f).xtal = s.xtal := rfl
@[simp] theorem State.updCal_power (s : State) (p : Fin 4) (raman : Bool) (f : PassCal → PassCal) : (s.updCal p raman f).power = s.power := rfl
@[simp] theorem State.updCal_epoch (s : State) (p : Fin 4) (raman : Bool) (f : PassCal → PassCal) : (s.updCal p raman f).epoch = s.epoch := rfl
@[simp] theorem State.updCal_host (s : State) (p : Fin 4) (raman : Bool) (f : PassCal → PassCal) : (s.updCal p raman f).host = s.host := rfl
@[simp] theorem State.updCal_rings (s : State) (p : Fin 4) (raman : Bool) (f : PassCal → PassCal) : (s.updCal p raman f).rings = s.rings := rfl
@[simp] theorem State.updCal_links (s : State) (p : Fin 4) (raman : Bool) (f : PassCal → PassCal) : (s.updCal p raman f).links = s.links := rfl
@[simp] theorem State.updCal_alarm (s : State) (p : Fin 4) (raman : Bool) (f : PassCal → PassCal) : (s.updCal p raman f).alarm = s.alarm := rfl
@[simp] theorem State.updCal_engs (s : State) (p : Fin 4) (raman : Bool) (f : PassCal → PassCal) : (s.updCal p raman f).engs = s.engs := rfl
@[simp] theorem State.updCal_image (s : State) (p : Fin 4) (raman : Bool) (f : PassCal → PassCal) : (s.updCal p raman f).image = s.image := rfl
@[simp] theorem State.updCal_mem (s : State) (p : Fin 4) (raman : Bool) (f : PassCal → PassCal) : (s.updCal p raman f).mem = s.mem := rfl
@[simp] theorem State.updCal_ports (s : State) (p : Fin 4) (raman : Bool) (f : PassCal → PassCal) : (s.updCal p raman f).ports = s.ports := rfl
@[simp] theorem State.updCal_aux (s : State) (p : Fin 4) (raman : Bool) (f : PassCal → PassCal) : (s.updCal p raman f).aux = s.aux := rfl
@[simp] theorem State.updCal_zone (s : State) (p : Fin 4) (raman : Bool) (f : PassCal → PassCal) : (s.updCal p raman f).zone = s.zone := rfl
@[simp] theorem State.updCal_lidar (s : State) (p : Fin 4) (raman : Bool) (f : PassCal → PassCal) : (s.updCal p raman f).lidar = s.lidar := rfl
@[simp] theorem State.updCal_cores (s : State) (p : Fin 4) (raman : Bool) (f : PassCal → PassCal) : (s.updCal p raman f).cores = s.cores := rfl
@[simp] theorem State.updCal_freeCtr (s : State) (p : Fin 4) (raman : Bool) (f : PassCal → PassCal) : (s.updCal p raman f).freeCtr = s.freeCtr := rfl

/-! updChan -/

@[simp] theorem State.updChan_pending (s : State) (ch : Fin 2) (f : ChanSt → ChanSt) : (s.updChan ch f).pending = s.pending := rfl
@[simp] theorem State.updChan_regs (s : State) (ch : Fin 2) (f : ChanSt → ChanSt) : (s.updChan ch f).regs = s.regs := rfl
@[simp] theorem State.updChan_time (s : State) (ch : Fin 2) (f : ChanSt → ChanSt) : (s.updChan ch f).time = s.time := rfl
@[simp] theorem State.updChan_loops (s : State) (ch : Fin 2) (f : ChanSt → ChanSt) : (s.updChan ch f).loops = s.loops := rfl
@[simp] theorem State.updChan_xtal (s : State) (ch : Fin 2) (f : ChanSt → ChanSt) : (s.updChan ch f).xtal = s.xtal := rfl
@[simp] theorem State.updChan_power (s : State) (ch : Fin 2) (f : ChanSt → ChanSt) : (s.updChan ch f).power = s.power := rfl
@[simp] theorem State.updChan_epoch (s : State) (ch : Fin 2) (f : ChanSt → ChanSt) : (s.updChan ch f).epoch = s.epoch := rfl
@[simp] theorem State.updChan_host (s : State) (ch : Fin 2) (f : ChanSt → ChanSt) : (s.updChan ch f).host = s.host := rfl
@[simp] theorem State.updChan_rings (s : State) (ch : Fin 2) (f : ChanSt → ChanSt) : (s.updChan ch f).rings = s.rings := rfl
@[simp] theorem State.updChan_links (s : State) (ch : Fin 2) (f : ChanSt → ChanSt) : (s.updChan ch f).links = s.links := rfl
@[simp] theorem State.updChan_alarm (s : State) (ch : Fin 2) (f : ChanSt → ChanSt) : (s.updChan ch f).alarm = s.alarm := rfl
@[simp] theorem State.updChan_engs (s : State) (ch : Fin 2) (f : ChanSt → ChanSt) : (s.updChan ch f).engs = s.engs := rfl
@[simp] theorem State.updChan_image (s : State) (ch : Fin 2) (f : ChanSt → ChanSt) : (s.updChan ch f).image = s.image := rfl
@[simp] theorem State.updChan_ports (s : State) (ch : Fin 2) (f : ChanSt → ChanSt) : (s.updChan ch f).ports = s.ports := rfl
@[simp] theorem State.updChan_aux (s : State) (ch : Fin 2) (f : ChanSt → ChanSt) : (s.updChan ch f).aux = s.aux := rfl
@[simp] theorem State.updChan_zone (s : State) (ch : Fin 2) (f : ChanSt → ChanSt) : (s.updChan ch f).zone = s.zone := rfl
@[simp] theorem State.updChan_lidar (s : State) (ch : Fin 2) (f : ChanSt → ChanSt) : (s.updChan ch f).lidar = s.lidar := rfl
@[simp] theorem State.updChan_cores (s : State) (ch : Fin 2) (f : ChanSt → ChanSt) : (s.updChan ch f).cores = s.cores := rfl
@[simp] theorem State.updChan_cal (s : State) (ch : Fin 2) (f : ChanSt → ChanSt) : (s.updChan ch f).cal = s.cal := rfl
@[simp] theorem State.updChan_freeCtr (s : State) (ch : Fin 2) (f : ChanSt → ChanSt) : (s.updChan ch f).freeCtr = s.freeCtr := rfl

/-! setWord -/

@[simp] theorem State.setWord_pending (s : State) (l d : Nat) (poison : Bool) : (s.setWord l d poison).pending = s.pending := rfl
@[simp] theorem State.setWord_regs (s : State) (l d : Nat) (poison : Bool) : (s.setWord l d poison).regs = s.regs := rfl
@[simp] theorem State.setWord_time (s : State) (l d : Nat) (poison : Bool) : (s.setWord l d poison).time = s.time := rfl
@[simp] theorem State.setWord_loops (s : State) (l d : Nat) (poison : Bool) : (s.setWord l d poison).loops = s.loops := rfl
@[simp] theorem State.setWord_xtal (s : State) (l d : Nat) (poison : Bool) : (s.setWord l d poison).xtal = s.xtal := rfl
@[simp] theorem State.setWord_power (s : State) (l d : Nat) (poison : Bool) : (s.setWord l d poison).power = s.power := rfl
@[simp] theorem State.setWord_epoch (s : State) (l d : Nat) (poison : Bool) : (s.setWord l d poison).epoch = s.epoch := rfl
@[simp] theorem State.setWord_host (s : State) (l d : Nat) (poison : Bool) : (s.setWord l d poison).host = s.host := rfl
@[simp] theorem State.setWord_rings (s : State) (l d : Nat) (poison : Bool) : (s.setWord l d poison).rings = s.rings := rfl
@[simp] theorem State.setWord_links (s : State) (l d : Nat) (poison : Bool) : (s.setWord l d poison).links = s.links := rfl
@[simp] theorem State.setWord_alarm (s : State) (l d : Nat) (poison : Bool) : (s.setWord l d poison).alarm = s.alarm := rfl
@[simp] theorem State.setWord_engs (s : State) (l d : Nat) (poison : Bool) : (s.setWord l d poison).engs = s.engs := rfl
@[simp] theorem State.setWord_image (s : State) (l d : Nat) (poison : Bool) : (s.setWord l d poison).image = s.image := rfl
@[simp] theorem State.setWord_ports (s : State) (l d : Nat) (poison : Bool) : (s.setWord l d poison).ports = s.ports := rfl
@[simp] theorem State.setWord_aux (s : State) (l d : Nat) (poison : Bool) : (s.setWord l d poison).aux = s.aux := rfl
@[simp] theorem State.setWord_zone (s : State) (l d : Nat) (poison : Bool) : (s.setWord l d poison).zone = s.zone := rfl
@[simp] theorem State.setWord_lidar (s : State) (l d : Nat) (poison : Bool) : (s.setWord l d poison).lidar = s.lidar := rfl
@[simp] theorem State.setWord_cores (s : State) (l d : Nat) (poison : Bool) : (s.setWord l d poison).cores = s.cores := rfl
@[simp] theorem State.setWord_cal (s : State) (l d : Nat) (poison : Bool) : (s.setWord l d poison).cal = s.cal := rfl
@[simp] theorem State.setWord_freeCtr (s : State) (l d : Nat) (poison : Bool) : (s.setWord l d poison).freeCtr = s.freeCtr := rfl

/-! updLoop -/

@[simp] theorem State.updLoop_pending (s : State) (k : Fin 6) (f : LoopSt → LoopSt) : (s.updLoop k f).pending = s.pending := rfl
@[simp] theorem State.updLoop_regs (s : State) (k : Fin 6) (f : LoopSt → LoopSt) : (s.updLoop k f).regs = s.regs := rfl
@[simp] theorem State.updLoop_time (s : State) (k : Fin 6) (f : LoopSt → LoopSt) : (s.updLoop k f).time = s.time := rfl
@[simp] theorem State.updLoop_xtal (s : State) (k : Fin 6) (f : LoopSt → LoopSt) : (s.updLoop k f).xtal = s.xtal := rfl
@[simp] theorem State.updLoop_power (s : State) (k : Fin 6) (f : LoopSt → LoopSt) : (s.updLoop k f).power = s.power := rfl
@[simp] theorem State.updLoop_epoch (s : State) (k : Fin 6) (f : LoopSt → LoopSt) : (s.updLoop k f).epoch = s.epoch := rfl
@[simp] theorem State.updLoop_host (s : State) (k : Fin 6) (f : LoopSt → LoopSt) : (s.updLoop k f).host = s.host := rfl
@[simp] theorem State.updLoop_rings (s : State) (k : Fin 6) (f : LoopSt → LoopSt) : (s.updLoop k f).rings = s.rings := rfl
@[simp] theorem State.updLoop_links (s : State) (k : Fin 6) (f : LoopSt → LoopSt) : (s.updLoop k f).links = s.links := rfl
@[simp] theorem State.updLoop_alarm (s : State) (k : Fin 6) (f : LoopSt → LoopSt) : (s.updLoop k f).alarm = s.alarm := rfl
@[simp] theorem State.updLoop_engs (s : State) (k : Fin 6) (f : LoopSt → LoopSt) : (s.updLoop k f).engs = s.engs := rfl
@[simp] theorem State.updLoop_image (s : State) (k : Fin 6) (f : LoopSt → LoopSt) : (s.updLoop k f).image = s.image := rfl
@[simp] theorem State.updLoop_mem (s : State) (k : Fin 6) (f : LoopSt → LoopSt) : (s.updLoop k f).mem = s.mem := rfl
@[simp] theorem State.updLoop_ports (s : State) (k : Fin 6) (f : LoopSt → LoopSt) : (s.updLoop k f).ports = s.ports := rfl
@[simp] theorem State.updLoop_aux (s : State) (k : Fin 6) (f : LoopSt → LoopSt) : (s.updLoop k f).aux = s.aux := rfl
@[simp] theorem State.updLoop_zone (s : State) (k : Fin 6) (f : LoopSt → LoopSt) : (s.updLoop k f).zone = s.zone := rfl
@[simp] theorem State.updLoop_lidar (s : State) (k : Fin 6) (f : LoopSt → LoopSt) : (s.updLoop k f).lidar = s.lidar := rfl
@[simp] theorem State.updLoop_cores (s : State) (k : Fin 6) (f : LoopSt → LoopSt) : (s.updLoop k f).cores = s.cores := rfl
@[simp] theorem State.updLoop_cal (s : State) (k : Fin 6) (f : LoopSt → LoopSt) : (s.updLoop k f).cal = s.cal := rfl
@[simp] theorem State.updLoop_freeCtr (s : State) (k : Fin 6) (f : LoopSt → LoopSt) : (s.updLoop k f).freeCtr = s.freeCtr := rfl

/-! updPower -/

@[simp] theorem State.updPower_pending (s : State) (f : PowerSt → PowerSt) : (s.updPower f).pending = s.pending := rfl
@[simp] theorem State.updPower_regs (s : State) (f : PowerSt → PowerSt) : (s.updPower f).regs = s.regs := rfl
@[simp] theorem State.updPower_time (s : State) (f : PowerSt → PowerSt) : (s.updPower f).time = s.time := rfl
@[simp] theorem State.updPower_loops (s : State) (f : PowerSt → PowerSt) : (s.updPower f).loops = s.loops := rfl
@[simp] theorem State.updPower_xtal (s : State) (f : PowerSt → PowerSt) : (s.updPower f).xtal = s.xtal := rfl
@[simp] theorem State.updPower_epoch (s : State) (f : PowerSt → PowerSt) : (s.updPower f).epoch = s.epoch := rfl
@[simp] theorem State.updPower_host (s : State) (f : PowerSt → PowerSt) : (s.updPower f).host = s.host := rfl
@[simp] theorem State.updPower_rings (s : State) (f : PowerSt → PowerSt) : (s.updPower f).rings = s.rings := rfl
@[simp] theorem State.updPower_links (s : State) (f : PowerSt → PowerSt) : (s.updPower f).links = s.links := rfl
@[simp] theorem State.updPower_alarm (s : State) (f : PowerSt → PowerSt) : (s.updPower f).alarm = s.alarm := rfl
@[simp] theorem State.updPower_engs (s : State) (f : PowerSt → PowerSt) : (s.updPower f).engs = s.engs := rfl
@[simp] theorem State.updPower_image (s : State) (f : PowerSt → PowerSt) : (s.updPower f).image = s.image := rfl
@[simp] theorem State.updPower_mem (s : State) (f : PowerSt → PowerSt) : (s.updPower f).mem = s.mem := rfl
@[simp] theorem State.updPower_ports (s : State) (f : PowerSt → PowerSt) : (s.updPower f).ports = s.ports := rfl
@[simp] theorem State.updPower_aux (s : State) (f : PowerSt → PowerSt) : (s.updPower f).aux = s.aux := rfl
@[simp] theorem State.updPower_zone (s : State) (f : PowerSt → PowerSt) : (s.updPower f).zone = s.zone := rfl
@[simp] theorem State.updPower_lidar (s : State) (f : PowerSt → PowerSt) : (s.updPower f).lidar = s.lidar := rfl
@[simp] theorem State.updPower_cores (s : State) (f : PowerSt → PowerSt) : (s.updPower f).cores = s.cores := rfl
@[simp] theorem State.updPower_cal (s : State) (f : PowerSt → PowerSt) : (s.updPower f).cal = s.cal := rfl
@[simp] theorem State.updPower_freeCtr (s : State) (f : PowerSt → PowerSt) : (s.updPower f).freeCtr = s.freeCtr := rfl

/-! updTime -/

@[simp] theorem State.updTime_pending (s : State) (f : TimeSt → TimeSt) : (s.updTime f).pending = s.pending := rfl
@[simp] theorem State.updTime_regs (s : State) (f : TimeSt → TimeSt) : (s.updTime f).regs = s.regs := rfl
@[simp] theorem State.updTime_loops (s : State) (f : TimeSt → TimeSt) : (s.updTime f).loops = s.loops := rfl
@[simp] theorem State.updTime_xtal (s : State) (f : TimeSt → TimeSt) : (s.updTime f).xtal = s.xtal := rfl
@[simp] theorem State.updTime_power (s : State) (f : TimeSt → TimeSt) : (s.updTime f).power = s.power := rfl
@[simp] theorem State.updTime_epoch (s : State) (f : TimeSt → TimeSt) : (s.updTime f).epoch = s.epoch := rfl
@[simp] theorem State.updTime_host (s : State) (f : TimeSt → TimeSt) : (s.updTime f).host = s.host := rfl
@[simp] theorem State.updTime_rings (s : State) (f : TimeSt → TimeSt) : (s.updTime f).rings = s.rings := rfl
@[simp] theorem State.updTime_links (s : State) (f : TimeSt → TimeSt) : (s.updTime f).links = s.links := rfl
@[simp] theorem State.updTime_alarm (s : State) (f : TimeSt → TimeSt) : (s.updTime f).alarm = s.alarm := rfl
@[simp] theorem State.updTime_engs (s : State) (f : TimeSt → TimeSt) : (s.updTime f).engs = s.engs := rfl
@[simp] theorem State.updTime_image (s : State) (f : TimeSt → TimeSt) : (s.updTime f).image = s.image := rfl
@[simp] theorem State.updTime_mem (s : State) (f : TimeSt → TimeSt) : (s.updTime f).mem = s.mem := rfl
@[simp] theorem State.updTime_ports (s : State) (f : TimeSt → TimeSt) : (s.updTime f).ports = s.ports := rfl
@[simp] theorem State.updTime_aux (s : State) (f : TimeSt → TimeSt) : (s.updTime f).aux = s.aux := rfl
@[simp] theorem State.updTime_zone (s : State) (f : TimeSt → TimeSt) : (s.updTime f).zone = s.zone := rfl
@[simp] theorem State.updTime_lidar (s : State) (f : TimeSt → TimeSt) : (s.updTime f).lidar = s.lidar := rfl
@[simp] theorem State.updTime_cores (s : State) (f : TimeSt → TimeSt) : (s.updTime f).cores = s.cores := rfl
@[simp] theorem State.updTime_cal (s : State) (f : TimeSt → TimeSt) : (s.updTime f).cal = s.cal := rfl
@[simp] theorem State.updTime_freeCtr (s : State) (f : TimeSt → TimeSt) : (s.updTime f).freeCtr = s.freeCtr := rfl

/-! Instances -/

@[simp] theorem State.core_updCore_same (s : State) (n : Fin 16) (f : CoreSt → CoreSt) : (s.updCore n f).core n = f (s.core n) := by
  simp [State.core, State.updCore]
theorem State.core_updCore_other (s : State) (n : Fin 16) (m : Fin 16) (f : CoreSt → CoreSt) (h : m ≠ n) : (s.updCore n f).core m = s.core m := by
  simp [State.core, State.updCore, vget_vupd_other _ _ _ _ h]
@[simp] theorem State.feOf_updFe_same (s : State) (p : Fin 4) (f : FeSt → FeSt) : (s.updFe p f).feOf p = f (s.feOf p) := by
  simp [State.feOf, State.updFe, State.updPort]
theorem State.feOf_updFe_other (s : State) (p : Fin 4) (q : Fin 4) (f : FeSt → FeSt) (h : q ≠ p) : (s.updFe p f).feOf q = s.feOf q := by
  simp [State.feOf, State.updFe, State.updPort, vget_vupd_other _ _ _ _ h]
@[simp] theorem State.probeOf_updProbe_same (s : State) (p : Fin 4) (f : ProbeSt → ProbeSt) : (s.updProbe p f).probeOf p = f (s.probeOf p) := by
  simp [State.probeOf, State.updProbe, State.updPort]
theorem State.probeOf_updProbe_other (s : State) (p : Fin 4) (q : Fin 4) (f : ProbeSt → ProbeSt) (h : q ≠ p) : (s.updProbe p f).probeOf q = s.probeOf q := by
  simp [State.probeOf, State.updProbe, State.updPort, vget_vupd_other _ _ _ _ h]
@[simp] theorem State.ramOf_updRam_same (s : State) (p : Fin 4) (f : RamSt → RamSt) : (s.updRam p f).ramOf p = f (s.ramOf p) := by
  simp [State.ramOf, State.updRam, State.updPort]
theorem State.ramOf_updRam_other (s : State) (p : Fin 4) (q : Fin 4) (f : RamSt → RamSt) (h : q ≠ p) : (s.updRam p f).ramOf q = s.ramOf q := by
  simp [State.ramOf, State.updRam, State.updPort, vget_vupd_other _ _ _ _ h]
@[simp] theorem State.dasOf_updDas_same (s : State) (p : Fin 4) (f : DasSt → DasSt) : (s.updDas p f).dasOf p = f (s.dasOf p) := by
  simp [State.dasOf, State.updDas, State.updPort]
theorem State.dasOf_updDas_other (s : State) (p : Fin 4) (q : Fin 4) (f : DasSt → DasSt) (h : q ≠ p) : (s.updDas p f).dasOf q = s.dasOf q := by
  simp [State.dasOf, State.updDas, State.updPort, vget_vupd_other _ _ _ _ h]
@[simp] theorem State.chainOf_updChain_same (s : State) (p : Fin 4) (f : ChainSt → ChainSt) : (s.updChain p f).chainOf p = f (s.chainOf p) := by
  simp [State.chainOf, State.updChain, State.updPort]
theorem State.chainOf_updChain_other (s : State) (p : Fin 4) (q : Fin 4) (f : ChainSt → ChainSt) (h : q ≠ p) : (s.updChain p f).chainOf q = s.chainOf q := by
  simp [State.chainOf, State.updChain, State.updPort, vget_vupd_other _ _ _ _ h]
@[simp] theorem State.evOf_updEv_same (s : State) (p : Fin 4) (f : EvCapSt → EvCapSt) : (s.updEv p f).evOf p = f (s.evOf p) := by
  simp [State.evOf, State.updEv, State.updPort, State.updDas, State.dasOf]
theorem State.evOf_updEv_other (s : State) (p : Fin 4) (q : Fin 4) (f : EvCapSt → EvCapSt) (h : q ≠ p) : (s.updEv p f).evOf q = s.evOf q := by
  simp [State.evOf, State.updEv, State.updPort, State.updDas, State.dasOf, vget_vupd_other _ _ _ _ h]
@[simp] theorem State.ep_updE_same (s : State) (e : Fin 8) (f : EPort → EPort) : (s.updE e f).ep e = f (s.ep e) := by
  simp [State.ep, State.updE, State.updLidar]
theorem State.ep_updE_other (s : State) (e : Fin 8) (d : Fin 8) (f : EPort → EPort) (h : d ≠ e) : (s.updE e f).ep d = s.ep d := by
  simp [State.ep, State.updE, State.updLidar, vget_vupd_other _ _ _ _ h]
@[simp] theorem State.updRing_get_same (s : State) (r : Fin 16) (f : RingSt → RingSt) : (s.updRing r f).rings.get r = f (s.rings.get r) := by
  simp [State.updRing]
theorem State.updRing_get_other (s : State) (r : Fin 16) (q : Fin 16) (f : RingSt → RingSt) (h : q ≠ r) : (s.updRing r f).rings.get q = s.rings.get q := by
  simp [State.updRing, vget_vupd_other _ _ _ _ h]
@[simp] theorem State.updLink_get_same (s : State) (x : Fin 8) (f : LinkSt → LinkSt) : (s.updLink x f).links.get x = f (s.links.get x) := by
  simp [State.updLink]
theorem State.updLink_get_other (s : State) (x : Fin 8) (y : Fin 8) (f : LinkSt → LinkSt) (h : y ≠ x) : (s.updLink x f).links.get y = s.links.get y := by
  simp [State.updLink, vget_vupd_other _ _ _ _ h]
@[simp] theorem State.updLoop_get_same (s : State) (k : Fin 6) (f : LoopSt → LoopSt) : (s.updLoop k f).loops.get k = f (s.loops.get k) := by
  simp [State.updLoop]
theorem State.updLoop_get_other (s : State) (k : Fin 6) (j : Fin 6) (f : LoopSt → LoopSt) (h : j ≠ k) : (s.updLoop k f).loops.get j = s.loops.get j := by
  simp [State.updLoop, vget_vupd_other _ _ _ _ h]
@[simp] theorem State.updPort_get_same (s : State) (p : Fin 4) (f : PortSt → PortSt) : (s.updPort p f).ports.get p = f (s.ports.get p) := by
  simp [State.updPort]
theorem State.updPort_get_other (s : State) (p : Fin 4) (q : Fin 4) (f : PortSt → PortSt) (h : q ≠ p) : (s.updPort p f).ports.get q = s.ports.get q := by
  simp [State.updPort, vget_vupd_other _ _ _ _ h]

/-! Registers -/

@[simp] theorem State.regs_wr (s : State) (f : Fld) (v : Nat) : (s.wr f v).regs = rfWr s.regs f v := rfl
@[simp] theorem State.regs_wrB (s : State) (f : Fld) (b : Bool) : (s.wrB f b).regs = rfWr s.regs f (bnat b) := rfl
@[simp] theorem State.regs_inc (s : State) (f : Fld) (k : Nat) : (s.inc f k).regs = rfInc s.regs f k := rfl

end Sys2Proof.Machine
end

