-- ==== Sys2Proof/WellFormed.lean ====
section
/-! DEFINITION. The commands that a sender can form: an MGMT frame has 11 bytes (R493), the two sample lists of a window have one length,
quanta fit 16 bits, a fuse reads back as 32 bytes, and so on. The meanings are total: they also say what an ill-formed command does. -/
namespace Sys2Proof

/-- The operands of a command have the shape that its rule gives them. DEDUCED, unsafe: log 118. -/
def Instr.wf : Instr → Bool
  | .mgmtTransaction bytes _ => bytes.length == 11
  | .frameReceived _ frame _ => decide (14 ≤ frame.length)
  | .setState _ _ target => decide (target.toNat < 8)
  | .flashCommandDone _ back => decide (back.length ≤ 256)
  | .flashTimeout back => decide (back.length ≤ 65536)
  | .fuseBurnDone back => back.length == 32
  | .toneWindowClose _ _ x y => x.length == y.length
  | .ramanWindowClose _ ra rs => ra.length == rs.length
  | .memoryRead _ target _ _ _ => match target with | .sram _ _ => true | .dram sa => sa % 8 == 0
  | .writeCrcError _ sa _ _ => sa % 128 == 0
  | .pauseFrame _ quanta => decide (quanta < 65536)
  | .pfcFrame _ _ quanta => decide (quanta < 65536)
  | .aonPeriodMeasure ps => decide (0 < ps)
  | .startupPassDone res _ _ => res.all fun (r : List CalResult) => r.length == 6
  | .railBelowWarning _ level => decide (level ≤ 1000)
  | .railBelowReset fall => decide (fall.below ≤ 1000)
  | .calPassDone _ raman res => res.length == if raman then 4 else 2
  | .nop .. | .read .. | .write .. | .lowHalfRead .. | .highHalfRead .. | .lowHalfWrite .. | .highHalfWrite .. | .regStatusRead ..
  | .snapshot .. | .snapshotCopyDone .. | .commit .. | .discard .. | .cancel .. | .abort .. | .abortComplete .. | .start .. | .stop ..
  | .stateEntryComplete .. | .loadImage .. | .hostImageValidated .. | .flashRead .. | .flashErase .. | .flashWrite .. | .retireRow ..
  | .rowCopyDone .. | .clearAlarm .. | .repeatLast .. | .fuseProgram .. | .hostSoftReset .. | .softResetBegin .. | .sysWdogKick ..
  | .timeArm .. | .captureArm .. | .captureStop .. | .captureStart .. | .captureComplete .. | .feClear .. | .tlClear .. | .ptClear ..
  | .mcClearCounts .. | .mcRetrain .. | .bankSwap .. | .bankValidationDone .. | .frameMemoryWrite .. | .peekPosWrite .. | .peekCopyDone ..
  | .memDataAccess .. | .eventCaptureTrigger .. | .calCmdCoherent .. | .calCmdRaman .. | .calCmdTdc .. | .calCmdThresh ..
  | .coreMboxInWrite .. | .epochSwitch .. | .wakeEpochBoundary .. | .shotLaunch .. | .toneLaunch .. | .pgateOpen .. | .pgateClose ..
  | .rtrigRelease .. | .toneWindowOpen .. | .ramanWindowOpen .. | .completionPassDone .. | .syncInPulse .. | .extEventTimeout ..
  | .refLeadComplete .. | .refPowerDown .. | .fusionUpdate .. | .fusedItem .. | .bandWindowClose .. | .backscatterTrace ..
  | .captureSelectionEnd .. | .captureReadoutDone .. | .sentinelBurstLead .. | .sentinelBurstStart .. | .burstDrainDone ..
  | .wakePinEdge .. | .auxScanStart .. | .burnoutPulseEnd .. | .auxConversionEnd .. | .zoneUpdate .. | .vratioLow .. | .laneEdge ..
  | .startSearchEnd .. | .regressionFit .. | .gateStale .. | .syncEdgeTimeout .. | .lineEvent .. | .frameSync .. | .walkingPatternTest ..
  | .linePrecharge .. | .pchgFall .. | .shotFire .. | .fireFall .. | .candidateSearch .. | .finalSearch .. | .isolationSequence ..
  | .diagnosticFiring .. | .shortTestStale .. | .brewNop .. | .add .. | .sub .. | .andW .. | .orW .. | .xor .. | .shl .. | .shra ..
  | .shrl .. | .minW .. | .maxW .. | .slt .. | .seq .. | .absW .. | .add2 .. | .sub2 .. | .movt .. | .movf .. | .clz .. | .cmac ..
  | .cmsb .. | .cmul .. | .dmac .. | .qmac .. | .mul32 .. | .rdacc .. | .accget .. | .accput .. | .ld16 .. | .ld32 .. | .ld64 .. | .st16 ..
  | .st32 .. | .st64 .. | .movi .. | .addi .. | .seta .. | .br .. | .call .. | .jr .. | .dbnz .. | .rpt .. | .setwsl .. | .ei .. | .di ..
  | .reti .. | .racq .. | .ringCreditGranted .. | .racqTimeout .. | .rcom .. | .rcomCopyDone .. | .rrel .. | .halt .. | .wfi ..
  | .wfiWake .. | .swi .. | .interruptEntry .. | .nmiEntry .. | .coreWatchdogExpiry .. | .coreTimerExpiry .. | .kick .. | .doorbell ..
  | .alarmRaise .. | .dmaGo .. | .dmaDone .. | .streamRecordOffer .. | .spRpWrite .. | .coreAbortAccept .. | .patrolRead ..
  | .repeatEntryExpiry .. | .refresh .. | .mr4Poll .. | .dqsOscillatorRead .. | .retrainStep .. | .retrainAttemptDone ..
  | .memoryModeSwitch .. | .priorityScrubDone .. | .datagramClose .. | .flushTimeout .. | .ageLimitExpiry .. | .datagramAgeExpiry ..
  | .frameBegin .. | .frameComplete .. | .pauseTimerExpiry .. | .linkStalled .. | .linkRecovered .. | .linkUp .. | .linkDown ..
  | .ringDrained .. | .alarmWindowClose .. | .blockClose .. | .blockFlushTimeout .. | .blockVerifyDone .. | .engineResume ..
  | .crystalRunning .. | .xtalStartTimeout .. | .xtalLoss .. | .loopLockDeclared .. | .loopLossDeclared .. | .acquisitionTimeout ..
  | .ppsEdge .. | .ppsLossTimeout .. | .ppsRejectedReport .. | .timeStep .. | .slewComplete .. | .dailyMean .. | .ppsOutRise ..
  | .ppsOutFall .. | .syncOutPulse .. | .timeStateRecord .. | .powerOnReset .. | .pinReset .. | .resetNRelease .. | .sramFillDone ..
  | .imageValidationDone .. | .sectionsApplied .. | .trainingDone .. | .dramFillDone .. | .release .. | .watchdogExpiry .. | .wdogWarn ..
  | .markedRestart .. | .suspendWake .. | .suspTimerExpiry .. | .suspendExitDone .. | .dieTempUpdate .. | .overTemp .. | .supplyOk ..
  | .jtagInstruction .. | .calIntervalExpiry .. | .calStepStart .. | .calForceTimeout .. | .tdcTableReady ..
  | .tdcSourceSwitch .. | .tdcTableLoad .. | .thresholdTrim .. | .railsAboveResetLevel .. | .ref10mEdge .. | .sdrvEdge ..
  | .gatedAccessTimeout .. | .selfRefreshExit .. | .streamRecordWritten .. | .prbsBitError .. | .prbsCheckerResync .. => true

end Sys2Proof
end

