-- ==== Sys2Proof/Tests/Slice0.lean ====
section
/-! SUPPORT. The model's own tests: a witness for the hypotheses of every statement, the checks of well-formed commands, and results from
the spec's tables and worked examples. -/
namespace Sys2Proof.Tests
open Sys2Proof Sys2Proof.Machine
set_option Elab.async false

/-! States to start from -/

/-- The block runs: start-up is over, every loop is locked, the state is ACTIVE. -/
def base : State :=
  let s := { State.reset with power := { PowerSt.rest with rstPin := false, railHold := false, released := true, stages := 0xFFE, begun := 0xFFE },
                              xtal := { XtalSt.rest with running := true },
                              loops := Vector.replicate 6 { LoopSt.rest with running := true, ran := true } }
  (s.wr .CLK_STATUS_Locked 0x1F).wr .PWR_STATE_State 2

/-! Brew cores -/

/-- A word of the compute format without memory slots (R306, R307). -/
def compW (op d a b m : Nat) : Nat := op * 2 ^ 57 + d * 2 ^ 51 + a * 2 ^ 45 + b * 2 ^ 39 + m * 2 ^ 38
/-- A word of the compute format with memory slot A only (R306, R308). -/
def memW (op r n mode : Nat) : Nat := (op * 2 ^ 16 + r * 2 ^ 10 + n * 2 ^ 6 + mode * 2 ^ 3) * 2 ^ 19
/-- A word of the control format (R306, R309). -/
def ctlW (op fields : Nat) : Nat := 2 ^ 63 + op * 2 ^ 57 + fields

/-- Core 0 of a state runs, and its next word is `w`. -/
def coreIn (s : State) (w : Nat) (f : CoreSt → CoreSt) : State :=
  let s := (s.wr (.CORE_STATUS_State 0) 1).updCore 0 f
  s.setWord (sramLoc 9 (instAddr (s.core 0).pc / 8)) w false
/-- Core 0 of the running block. -/
def coreAt (w : Nat) (f : CoreSt → CoreSt) : State := coreIn base w f
/-- Data register k holds v. -/
def withW (k : Nat) (v : Word) (c : CoreSt) : CoreSt := { c with w := vupd c.w (fin 63 k) fun _ => v }
/-- Address register f holds v. -/
def withA (f : Nat) (v : Word) (c : CoreSt) : CoreSt := { c with addr := vupd c.addr (fin 63 f) fun _ => v }

/-- Core 0 issues the word, by evaluation. -/
def issuesB (s : State) (w : Nat) : Bool :=
  s.canIssue 0 && decide (s.fetch 0 = (w, false)) && s.wordError 0 w == 0 && (s.core 0).errs.isEmpty

theorem issues_of (s : State) (w : Nat) (h : issuesB s w = true) : s.Issues 0 w := by
  simp only [issuesB, Bool.and_eq_true, decide_eq_true_eq, beq_iff_eq, List.isEmpty_iff] at h
  exact ⟨h.1.1.1, h.1.1.2, h.1.2, h.2⟩

/-- The one access of the word is as `p` says. -/
def oneAcc (s : State) (w : Nat) (p : Acc → Bool) : Bool :=
  !isCtl w && cOp w == 0 && match (s.before 0).accesses w with | [x] => p x | _ => false

theorem test_witness_AluSumsAndLogic :
    ([1, 2, 3, 4, 5, 0xD, 0xE, 0xF].all fun (k : Nat) => let w := compW k 63 32 31 0; issuesB (coreAt w id) w && slotsIdle w && hasOp w (.comp k)) = true ∧
    ([1, 2, 0xE, 0xF].all fun (k : Nat) => let w := compW k 3 2 1 1; issuesB (coreAt w id) w && slotsIdle w && hasOp w (.comp k)) = true := by
  decide +kernel

theorem test_witness_AluShiftsAndComparisons :
    ([6, 7, 8, 9, 0xA, 0xB, 0xC, 0x10, 0x11, 0x12].all fun (k : Nat) =>
      let w := compW k 3 2 1 0; issuesB (coreAt w id) w && slotsIdle w && hasOp w (.comp k)) = true ∧
    ([(6, 31), (6, 32), (7, 31), (7, 32), (8, 0), (8, 63)].all fun (k : Nat × Nat) =>
      let w := compW k.1 3 2 k.2 1; issuesB (coreAt w id) w && slotsIdle w && hasOp w (.comp k.1)) = true ∧
    ([0, 31].all fun (z : Nat) => let w := compW 0x12 3 2 0 0; let s := coreAt w (withW 2 (BitVec.ofNat 32 (2 ^ z)))
      issuesB s w && ((s.before 0).get (cA w)).getLsbD z && (List.range 32).all fun (y : Nat) => decide (y ≤ z) || !((s.before 0).get (cA w)).getLsbD y) = true ∧
    (let w := compW 0x12 3 2 0 0; (((coreAt w id).before 0).get (cA w) == 0)) = true := by
  decide +kernel

theorem test_witness_AccumulatingProducts :
    ([0x20, 0x21, 0x22, 0x23, 0x24, 0x25].all fun (k : Nat) =>
      let w := compW k 6 2 1 1; issuesB (coreAt w id) w && slotsIdle w && hasOp w (.comp k)) = true ∧
    ([0x20, 0x21, 0x22, 0x23, 0x24, 0x25].all fun (k : Nat) =>
      let w := compW k 0 2 1 0; issuesB (coreAt w id) w && slotsIdle w && hasOp w (.comp k)) = true := by decide +kernel

theorem test_witness_AccumulatorMoves :
    ([(0x28, 32), (0x29, 0), (0x29, 1), (0x29, 2), (0x2A, 0), (0x2A, 1), (0x2A, 2)].all fun (k : Nat × Nat) =>
      let w := compW k.1 3 2 k.2 0; let s := coreAt w id
      issuesB s w && slotsIdle w && hasOp w (.comp k.1) && cB w == k.2 && (s.before 0).flights.isEmpty) = true := by decide +kernel

/-- A word of the compute format with both memory slots (R306, R308): operation, register, pointer and mode of slots A and B. -/
def twoW (a b : Nat × Nat × Nat × Nat) : Nat :=
  let slot := fun (x : Nat × Nat × Nat × Nat) => x.1 * 2 ^ 16 + x.2.1 * 2 ^ 10 + x.2.2.1 * 2 ^ 6 + x.2.2.2 * 2 ^ 3
  slot a * 2 ^ 19 + slot b

/-- A word with memory slots issues, and every one of its addresses is in data memory. Pointer 1 has an offset and a circular buffer. -/
def inData (w : Nat) : Bool :=
  let s := coreAt w fun (c : CoreSt) => withA 0 64 (withA 1 72 (withA 17 0xFFFFFFF8 (withA 33 64 (withA 49 64 c))))
  issuesB s w && !isCtl w && ((s.before 0).accesses w).all fun (x : Acc) => decide (x.addr < dataEnd)

/-- R301, R303: every mode, slot B behind slot A on one pointer, and a pointer that wraps in its buffer. -/
theorem test_addressing :
    ([0, 1, 2, 3, 4].all fun (m : Nat) => inData (twoW (2, 2, 1, m) (2, 4, 1, m)) && inData (twoW (5, 2, 0, m) (5, 4, 1, m))) = true ∧
    (let w := twoW (2, 2, 1, 3) (2, 4, 1, 1)
     let c := (coreAt w fun (c : CoreSt) => withA 1 72 (withA 17 0xFFFFFFF0 (withA 33 64 (withA 49 64 c)))).before 0
     (c.accesses w).map Acc.addr == [72, 120] && (c.pointers w).2 == 120 && c.after (mSlot w true) 120 == 124 && c.after (mSlot w true) 124 == 64) = true := by
  decide +kernel

theorem test_witness_LoadsFromDataMemory :
    ([1, 2, 3].all fun (k : Nat) => let w := memW k 2 0 0; let s := coreAt w (withA 0 (BitVec.ofNat 32 (dataEnd - 8)))
      issuesB s w && oneAcc s w fun (x : Acc) => x.op == k && decide (x.addr < dataEnd) && (s.word (sramLoc 9 (x.addr / 8))).kind == .clean && (s.answerOf 0 (sramLoc 9 (x.addr / 8))).isNone) = true ∧
    (let w := memW 2 2 0 0; let s := (coreAt w (withA 0 8)).setWord (sramLoc 9 1) 5 true
      issuesB s w && oneAcc s w fun (x : Acc) => x.op == 2 && (s.word (sramLoc 9 (x.addr / 8))).kind == .poisoned && (s.answerOf 0 (sramLoc 9 (x.addr / 8))).isNone &&
        (({ s with mem := { s.mem with answers := [⟨0, sramLoc 9 1, 7⟩] } } : State).answerOf 0 (sramLoc 9 (x.addr / 8))).isSome) = true := by decide +kernel

theorem test_witness_StoresToDataMemory :
    ([4, 5, 6].all fun (k : Nat) => let w := memW k 2 0 0; let s := coreAt w (withA 0 (BitVec.ofNat 32 (dataEnd - 8)))
      issuesB s w && oneAcc s w fun (x : Acc) => x.op == k && decide (x.addr < dataEnd)) = true := by decide +kernel

theorem test_witness_ImmediatesAndEnables :
    ([(1, 63 * 2 ^ 51 + 0xFFFFFFFF), (2, 3 * 2 ^ 51 + 2 * 2 ^ 45 + 1), (3, 2 ^ 51), (9, 31), (0xA, 0), (0xB, 0), (0x12, 0)].all fun (k : Nat × Nat) =>
      let w := ctlW k.1 k.2; issuesB (coreAt w id) w && hasOp w (.ctl k.1)) = true ∧
    ([(9, 31), (0xB, 0)].all fun (k : Nat × Nat) => let w := ctlW k.1 k.2; let s := coreAt w fun (c : CoreSt) => { c with branch := some (1, none) }
      issuesB s w && (s.before 0).returning) = true := by decide +kernel

theorem test_witness_FlowThroughSlotsAndRepeats :
    ([(id : CoreSt → CoreSt), fun (c : CoreSt) => { c with pc := 8191, branch := some (2, some 5) }, fun (c : CoreSt) => { c with branch := some (1, some 5) },
      fun (c : CoreSt) => { c with branch := some (1, none) }, fun (c : CoreSt) => { c with rpt := some ⟨0, 2, 0, 1, 4⟩ },
      fun (c : CoreSt) => { c with rpt := some ⟨0, 1, 0, 2, 4⟩ }, fun (c : CoreSt) => { c with wsl := 31, rpt := some ⟨0, 1, 0, 1, 4⟩ }].all fun f =>
      issuesB (coreAt (ctlW 0 0) f) (ctlW 0 0) && issuesB (coreAt 0 f) 0) = true ∧
    hasOp (ctlW 0 0) (.ctl 0) = true ∧ hasOp 0 (.comp 0) = true ∧ slotsIdle 0 = true ∧ ((coreAt 0 id).before 0).plain = true := by decide +kernel

/-- Words that do not branch, of every kind: they issue, and each contains its operation. -/
theorem test_witness_FlowOfOtherWords :
    ([1, 2, 3, 9, 0xA, 0xB, 0xF, 0x10, 0x11, 0x12].all fun (k : Nat) => issuesB (coreAt (ctlW k 0) id) (ctlW k 0) && hasOp (ctlW k 0) (.ctl k)) = true ∧
    (let w := ctlW 4 (1 * 2 ^ 54 + 2 * 2 ^ 45); let s := coreAt w (withW 2 1)
     issuesB s w && kOp w == 4 && !brHolds (bits w 56 54) ((s.before 0).get (bits w 50 45)).toInt) = true ∧
    (let w := ctlW 7 (2 * 2 ^ 45); let s := coreAt w (withW 2 1); issuesB s w && kOp w == 7 && (s.before 0).get (bits w 50 45) == 1) = true ∧
    inData (twoW (2, 2, 1, 3) (5, 4, 0, 1)) = true ∧
    (let w := memW 2 2 0 0; let s := coreAt w (withA 0 0x70310)
     issuesB s w && ((s.before 0).accesses w).all fun (x : Acc) => decide (dataEnd ≤ x.addr) && !mStore x.op) = true := by decide +kernel

theorem test_witness_BranchesAndRepeats :
    ([(0, 0), (1, 0), (2, 1), (3, 0x80000000), (4, 0), (5, 1), (6, 0)].all fun (k : Nat × Nat) =>
      let w := ctlW 4 (k.1 * 2 ^ 54 + 2 * 2 ^ 45 + 8191); issuesB (coreAt w (withW 2 (BitVec.ofNat 32 k.2))) w && hasOp w (.ctl 4)) = true ∧
    (let w := ctlW 4 (1 * 2 ^ 54 + 2 * 2 ^ 45); issuesB (coreAt w (withW 2 1)) w) = true ∧
    ([(5, 3 * 2 ^ 51 + 8191), (6, 2 * 2 ^ 45), (8, 31 * 2 ^ 52), (0xC, 0)].all fun (k : Nat × Nat) =>
      let w := ctlW k.1 k.2; issuesB (coreAt w id) w && hasOp w (.ctl k.1)) = true ∧
    ([0, 1].all fun (v : Nat) => let w := ctlW 7 (2 * 2 ^ 45); let s := coreAt w (withW 2 (BitVec.ofNat 32 v))
      issuesB s w && hasOp w (.ctl 7) && (((s.before 0).get 2 == 1) == (v == 1))) = true ∧
    ([0, 1].all fun (v : Nat) => let w := ctlW 8 (2 ^ 51 + 2 * 2 ^ 45); issuesB (coreAt w (withW 2 (BitVec.ofNat 32 v))) w) = true := by decide +kernel

/-- Ring 7 runs, and core 0 asks for or holds credit on it. -/
def ringCore (held : Bool) (size w : Nat) (f : CoreSt → CoreSt) : State :=
  coreIn ((((base.wr (.RING_STATE_State 7) 1).wrB (.RING_STATUS_Held 0) held).wr (.RING_STATUS_Ring 0) 7).wr (.RING_STATUS_Size 0) size) w f

theorem test_witness_RingPortRequests :
    (let w := ctlW 0xD (3 * 2 ^ 51 + 2 * 2 ^ 45 + 7 * 2 ^ 41)
     let at_ := fun (size : Nat) => withW 2 (BitVec.ofNat 32 size)
     issuesB (ringCore true 0 w (at_ 16)) w && issuesB (ringCore false 0 w (at_ 8)) w && issuesB ((ringCore false 0 w (at_ 16)).wr (.RING_STATE_State 7) 0) w &&
       issuesB (ringCore false 0 w (at_ 16)) w && (ringCore false 0 w (at_ 16)).headRoom 7 16 && decide (16 ≤ 8 * (ringCore false 0 w (at_ 16)).rd (.CORE_RING_MaxLen 0)) &&
       (let s := (ringCore false 0 w (at_ 16)).updRing 7 fun (g : RingSt) => { g with head := [⟨0, 0, 16384, 0⟩] }
        issuesB s w && !s.headRoom 7 16)) = true ∧
    (let w := ctlW 0xE (3 * 2 ^ 51)
     let good := fun (s : State) => s.setWord (sramLoc 9 0) 0x00020400 false
     issuesB (ringCore false 2 w id) w && issuesB (ringCore true 2 w fun (c : CoreSt) => { c with pc := 8 }) w &&
       (let s := good (ringCore true 2 w fun (c : CoreSt) => { c with pc := 8 })
        issuesB s w && leAt ((s.updCore 0 CoreSt.advance).rcomBytes 0 w).1 0 2 == 0x400 && leAt ((s.updCore 0 CoreSt.advance).rcomBytes 0 w).1 2 2 == 2)) = true ∧
    (let w := ctlW 0xF 0; issuesB (ringCore true 2 w id) w && hasOp w (.ctl 0xF)) = true := by decide +kernel

theorem test_witness_RingPortWaits :
    (let s := (ringCore false 2 0 fun (c : CoreSt) => { c with wait := some (.credit 7 16 3), deadline := some 24 })
     s.locked 1 && (s.core 0).errs.isEmpty && s.rd (.RING_STATE_State 7) == 1 && s.headRoom 7 16 && s.due 24 &&
       ((s.wr (.RING_STATE_State 7) 2).rd (.RING_STATE_State 7) != 1) &&
       !(s.updRing 7 fun (g : RingSt) => { g with head := [⟨0, 0, 16384, 0⟩] }).headRoom 7 16) = true ∧
    (let s := (ringCore true 2 (ctlW 0xE (3 * 2 ^ 51)) fun (c : CoreSt) => { c with wait := some (.copy 3) })
     let b := s.rcomBytes 0 (s.fetch 0).1
     decide ((s.core 0).wait = some (.copy 3)) && s.rd (.RING_STATUS_Ring 0) == 7 && s.rd (.RING_STATE_State 7) == 1 && s.bodySize 7 == 0 &&
       (s.wr (.RING_STATUS_Held 0) 0).headRoom 7 b.1.length) = true ∧
    (let s := (ringCore true 2 0 fun (c : CoreSt) => { c with wait := some (.copy 3) })
     decide ((s.core 0).wait = some (.copy 3)) && (s.core 0).errs.isEmpty) = true := by decide +kernel

theorem test_witness_SleepAndEntries :
    ([0x10, 0x11].all fun (k : Nat) => issuesB (coreAt (ctlW k 0) id) (ctlW k 0) && hasOp (ctlW k 0) (.ctl k)) = true ∧
    (let s := ((coreAt 0 id).wr (.INT_PENDING_Sources 0) 0x8000).wr (.INT_ENABLE_Sources 0) 0xFFFF
     let sleeping := s.wr (.CORE_STATUS_State 0) 2
     sleeping.locked 1 && sleeping.coreState 0 == 2 && sleeping.takeable 0 != 0 && s.coreLive 0 && (s.wr (.INT_SAVE_IE 0) 1).intsOn 0 &&
       bit (s.takeable 0) 15 && (List.range 15).all fun (j : Nat) => !bit (s.takeable 0) j) = true ∧
    (let s := coreAt 0 fun (c : CoreSt) => { c with errs := [4] }
     s.coreLive 0 && !s.nmiActive 0 && (s.wr (.CORE_FLAGS_NmiActive 0) 1).nmiActive 0) = true ∧
    (let w := ctlW 0x13 0; let s := coreAt w id
     s.canIssue 0 && decide (s.fetch 0 = (w, false)) && s.wordError 0 w == 1 && !s.nmiActive 0) = true ∧
    (let s := (coreAt 0 id).setWord (sramLoc 9 (instAddr 0 / 8)) 0 true
     s.canIssue 0 && (s.fetch 0).2 && !s.nmiActive 0) = true := by decide +kernel

theorem test_witness_CoreTimersAndSignals :
    (let s := ((coreAt 0 id).wr (.CORE_CTRL_Wdog 0) 1).wr (.TIMER_Period 0) 1
     let at_ := fun (n : Nat) => s.updTime fun (t : TimeSt) => { t with ticks := n }
     s.coreLive 0 && (at_ 4000).due (100000) && (at_ 40).due 1000 && s.rd (.CORE_CTRL_Wdog 0) == 1 && s.rd (.TIMER_Period 0) == 1) = true ∧
    ([(0x70310, 1), (0x70310, 65536), (0x70328, 0xF000), (0x70328, 0xEFFF)].all fun (k : Nat × Nat) =>
      let w := memW 5 2 0 0
      let s := coreAt w fun (c : CoreSt) => withW 2 (BitVec.ofNat 32 k.2) (withA 0 (BitVec.ofNat 32 k.1) c)
      issuesB s w && oneAcc s w fun (x : Acc) => x.op == 5 && x.addr == k.1 && (s.before 0).get x.r == BitVec.ofNat 32 k.2) = true := by decide +kernel

theorem test_witness_DmaAndStreamPorts :
    (let w := memW 5 2 0 0
     ([(0, 1), (3, 7)].all fun (k : Nat × Nat) =>
      let s := coreIn ((((base.wr (.DMA_SHAPE_Rows 0 k.1) 1).wr (.DMA_SHAPE_RowBytes 0 k.1) 8).wr (.CORE_WIN_Size 0) 1).wr (.REGION_SIZE_Size 2) 8) w fun (c : CoreSt) => withW 2 (BitVec.ofNat 32 k.2) (withA 0 (BitVec.ofNat 32 (0x70114 + 0x20 * k.1)) c)
      issuesB s w && !s.on (.DMA_STATUS_Busy 0 k.1) && (s.wr (.DMA_STATUS_Busy 0 k.1) 1).on (.DMA_STATUS_Busy 0 k.1) &&
        (k.2 == 7 || s.dmaCheck 0 k.1 false false == 0) && oneAcc s w fun (x : Acc) => x.op == 5 && x.addr == 0x70114 + 0x20 * k.1)) = true ∧
    (let s := coreAt 0 fun (c : CoreSt) => { c with dma := vupd c.dma 3 fun _ => some ⟨false, false⟩, sp := vupd c.sp 1 fun _ => ⟨[zeros 16], [zeros 16]⟩ }
     s.locked 1 && s.memMode == 0 && s.dramOpen && !(s.wr .MEM_MODE_Mode 1).dramOpen && !s.inRpt 0 && (s.updCore 0 fun (c : CoreSt) => { c with rpt := some ⟨0, 1, 0, 1, 0⟩ }).inRpt 0 &&
       (let m := s.wr .MEM_MODE_Mode 3; m.memMode == 3 && m.coreLive 0 && !m.nmiActive 0) &&
       (s.wr (.DMA_SHAPE_Rows 0 3) 1).rd (.DMA_SHAPE_Rows 0 3) == 1 && decide (((s.core 0).sp.get 1).offered = [zeros 16])) = true ∧
    (let w := memW 5 2 0 0
     let s := coreAt w fun (c : CoreSt) => withA 0 (BitVec.ofNat 32 (0x70004 + 0x30)) c
     issuesB s w && oneAcc s w fun (x : Acc) => x.op == 5 && x.addr == 0x70034) = true := by decide +kernel
/-! Host interface -/

/-- What `Takes` asks, by evaluation, where a path has nothing outstanding and no transaction waits for the command engine. -/
def takesB (s : State) (p : Fin 9) (code : Nat) : Bool :=
  s.engineUp && (s.host.paths.get p).out.isEmpty && s.host.inQ.isEmpty && servedIn code s.pwr

theorem takes_of (s : State) (p : Fin 9) (code : Nat) (tag : Byte) (h : takesB s p code = true) : s.Takes p code tag := by
  simp only [takesB, Bool.and_eq_true, List.isEmpty_iff] at h
  exact ⟨h.1.1.1, by rw [h.1.1.2]; decide, by rw [h.1.1.2]; simp, by simp [State.turnOf, h.1.2], h.2⟩

/-- A path with these outstanding commands. -/
def outAt (p : Fin 9) (os : List Outst) (s : State) : State := s.updPath p fun (q : PathSt) => { q with out := os }
/-- An outstanding command. -/
def outst (tag : Byte) (code : Nat) (data : Word) : Outst := ⟨tag, code, 0, data, 0, none, 0⟩
/-- A request of 11 bytes with its Crc (R493, R494). -/
def frame11 (code : Nat) : List Byte := let b := le 1 code ++ zeros 9; b ++ le 1 (crc8 b)
/-- The state in which only MGMT answers. -/
def inState (k : Nat) : State := base.wr .PWR_STATE_State k

theorem test_witness_HostCommandsTurnedAway :
    request (.nop 0 0) = none ∧ request (.read 8 5 0x20) = some (8, 1, 5, 0x20) ∧ State.reset.engineUp = false ∧
    (let eight := (List.range 8).map fun (k : Nat) => outst (BitVec.ofNat 8 k) 1 0
     let s := outAt 8 eight base; let t := outAt 8 (eight.drop 1) base
     s.engineUp && (s.host.paths.get 8).out.length == 8 && (t.host.paths.get 8).out.length == 7 && (t.host.paths.get 8).out.any fun (o : Outst) => o.tag == 7) = true ∧
    (inState 0).engineUp = true ∧ servedIn 2 (inState 0).pwr = false ∧ servedIn 9 base.pwr = false ∧
    (let s := { base with host := { base.host with inQ := [⟨8, 2, 4, 0, 0, none⟩, ⟨8, 1, 5, 0x20, 0, none⟩, ⟨0, 1, 6, 0, 0, none⟩], mgmtLast := true } }
     !s.turnOf 8 1 5 && !s.turnOf 8 2 4 && s.turnOf 0 1 6 && s.turnOf 1 1 6 &&
       (let t := { s with host := { s.host with mgmtLast := false } }; t.turnOf 8 2 4 && !t.turnOf 0 1 6)) = true := by decide +kernel

theorem test_witness_OutstandingUntilAnswered :
    takesB base 8 1 = true ∧ base.respRoom 8 = true ∧ base.host.respWait = [] ∧
    (let s := { base with host := { base.host with respQ := (List.range 16).map fun (k : Nat) => mkResp 1 (BitVec.ofNat 8 k) 0 0 0 0 0 } }
     s.respRoom 8) = false := by decide +kernel

theorem test_witness_MgmtTransactions :
    State.reset.engineUp = false ∧ base.engineUp = true ∧ base.host.respQ = [] ∧ base.host.respWait = [] ∧
    ([1, 16, 17, 15].all fun (k : Nat) => reqCrcOk (frame11 k) && leAt (frame11 k) 0 1 == k) = true ∧
    ([0, 15].all fun (k : Nat) => reqCrcOk (frame11 k) && leAt (frame11 k) 0 1 == k) = true ∧
    ([1, 15].all fun (k : Nat) => !reqCrcOk (le 1 k ++ zeros 10)) = true ∧
    (let s := { base with host := { base.host with respQ := [mkResp 1 2 3 0 4 0 0] } }
     s.engineUp && s.host.respQ.length == 1 && s.host.respWait.isEmpty) = true ∧
    (let s := { base with host := { base.host with respQ := (List.range 16).map fun (k : Nat) => mkResp 1 (BitVec.ofNat 8 k) 0 0 0 0 0 } }
     s.engineUp && decide (16 ≤ s.host.respQ.length)) = true := by decide +kernel

theorem test_witness_NopAndRepeat :
    base.engineUp = true ∧ base.turnOf 0 15 7 = true ∧ base.turnOf 8 15 7 = true ∧ (base.host.paths.get 0).last = none ∧
    ({ base with host := { base.host with inQ := [⟨8, 2, 4, 0, 0, none⟩, ⟨8, 15, 7, 0, 0, none⟩] } } : State).turnOf 8 15 7 = false ∧
    ((base.updPath 0 fun (q : PathSt) => { q with last := some (mkResp 1 2 3 0 4 0 0) }).host.paths.get 0).last = some (mkResp 1 2 3 0 4 0 0) := by
  decide +kernel

theorem test_witness_RegisterReads :
    takesB base 8 1 = true ∧
    (let served := fun (s : State) (a : Nat) => readStatus a == 0 && !s.readHeld a && !s.gated a false
     let plain := fun (a : Nat) => served base a && !inBuffer a && !inWindow a && !isRsh a && !isMemData a && !base.peekPoison a && base.latched 8 a == none
     plain 0x20000 && (halfOf 0x20000 == .whole) && plain 0x10100 && (halfOf 0x10100 == .low) && plain 0x10104 && (halfOf 0x10104 == .high) &&
       served base 0x1000 && inBuffer 0x1FFC && served base 0x1FFC && isRsh 0x8020000 && served base 0x8020000 && served base 0x30800C && served base 0x3083CC &&
       (let s := base.updPath 8 fun (q : PathSt) => { q with regLatch := [(0, [1, 2, 3, 4, 5, 6])], rdShadow := some (0x10104, 9) }
        s.latched 8 0x308010 == some 1 && (s.host.paths.get 8).rdShadow == some (0x10104, 9) && served s 0x308010)) = true := by decide +kernel

theorem test_inert (t : State) (v : Nat) : t.writeEffect 0x20080 v [] = t ∧ t.writeEffect 0x10130 v [] = t := by
  constructor <;> simp [State.writeEffect]

theorem test_witness_RegisterWrites :
    takesB base 8 2 = true ∧
    (let served := fun (a : Nat) => base.writeStatus a == 0 && !base.gated a true
     let plain := fun (a : Nat) => served a && !inBuffer a && !inWindow a && !isMemData a
     plain 0x20080 && halfOf 0x20080 == .whole && plain 0x10134 && halfOf 0x10134 == .low && (cMask 0x10134 ||| vMask 0x10134) != 0 && plain 0x10138 &&
       halfOf 0x10138 == .high && (cMask 0x10138 ||| vMask 0x10138) != 0 && served 0x1000 && inBuffer 0x1FFC && inMirror 0x8000000 && (0x8000000 % 4 == 0) &&
       takesB (inState 1) 8 2 && cMask 0x20080 != 0 && (findReg 0x20080).isSome && (base.host.paths.get 8).wrShadow == none) = true := by decide +kernel

theorem test_witness_SnapshotsAndWaitingAccesses :
    takesB base 8 3 = true ∧ takesB base 8 1 = true ∧ takesB base 8 2 = true ∧ base.host.snapRun = none ∧
    (let s := { base with host := { base.host with snapRun := some ⟨0, [], []⟩, snapBy := [(8, 5)] } }
     readStatus 0x8020000 == 0 && s.readHeld 0x8020000) = true ∧
    (let s := base.wr .CLK_STATUS_Locked 0
     readStatus 0x300008 == 0 && !s.readHeld 0x300008 && s.gated 0x300008 false && s.writeStatus 0x304004 == 0 && s.gated 0x304004 true) = true ∧
    (let s := base.updTime fun (t : TimeSt) => { t with ticks := 40000 }; s.due 1000000) = true := by decide +kernel

theorem test_witness_KeysLatchesAndMailboxes :
    takesB base 8 2 = true ∧ takesB base 8 14 = true ∧ base.respRoom 8 = true ∧ base.host.respWait = [] ∧ base.epoch.sched = none ∧
    (let c : Sched := ⟨1, 1, [(0x20080, 5), (0x20084, 1)]⟩
     let s := { base with epoch := { base.epoch with sched := some c } }
     decide (s.now < c.tc) && takesB s 8 2) = true ∧
    (base.wr .SYS_WDOG_HostKick 1).on .SYS_WDOG_HostKick = true ∧ base.gated 0x400010 true = false ∧ base.gated 0x4F0010 true = false := by decide +kernel

/-- An IPv4 command datagram to link 0 with one NOP transaction of R499. -/
def cmdFrame : List Byte :=
  let pay := le 2 0x5A43 ++ [1, 1] ++ zeros 4 ++ frame11 1 ++ zeros 1
  let udp : List Byte := [0, 1, 0x5A, 0x4A, 0, 28, 0, 0] ++ pay
  let ip0 : List Byte := [0x45, 0, 0, 48, 0, 0, 0, 0, 64, 17]
  let sum := inetSum (ip0 ++ zeros 10)
  zeros 12 ++ [8, 0] ++ ip0 ++ (le 2 sum).reverse ++ zeros 8 ++ udp

/-- Link 0 receives commands. -/
def linked : State :=
  (((base.wr (.LINK_CFG_Enable 0) 1).wr (.LINK_CMD_CmdEnable 0) 1).wr (.RING_STATE_State 12) 1).updLink 0 fun (l : LinkSt) => { l with lock := true, rxLock := true }

theorem test_witness_CommandDatagrams :
    base.receives 0 = false ∧ linked.receives 0 = true ∧ cmdFrame.length = 62 ∧
    (let p := linked.commandOf 0 cmdFrame
     match p with
     | none => false
     | some (b, peer) =>
       let r := linked.cmdRecord 0 peer b
       payloadOk b && linked.headRoom 12 r.length && !linked.betweenBursts && leAt b 3 1 == 1 && reqCrcOk ((b.drop 8).take 11) && leAt b 8 1 == 1 &&
         (linked.wr .PWR_STATE_State 3).betweenBursts && !(linked.updRing 12 fun (g : RingSt) => { g with head := [⟨0, 0, 16384, 0⟩] }).headRoom 12 r.length) = true ∧
    linked.commandOf 0 (zeros 60) = none ∧
    (let f := zeros 12 ++ [0x88, 8, 0, 1] ++ zeros 44
     f.length == 60 && (parseFrame f).type == 0x8808 && (parseFrame f).vid == none && beAt (parseFrame f).rest 0 2 == 1 && !linked.on (.LINK_CFG_Pfc 0)) = true := by
  decide +kernel

theorem test_witness_CommitsAndTheirTimes :
    takesB base 8 4 = true ∧ takesB (inState 1) 8 4 = true ∧ base.pwr = 2 ∧
    (let fails := fun (s : State) =>
       let t := (s.taken 8 4 0 0 0).showChecks s.resulting
       ({ t with regs := t.newestRegs } : State).failReasons s.resulting
     let ahead := (base.wr .COMMIT_TIME_LO_TimeLo 1000)
     let woken := { ahead with power := { ahead.power with wakeAt := some 5 } }
     let far := base.wr64 .COMMIT_TIME_LO_TimeLo 600000000001
     fails base == [] && fails ahead == [] && fails woken == [] && woken.power.wakeAt.isSome && base.rd64 .COMMIT_TIME_LO_TimeLo == 0 && decide (ahead.now < ahead.rd64 .COMMIT_TIME_LO_TimeLo) &&
       decide (far.now + 600000000000 < far.rd64 .COMMIT_TIME_LO_TimeLo) &&
       (let t := base.taken 8 4 3 0 0
        (t.commitsWaiting.map fun (x : Fin 9 × Outst) => (x.1.val, x.2.tag)) == [(8, 3)] && !t.writeBefore 0 &&
          (let u := (base.taken 8 2 7 0x501000 1).taken 8 4 3 0 0
           let w := { u with host := { u.host with gateWait := [(⟨8, 2, 7, 0x501000, 1, none⟩, 0)] } }
           (w.commitsWaiting.map fun (x : Fin 9 × Outst) => (x.2.tag, x.2.no)) == [(3, 1)] && w.writeBefore 1)) &&
       (fails { base with epoch := { base.epoch with pend := [(0x501000, 0)] } }).length != 2) = true := by decide +kernel

theorem test_witness_FunctionCommands :
    ([(5, 1, 3), (6, 5, 15), (7, 6, 0), (5, 9, 1), (6, 6, 13)].all fun (x : Nat × Nat × Nat) => takesB base 8 x.1 && fnValid x.2.1 x.2.2) = true ∧
    ([8, 11, 12, 16].all fun (r : Nat) => !fnValid 6 r) = true ∧ fnValid 0 0 = false ∧ fnValid 9 2 = false ∧ base.measuring = true ∧ base.fnHalted 4 0 = true ∧
    (base.updCore 0 id).fnHalted 5 0 = true ∧ (base.wr (.CORE_STATUS_State 0) 1).fnHalted 5 0 = false ∧
    (let c : Sched := ⟨1, 1, [(0x600004, 5)]⟩
     ({ base with epoch := { base.epoch with sched := some c } } : State).geometryWaits 0) = true := by decide +kernel

/-- One command of a function waits: the witness of `alone`. The halt of an idle port's function is over at once, that of a running core is not. -/
theorem test_alone :
    (outAt 8 [outst 5 6 0x0301] base).fnWaiting 1 3 = [(8, outst 5 6 0x0301)] ∧
    (base.taken 8 6 9 0 0x0301).fnWaiting 1 3 = [(8, ⟨9, 6, 0, 0x0301, base.xt, none, 0⟩)] ∧
    (let two := (base.taken 8 7 9 0 0x0301).taken 8 6 10 0 0x0301
     ((two.fnWaiting 1 3).map fun (x : Fin 9 × Outst) => x.2.tag) == [9, 10]) = true ∧
    (let a := ((base.taken 8 7 9 0 0x0304).fnHalt 4 3 true).unmarkFn 4 3; a.fnHalted 4 3) = true ∧
    (let r := base.wr (.CORE_STATUS_State 3) 1
     let a := ((r.taken 8 5 9 0 0x0305).fnHalt 5 3 true).unmarkFn 5 3
     !a.fnHalted 5 3 && r.coreState 3 != 0 && (a.core 3).aborting) = true := by decide +kernel

theorem test_witness_ImageChunksAndFlash :
    ([9, 10, 11, 12].all fun (k : Nat) => takesB (inState 1) 8 k) = true ∧ (inState 1).image.validating = false ∧ (inState 1).image.staged = [] ∧
    (inState 1).host.flashRun = none ∧ 65536 ≤ (inState 1).image.flashSize ∧
    ([8, 4096].all fun (n : Nat) => let all := (inState 1).bufBytes 8 (min n 4096)
      all.length == n && decide (64 ≤ all.length → leAt all 12 4 ≤ 16777216)) = true ∧
    (let r : Running := ⟨8, 5, 12, 0, 2, 0, [1, 2]⟩
     backBytes [1, 2] r.len == r.data && backBytes [1, 3] r.len != r.data &&
       (base.updTime fun (t : TimeSt) => { t with ticks := 400000 }).due (r.since + flashLimit r) && !base.due (r.since + flashLimit r)) = true := by decide +kernel

theorem test_witness_FuseBurns :
    takesB (inState 1) 8 16 = true ∧ (inState 1).host.fuseRun = none ∧ (inState 1).on .FUSE_STATUS_KeyHash = false ∧ (inState 1).on .FUSE_STATUS_Lock = false ∧
    (((inState 1).wr .FUSE_STATUS_KeyHash 1).on .FUSE_STATUS_KeyHash) = true := by decide +kernel
/-! Fibre ports -/

/-- Port 0 has a plan: 20 µs, one tone, 64 positions, RTRIG in every shot. -/
def planned : State :=
  (((base.wr (.SHOT_PERIOD_Period 0 0) 2000).wr (.PLAN_CTRL_ToneCount 0 0) 1).wr (.WIN_POS_WinPos 0 0) 64).wr (.RAMAN_TRIG_RamanM 0 0) 1
/-- Port 0 runs; its next boundary is due. -/
def shooting : State := planned.updProbe 0 fun (b : ProbeSt) => { b with running := true, bounds := [0], hostStopped := false }
/-- The same without RTRIG. -/
def quiet : State := shooting.wr (.RAMAN_TRIG_RamanM 0 0) 0
/-- An epoch that port 0 has not yet taken. -/
def epochIn (cs : Sparse Word) (s : State) : State :=
  { s with epoch := { s.epoch with queue := [⟨1, 0, 0, cs, [fnPort 0], 0, 0⟩] } }
/-- A shot of port 0 under the registers of a state. -/
def shotIn (s : State) : Shot := ⟨0, 0, 0, 0, 0, 0, 0, false, true, false, s.regs⟩
/-- The same state 1 ms on. -/
def later (s : State) : State := s.updTime fun (t : TimeSt) => { t with ticks := t.ticks + 400000 }

theorem test_witness_ShotBoundaries :
    ([shooting, quiet].all fun (s : State) => s.due 0 && s.locked 1 && (s.probeOf 0).bounds == [0] && (s.probeOf 0).running && (s.nextEpochOf (fnPort 0)).isNone &&
      (s.calBoundary 0 0 false).sampling) = true ∧ ((shooting.wr .CLK_STATUS_Locked 0x1E).calBoundary 0 0 false).sampling = false ∧
    (let v := shooting.calBoundary 0 0 false
     (planOf v.regs 0 0).m == 1 && (planOf (quiet.calBoundary 0 0 false).regs 0 0).m == 0 && !isPrimary v.regs 0 && !isSecondary v.regs 0 &&
       !(shooting.ramOf 0).stopped && v.rd (.FIBRE_TEST_Mode 0) != 3) = true ∧
    (let a := epochIn [(0x100000, 0)] shooting; let b := epochIn [] shooting
     (a.nextEpochOf (fnPort 0)).isSome && (b.nextEpochOf (fnPort 0)).isSome && (b.switchPort 0 0).2 && !((epochIn [((Fld.PLAN_CTRL_ToneCount 0 0).addr, 0), ((Fld.RAMAN_TRIG_RamanM 0 0).addr, 0)] quiet).switchPort 0 0).2) = true ∧
    (let w := shooting.wr .CLK_CFG_ClkSrc 1
     let l := w.loseLoop 5 3
     w.on .CLK_CFG_ClkSrc && (w.loops.get 5).phase == 0 && decide (200 < (201 - (w.loops.get 5).phase).natAbs) && decide (¬ 200 < (200 - (w.loops.get 5).phase).natAbs) &&
       (l.nextEpochOf (fnPort 0)).isNone) = true ∧
    base.on .CLK_CFG_ClkSrc = false ∧ (planned.probeOf 0).running = false ∧ (planned.probeOf 0).bounds = [] := by decide +kernel

theorem test_witness_TonesAndExternalEvents :
    (let s := (shooting.updProbe 0 fun (b : ProbeSt) => { b with launches := [(0, 0, 0)] }).updPort 0 fun (q : PortSt) => { q with shots := [shotIn shooting] }
     (s.probeOf 0).launches.find? (fun (l : Nat × Nat × Nat) => l.2.1 == 0 && s.due l.2.2) == some (0, 0, 0) &&
       ((s.ports.get 0).shots.find? (fun (h : Shot) => h.id == 0)).isSome) = true ∧
    (let s := ((quiet.wr (.PLAN_CTRL_StartSrc 0 0) 1).wr (.EXT_START_ExtWidthMin 0 0) 1).wr (.EXT_START_ExtWidthMax 0 0) 10
     let plan := planOf s.regs 0 0
     let w := s.updProbe 0 fun (b : ProbeSt) => { b with waitFrom := some 0 }
     let l := (later s).updProbe 0 fun (b : ProbeSt) => { b with lastEvent := some 0 }
     plan.ext && !plan.idle && s.rd .EMT_CTRL_FrameSrc != 3 && decide (plan.extMin ≤ 50) && decide (50 ≤ plan.extMax) && (w.probeOf 0).waitFrom == some 0 &&
       (l.probeOf 0).waitFrom == none && decide (0 + plan.shotT ≤ l.xt + 0 + 1000) &&
       decide (s.xt + 0 + 1000 < 0 + plan.shotT) && l.due (plan.shotT + 1000) && !s.due (plan.shotT + 1000)) = true := by decide +kernel

theorem test_witness_GatesAndWindows :
    (let o := shooting.updProbe 0 fun (b : ProbeSt) => { b with gates := [(0, 100)], rtrig := true }
     ((o.gatesKnown 0).any fun (g : Nat × Nat) => decide (g.1 < o.xt + 25) && decide (o.xt < g.2) && decide (o.xt + 25 ≤ g.2)) && base.gatesKnown 0 == [] &&
       o.due (o.probeOf 0).rtrigEnd) = true ∧
    (let w : ToneWin := ⟨0, 0, 0, 1, false, none, 0, 0, false⟩
     let v : ToneWin := { w with opened := true }
     let put := fun (w : ToneWin) => shooting.updPort 0 fun (q : PortSt) => { q with wins := [w], shots := [shotIn shooting] }
     (put w).due 0 && (put v).due 1 && ((put v).ports.get 0).wins.findIdx? (fun (w : ToneWin) => w.tone == 0 && w.opened && (put v).due (w.cut.getD w.closeAt)) == some 0 &&
       ((put w).ports.get 0).wins.findIdx? (fun (w : ToneWin) => w.tone == 0 && !w.opened && w.cut.isNone && (put w).due w.openAt) == some 0 &&
       (let n := 2 * (v.cut.getD v.closeAt - v.openAt); (List.replicate 23 (⟨0, false⟩ : Sample)).length == n + 21)) = true ∧
    (let r : RamanWin := ⟨0, 0, 8, true, false, false⟩
     let s := shooting.updPort 0 fun (q : PortSt) => { q with rwin := some r, shots := [shotIn shooting] }
     let half := if rfRd s.regs (.FE_CTRL_RamanRate 0) = 1 then 4 else 8
     let bounds := s.gridBounds 0
     let h0 := gridFrom bounds half 0
     let grid := (gridRun bounds (fun (_ : Nat) => half) (16 / half + 1 + bounds.length) h0).filter fun (h : Nat) => decide (h < 16)
     let xs := List.replicate (ramanPre half + grid.length) (⟨0, false⟩ : Sample)
     let hs := ramanHs bounds (fun (_ : Nat) => half) h0 xs
     let cfg := fun (_ : Nat) => s.regs
     let out := fun (s : State) => s.convRam 0 cfg 4 (ramanPre half) hs ++ s.convRam 0 cfg 5 (ramanPre half) hs
     let cut := s.updPort 0 fun (q : PortSt) => { q with rcut := some { r with stray := true } }
     let span := s.updFe 0 fun (f : FeSt) => { f with spans := [(4, 0, 9)] }
     (cut.ports.get 0).rcut.isSome && (cut.ports.get 0).rwin == some r && (s.ports.get 0).rcut.isNone && s.due 8 && !grid.isEmpty && (out s).length == 2 * grid.length && (out s).all (fun (c : Conv) => !c.invalid) && (out span).any (fun (c : Conv) => c.invalid)) = true := by
  decide +kernel

theorem test_witness_FrontEndPowerAndCapture :
    (let s := (later (later (later base))).updFe 0 fun (f : FeSt) => { f with refFrom := some 0, downAt := some 0 }
     s.due 2000000 && (List.finRange 6).all (fun (j : Fin 6) => (s.feOf 0).sliceFrom.get j == none) && !s.on (.FE_CTRL_RefKeep 0) && !base.due 2000000 &&
       (s.wr (.FE_CTRL_RefKeep 0) 1).on (.FE_CTRL_RefKeep 0)) = true ∧
    takesB base 8 2 = true ∧ base.gated (portAddr 0 0x210).toNat true = false ∧ base.gated (portAddr 0 0x300).toNat true = false ∧
    (let arm := fun (s : State) (d : Word) => ((s.taken 8 2 5 (portAddr 0 0x300) d).putWord (portAddr 0 0x300).toNat d).armError 0
     let slices := fun (s : State) => s.updFe 0 fun (f : FeSt) => { f with sliceFrom := Vector.replicate 6 (some 0) }
     let ring := (base.wr (.RING_STATE_State 14) 1).wr (.RING_CFG_Links 14) 1
     arm (base.wr (.CAP_STATUS_State 0) 1) 0x100001 == 4 && arm base 1 == 1 && arm ring 0x100001 == 3 && arm (slices ring) 0x100001 == 0 && arm (slices ring) 0x100101 == 0) = true ∧
    (let c1 := (base.wr (.CAP_STATUS_State 0) 1).updCap 0 fun (c : CapSt) => { c with ctrl := 0x200 }
     let c2 := (base.wr (.CAP_STATUS_State 0) 2).updCap 0 fun (c : CapSt) => { c with total := 1 }
     let c3 := ((base.wr (.CAP_STATUS_State 0) 1).updCap 0 fun (c : CapSt) => { c with ctrl := 0x500 }).updPort 0 fun (q : PortSt) => { q with shots := [shotIn base] }
     let c4 := ((base.wr (.CAP_STATUS_State 0) 1).updCap 0 fun (c : CapSt) => { c with ctrl := 0x300 }).updPort 0 fun (q : PortSt) =>
       { q with rwin := some ⟨0, 0, 8, true, false, false⟩ }
     let xs := List.replicate 21 (⟨0, false⟩ : Sample) ++ [⟨0x1FFF, false⟩, ⟨0, false⟩]
     (c1.feOf 0).cap.trigger == 2 && (c1.feOf 0).cap.to_ == 0 && c1.rd (.CAP_STATUS_State 0) == 1 && (c3.feOf 0).cap.windowOnly && (c3.feOf 0).cap.trigger == 1 &&
       (c3.ports.get 0).shots.any (fun (x : Shot) => 2 * x.at_ == 0) && (c4.feOf 0).cap.trigger == 3 && (c4.ports.get 0).rwin.isSome && !(c1.feOf 0).cap.gap &&
       (match c1.capConv 0 (c1.feOf 0).cap.source 40 (xs.drop 1) with | x :: _ => x.ovr && x.h == 40 && (sourceSlices (c1.feOf 0).cap.source).contains x.j | [] => false) && !(c2.feOf 0).cap.windowOnly && decide ((c2.feOf 0).cap.index < (c2.feOf 0).cap.total) && c2.rd (.CAP_STATUS_State 0) == 2) = true := by
  decide +kernel

/-- An item of a position. -/
def itemAt (z : Nat) : Item := ⟨0, 0, 0, 0, 0, 0, true, true, true, 0, 0, z, 0, 0, 0, 1, 0, base.regs⟩

theorem test_witness_ChainAndProductSteps :
    base.locked 1 = true ∧ (base.chainOf 0).queue = [] ∧ (base.chainOf 0).items = [] ∧ (base.chainOf 0).peek = none ∧
    (let sw : SlotWin := ⟨shotIn planned, 0, 0, [], [], 0, 0, 0, 0, 0, true⟩
     let n := (planOf planned.regs 0 0).winPos - gaugeOf planned.regs 0
     let s := planned.updChain 0 fun (c : ChainSt) => { c with queue := [sw], items := [itemAt 3], peek := some 3 }
     !s.needsDram 0 base.regs && s.dramOpen && (s.dasOf 0).switches.isEmpty && !(s.wr (.CLK_STATUS_Locked) 0x1B).dramOpen &&
       (s.wr (.CAPEV_CTRL_Enable 0) 1).needsDram 0 (s.wr (.CAPEV_CTRL_Enable 0) 1).regs && decide (sw.nextZ + 1 < n) && (s.chainOf 0).queue.length == 1 && (s.chainOf 0).items.length == 1 && (s.chainOf 0).peek == some 3) = true ∧
    takesB base 8 2 = true ∧ base.gated (portAddr 0 0x440).toNat true = false ∧
    (let w : BandWinSt := ⟨0, 1000, 0, 0, false, 0, 0⟩
     let x : TraceSec := ⟨0, 1, [], 0, 0, 0, 0, 0, 0, 0, false, 0, 0⟩
     let s := base.updPort 0 fun (q : PortSt) => { q with das := { q.das with ranges := vupd q.das.ranges 0 fun (g : RangeSt) => { g with wins := [w] }, traces := [x] } }
     let t := s.updTime fun (t : TimeSt) => { t with ticks := 40000000, lam48 := 1000000000 * 2 ^ 48 }
     (s.rangeOf 0 0).wins == [w] && (s.dasOf 0).traces == [x] && s.power.released && !s.deliveredTo 0 1000 && t.deliveredTo 0 1000 && !s.deliveredTo 0 1000000000 &&
       t.deliveredTo 0 1000000000 && (s.dasOf 0).traceLast == none) = true := by decide +kernel

theorem test_witness_SamplesFuseIntoOnePhase :
    (let x : Pos := ⟨List.replicate 8 3, List.replicate 8 200, 7⟩
     x.off.length == 8 && x.q.length == 8 && x.q.all (fun (v : Nat) => decide (v ≤ 255)) && x.off.all fun (v : Nat) => decide (v < 65536)) = true := by decide

theorem test_witness_EventCaptures :
    takesB base 8 2 = true ∧ base.pwr ≠ 1 ∧ base.gated (portAddr 0 0x620).toNat true = false ∧ base.memMode ≠ 3 ∧ (base.evOf 0).waiting = [] ∧
    (base.wr (.CAPEV_CTRL_Enable 0) 1).on (.CAPEV_CTRL_Enable 0) = true ∧ base.rd (.CAPEV_STATUS_State 0) = 0 ∧
    (let s := base.wr (.CAPEV_STATUS_State 0) 1
     (base.wr (.CAPEV_STATUS_State 0) 2).dramOpen && s.deliveredTo 0 (s.evOf 0).close.1 && s.locked 1 && !(s.updEv 0 fun (e : EvCapSt) => { e with endAt := 5 }).deliveredTo 0 5) = true := by decide +kernel

/-- The auxiliary converter scans: 1 Hz, input 0. -/
def scanning : State :=
  let s := { base with aux := { base.aux with running := true, active := true, seq := 1, cfg := rfWr base.regs (.AUX_CTRL_TcEnable) 1 } }
  s.updTime fun (t : TimeSt) => { t with ticks := 40000000 }

theorem test_witness_RamanPassesAndAuxiliaryScans :
    (let g : PassSt := ⟨0, 0, 0, 0, none, 1, 0, 1, 0, false, none, 1, 0, 0, 0, 0, 0, none, false, false, base.regs⟩
     let s := base.updRam 0 fun (r : RamSt) => { r with passes := [g] }
     (s.ramOf 0).passes.length == 1 && s.locked 1 && !(s.wr .CLK_STATUS_Locked 0x1D).locked 1) = true ∧ (base.ramOf 0).passes = [] ∧
    (let s := scanning; let len := slotLen s.aux.cfg
     s.due s.aux.nextAt && (s.nextEpochOf fnAux).isNone && bit (rfRd s.aux.cfg .AUX_CTRL_TcEnable) 0 && s.due (s.aux.scanAt + 200000) && !s.aux.cjDone &&
       s.due (s.aux.scanAt + 5 * len) && s.due (s.aux.scanAt + len) && (s.aux.tcs.get 0).conv.isNone && !(s.aux.tcs.get 0).pulsed) = true ∧
    (let s := { scanning with aux := { scanning.aux with tcs := vupd scanning.aux.tcs 0 fun (t : TcSt) => { t with pulsed := true } } }
     (s.aux.tcs.get 0).pulsed && !(s.aux.tcs.get 0).done) = true ∧ base.aux.running = false := by decide +kernel

/-- The device watches in SENTINEL, with port 0 in the mask. -/
def watchful : State := (((base.wr .PWR_STATE_State 3).wr .WATCH_CTRL_Ports 1).wr .WATCH_PERIOD_Lead 0).wr .WATCH_PERIOD_Period 0

theorem test_witness_ZonesAndSentinel :
    (let u := { base with zone := { base.zone with low := true } }
     u.zone.low && u.zone.last.isNone && decide (2349 < 2350 ∧ 2350 ≤ 2350 ∧ 2249 < 2250)) = true ∧
    (let t := { base with zone := { base.zone with last := some 0 } }; t.zone.last == some (t.now / 100000000)) = true ∧
    (let w := watchful.wr (.PLAN_CTRL_ToneCount 0 1) 1
     !(planOf w.regs 0 1).idle && (planOf watchful.regs 0 1).idle) = true ∧
    base.zone.last = none ∧ base.zone.low = false ∧ base.pwr = 2 ∧ (inState 1).pwr = 1 ∧ (base.zoneSource 0).isNone = true ∧
    (((base.wr (.ZONE_CFG_Source 0) 1).wr (.ZONE_TIMEOUT_Timeout 0) 1).updPort 0 id).zone.low = false ∧
    watchful.watching = true ∧ watchful.power.phase = 0 ∧ watchful.watchPorts = [0] ∧ watchful.due (watchful.burstAt - watchful.watchLead) = true ∧
    (let ph := fun (k : Nat) (s : State) => s.updPower fun (w : PowerSt) => { w with phase := k }
     let off := (watchful.wr (.MC_CFG_Enable 0) 1).wr (.MC_STATUS_State 0) 1
     (ph 1 watchful).watching && (ph 1 watchful).due (ph 1 watchful).burstAt && ((watchful.wr (.MC_CFG_Enable 0) 0).wr (.MC_CFG_Enable 1) 0).dramReady && !off.dramReady &&
       (ph 2 watchful).burstDrained 0 && ((ph 2 watchful).wr (.MC_CFG_Enable 0) 0 |>.wr (.MC_CFG_Enable 1) 0).dramReady && (ph 3 watchful).due ((ph 3 watchful).burstAt - (ph 3 watchful).watchLead) &&
       (let s := (((ph 2 watchful).wr .WAKE_DAS_Enable 1).wr .WAKE_DAS_K 1).updProbe 0 fun (b : ProbeSt) => { b with bandSeen := true, bandHit := true }
        s.watching && s.on .WAKE_DAS_Enable && s.rd .WAKE_DAS_K == 1 && (s.probeOf (fin 3 (s.rd .WAKE_DAS_Port))).bandHit && s.burstDrained 0)) = true ∧
    (watchful.wr .WATCH_CTRL_PinWake 1).on .WATCH_CTRL_PinWake = true ∧ base.watching = false := by decide +kernel
/-! Free-space road -/

/-- `n` crystal ticks on. -/
def ticksOn (n : Nat) (s : State) : State := s.updTime fun (t : TimeSt) => { t with ticks := t.ticks + n, lam48 := t.lam48 + (incOf t.corr).toNat * n }
/-- Lane l is enabled and times emitter port 0. -/
def laneOn (l : Nat) (s : State) : State := (s.wr (.LANE_CFG_Enable l) 1).wr (.LANE_CFG_Emitter l) 0
/-- A shot of an emitter port. -/
def eShot (tp : Nat) (st : Option Nat) (diag : Option (Bool × Nat)) : EShot := ⟨0, tp, 0, none, diag, st, st.isSome, []⟩
/-- Emitter port 0 has these shots. -/
def withShots (hs : List EShot) (s : State) : State := s.updE 0 fun (p : EPort) => { p with shots := hs }

/-- Lane l has a bin-width table of one tap of 2 LSB. -/
def tapped (l : Fin 266) (s : State) : State := s.updLane l fun (y : LaneSt) => { y with table := [256] }
/-- The fine part of the edge of that tap, whatever the place in the tap is. -/
theorem test_fine : fineOf [256] 0 = 0 := by simp [fineOf, ceilDiv, Nat.mod_one]

theorem test_witness_LaneEdgesAndStarts :
    (let opens := fun (s : State) (l : Nat) (uv : Int) => s.locked 3 && !s.pinOff l && compOut s.regs l false uv && !s.on (.LANE_TRIM_Level l)
     let free := fun (s : State) (l : Nat) => (s.lane l).blind.isNone && (s.lane l).hold.isNone && s.on (.LANE_CFG_Enable l)
     [3, 255, 256, 263, 264, 265].all fun (l : Nat) => opens (laneOn l base) l 1000000 && free (laneOn l base) l && !synLane (laneOn l base).regs l &&
       (base.edgeShots l 0).isEmpty) = true ∧
    (let s := (laneOn 3 base).updLane 3 fun (y : LaneSt) => { y with hold := some 0, blind := some (0, 5) }
     (s.lane 3).hold == some 0 && decide (0 < 0 + 512 * (s.wr (.LANE_CFG_HoldOff 3) 1).rd (.LANE_CFG_HoldOff 3)) && (s.lane 3).blind == some (0, 5)) = true ∧
    (let s := tapped 3 (ticksOn 1 (withShots [eShot 0 (some 2000) none] (((laneOn 3 base).wr (.LANE_WIN_Open 3) 0).wr (.LANE_WIN_Close 3) 100)))
     let h := eShot 0 (some 2000) none
     let stamp := (s.spanU 0 (s.xu + 0)).toNat
     (s.lane 3).table == [256] && (s.ep (fin 7 (s.rd (.LANE_CFG_Emitter 3)))).shots == [h] && s.edgeShots 3 s.xu == [(0, h)] && decide (128 * rfRd (s.shotCfg 0 h) (.LANE_WIN_Open 3) ≤ stamp) &&
       decide (stamp < 128 * rfRd (s.shotCfg 0 h) (.LANE_WIN_Close 3))) = true ∧
    (let s := tapped 256 (ticksOn 1 (withShots [eShot 0 none none] (laneOn 256 base)))
     (s.lane 256).table == [256] && decide (640 ≤ s.spanU 0 s.xu) && decide (s.spanU 0 s.xu < 5120) && s.edgeShots 256 s.xu == [(0, eShot 0 none none)] &&
       (s.ep 0).shots.all fun (h : EShot) => !h.searched && h.diag.isNone) = true ∧
    (let s := tapped 256 (ticksOn 2 (withShots [eShot 0 none none] (laneOn 256 base)))
     decide (5120 ≤ s.spanU 0 s.xu) && s.dueU (0 + 5120)) = true ∧
    ([none, some (false, 3), some (true, 3)].all fun (d : Option (Bool × Nat)) => let s := ticksOn 2 (withShots [eShot 0 none d] base)
      let cut := s.updE 0 fun (p : EPort) => { p with isoCut := true, isoGot := [1, 2] }
      (s.ep 0).shots.find? (fun (g : EShot) => !g.searched && s.dueU (g.tp + 5120)) == some (eShot 0 none d) && (s.ep 0).low.get 3 == 0 &&
        (s.ep 0).diags.isEmpty && (s.ep 0).line.isNone && (s.ep 0).isoGot.isEmpty && !(s.ep 0).isoCut && (cut.ep 0).isoCut && (cut.ep 0).isoGot.length == 2 &&
        (s.ep 0).isoRuns == 0) = true ∧ (base.wr .LANE_TEST_Inject 1).pinOff 3 = true := by decide +kernel

theorem test_witness_RegressionChannels :
    (let s := (base.wr (.REG_CFG_Enable 2) 1).wr (.REG_CFG_Gate 2) 8
     let g := fun (k : Nat) (s : State) => s.updChannel 2 fun (c : RegChan) => { c with gate := (List.range k).map fun (i : Nat) => (k - i, (k - i) * 12800) }
     s.channelRuns 2 && !(s.wr .CLK_STATUS_Locked 0x17).locked 3 && (base.wr .CLK_STATUS_Locked 0x17).channelRuns 2 && !(base.wr .CLK_STATUS_Locked 0x17).channelRuns 5 && s.on (.REG_CFG_Enable 2) && s.rd (.REG_CFG_Gate 2) == 8 && (g 7 (s.wr (.REG_NOM_Nominal 2) 100)).period 2 == 100 * 2 ^ 24 &&
       decide (0 < roundDiv (((3200 * 32 : Nat) : Int) - 89600) ((s.wr (.REG_NOM_Nominal 2) 100).period 2)) == false &&
       decide (roundDiv (((102400 : Nat) - (89600 : Int)) * 2 ^ 17) ((s.wr (.REG_NOM_Nominal 2) 100).period 2) = 1)) = true ∧
    (let s := base.updChannel 5 fun (c : RegChan) => { c with fits := [([(1, 12800), (0, 0)], 0)] }
     (s.lidar.chans.get 5).fits.length == 1 && s.channelRuns 5) = true ∧ (base.lidar.chans.get 5).fits = [] ∧
    ([2, 5].all fun (c : Nat) => let s := later ((base.wr (.REG_CFG_Enable c) 1).wr (.REG_NOM_Nominal c) 100)
      s.on (.REG_CFG_Enable c) && !(s.wr (.REG_STATUS_Stale c) 0).on (.REG_STATUS_Stale c) && s.channelRuns (fin 15 c) && s.due (0 + ceilDiv (4 * s.period (fin 15 c)) (2 ^ 24))) = true := by
  decide +kernel

theorem test_witness_ScanPorts :
    (let s := (ticksOn 100 base).wr (.SCAN_STATUS_Locked 0) 1
     let a := s.updScan 0 fun (c : ScanSt) => { c with lastSync := some 0, p24 := 10 * 2 ^ 24 }
     s.on (.SCAN_STATUS_Locked 0) && s.locked 3 && a.dueU (a.xuOfLam (a.lamAt 0 + ((a.lidar.scans.get 0).p24 * 3 / 2 : Nat) * 2 ^ 24))) = true ∧
    (let x : ScanLine := ⟨0, 0, 1, 0, 2 ^ 24, false, 0, 0, 0, 2, 0, 0⟩
     let s := ((ticksOn 100 base).wr (.SCAN_STATUS_Locked 0) 1).updScan 0 fun (c : ScanSt) => { c with next := some x }
     match s.lineBegins 0 x with | some t => s.dueU t | none => false) = true ∧ (base.lidar.scans.get 0).next = none ∧
    (let s := base.wr (.SCAN_CTRL_SdrvEnable 0) 1
     let d := s.updScan 0 fun (c : ScanSt) => { c with drvAt := some 0, sdrv := true }
     s.on (.SCAN_CTRL_SdrvEnable 0) && s.locked 3 && (s.lidar.scans.get 0).drvAt.isNone && decide (0 ≤ d.drvNow 0) && decide (d.drvNow 0 < 2 ^ 60)) = true := by decide +kernel

/-- A line of the frame memory: port 0, one shot, at 1.5625 µs, the last. -/
def lineBytes : List Byte := le 1 1 ++ zeros 1 ++ le 1 9 ++ zeros 1 ++ le 4 100000 ++ zeros 24
/-- Port 0 runs and its frame has begun. -/
def framed : State :=
  ((((ticksOn 100 base).wr .EMT_CTRL_PortEnable 1).wr (.PORT_STATE_State 0) 1).wr .EMT_STATUS_InFrame 1).sramWrite 0x30 26 0 lineBytes

theorem test_witness_FramesAndLines :
    base.nextEpochOf fnLidar = none ∧ framed.nextEpochOf fnLidar = none ∧ framed.lidarRuns = true ∧ framed.on .EMT_STATUS_InFrame = true ∧ framed.ctl.pc = 0 ∧
    (let s := ((framed.wr .EMT_CTRL_FrameSrc 0)).updCtl fun (c : EmtSt) => { c with syncs := [0] }
     s.lidarRuns && s.frameDue.isSome) = true ∧ base.lidarRuns = false ∧
    (let d := base.diagLine 0 0 (false, 3)
     let s := base.updE 0 fun (p : EPort) => { p with diags := [d] }
     (s.ep 0).diags == [d] && s.dueU d.pre && (s.ep 0).line.isNone && !s.lineHeld && (s.updCtl fun (c : EmtSt) => { c with supplyHold := true }).lineHeld) = true ∧
    (let x := framed.fline framed.activeBank 0
     match framed.turnLine x with
     | none => false
     | some s1 =>
       let q := (s1.resolveLine x 0).1
       let n0 := framed.rd64 (.PORT_SHOTS_LO_Shots 0)
       let first := q.tL + 2 * ditherOf framed.regs 0 n0 x.seed
       x.enable == 1 && x.frameEnd && q.ok && framed.dueU q.step1 && (framed.ep 0).line.isNone && decide ((framed.ep 0).busy < q.step1) &&
         decide (s1.ctl.resolved + 128000 ≤ q.step1) && (framed.ep 0).lastFire.isNone && !framed.lineHeld && bit (255 : BitVec 8).toNat 0 == framed.on (.PORT_TIMING_StatLow 0) &&
         (framed.overExposed 0 (0xFFFF - Nat.lor (x.bypass.getD 0 0xFFFF) (framed.rd (.PORT_OPEN_Open 0))) x.shots).isEmpty && portIn framed.regs 0 &&
         decide (framed.rd (.PORT_STATE_State 0) = 1) && decide (0 < first) && (List.finRange 8).all (fun (e : Fin 8) => (framed.beginDiag e).isNone) &&
         ((framed.updE 0 fun (p : EPort) => { p with busy := q.step1 }).ep 0).busy == q.step1) = true := by decide +kernel

theorem test_witness_ShotsAndSearches :
    (let x : ELine := { base.diagLine 0 0 (false, 3) with begun := true }
     let s := base.updE 0 fun (p : EPort) => { p with line := some x }
     let o := base.updE 0 fun (p : EPort) => { p with line := some { x with off := some 0 } }
     (s.ep 0).line == some x && x.off.isNone && x.shot == 0 && s.dueU x.fall && x.fires == [0] && s.dueU 0 && !(s.ep 0).pchg && s.locked 3 &&
       ((o.ep 0).line.bind fun (x : ELine) => x.off) == some 0 && o.dueU 0) = true ∧ (base.ep 0).line = none ∧
    (let l : LanePt := ⟨3, 0, [], [], [], [], [], false, false, false, false, false⟩
     let y : PointSt := ⟨0, 0, 0, 0, 1, 2, 0, 0, 0, 0, [(0, 0), (1, 0)], false, false, [], [l], 0, ((base.wr (.HIST_CFG_CoarseFrac 0) 128).wr (.LANE_WIN_Close 3) 4).regs⟩
     let s := base.updE 0 fun (p : EPort) => { p with points := [y] }
     phase1 y.cfg 0 y.n == 1 && y.shotAt 0 == some 0 && s.startsKnown 0 0 0 && s.winClosed y.cfg 3 0 && decide (phase1 y.cfg 0 y.n < y.n) &&
       !s.winClosed y.cfg 3 4000 && !s.pointClosed 0 y && s.pointClosed 0 { y with lanes := [{ l with searched := true }] }) = true ∧ (base.ep 0).points = [] := by decide +kernel

theorem test_witness_EmitterDiagnostics :
    base.lidarOn = true ∧ base.locked 3 = true ∧ base.on .EMT_STATUS_InFrame = false ∧ base.allIdle = true ∧ (base.ep 0).tested = false ∧
    (let s := { State.reset with power := { State.reset.power with begun := 0x800, released := false } }
     bit s.power.begun 11 && !s.power.released) = true ∧
    (let at_ := fun (n : Nat) => ticksOn n base
     let last := fun (s : State) => match s.nextSync with
       | some t => decide (s.ctl.blankFrom + 1280000 ≤ t) && s.dueU (t - 1024000) && decide (s.xu < t)
       | none => false
     last (at_ 401999680) && !last (at_ 401999679) && last (at_ 401999999) && (at_ 401999680).ctl.walkNo != (at_ 401999680).ctl.blankNo &&
       (let s := (base.wr .EMT_CTRL_FrameSrc 3); s.nextSync.isNone && (let t := ticksOn 400 s; decide (t.ctl.blankFrom + 1280000 ≤ t.xu)) && !decide (s.ctl.blankFrom + 1280000 ≤ s.xu)) &&
       (List.finRange 8).any (fun (e : Fin 8) => !(base.ep e).tested) && base.lidar.lanes.all (fun (q : Nat × LaneSt) => q.2.trim.isNone)) = true ∧
    (let s := base.wr (.PORT_STATE_State 0) 1
     let t := s.updTime fun (t : TimeSt) => { t with ticks := 400000000 }
     !t.ctl.walkStale && t.due (t.ctl.walkAt + 10000000000) && t.rd (.PORT_STATE_State 0) == 1) = true ∧
    ([1, 2].all fun (k : Nat) => let s := ((ticksOn 400000000 base).wr .EMT_CTRL_PortEnable 1).wr (.PORT_STATE_State 0) k
      let t := s.diagFrom 0
      let gap := max 128000 (minIvl s.regs 0)
      s.lidarRuns && s.portIdle 0 && !(s.ep 0).back && !s.diagHeld && !s.ownTrim 0 && !s.on (.START_CFG_Planned 0) && s.rd (.PORT_STATE_State 0) == k && s.blankingFits (128 * 20000) (t + 15 * gap + 128 * 64 - s.xu) &&
        (s.overExposed 0 0xFFFF 15).isEmpty && !s.lineHeld && (s.ep 0).isoIn != s.ctl.blankNo && s.blankingFits (128 * 4000) (t + 128 * 64 - s.xu) && !bit (s.rd (.PORT_OPEN_Open 0)) 3 &&
        s.due ((s.ep 0).lastIn.get 3 + 1000000000) && (s.ep 0).lowIn.get 3 != s.ctl.blankNo && (s.overExposed 0 8 1).isEmpty) = true := by decide +kernel

theorem test_witness_LidarClearsAndBanks :
    takesB base 8 2 = true ∧ takesB (inState 1) 8 2 = true ∧
    ([0x304004, 0x342014, 0x320020, 0x330004].all fun (a : Nat) => !base.gated a true) = true ∧ base.pwr = 2 ∧ (inState 1).pwr = 1 ∧ base.ctl.validFrom = none ∧
    base.on .EMT_BANK_ReadActive = false ∧ base.on .EMT_BANK_Waiting = false ∧ (base.wr .EMT_BANK_Waiting 1).on .EMT_BANK_Waiting = true := by decide +kernel
/-! Memories -/

/-- Channel 0 is trained and in normal operation, in memory mode 1. -/
def trained : State := ((base.wr (.MC_STATUS_State 0) 2).wr .MEM_MODE_Mode 1)
/-- Bit errors at these bits of a stored word. -/
def bitErrors (ks : List Nat) : BitVec 80 := BitVec.ofNat 80 (ks.foldl (fun (n : Nat) (k : Nat) => n + 2 ^ k) 0)
/-- Much later. -/
def muchLater (s : State) : State := s.updTime fun (t : TimeSt) => { t with ticks := t.ticks + 4000000000000 }

theorem test_witness_StoredWordsReadBack : (0 : Nat) < 2 ^ 64 ∧ (2 ^ 64 - 1 : Nat) < 2 ^ 64 ∧ (decodeWord 5 (encodeWord 5 (2 ^ 64 - 1))).data = 2 ^ 64 - 1 := by decide +kernel

theorem test_witness_MemoryReadsAndPatrol :
    (let kind := fun (flips : BitVec 80) (l : Nat) => (decodeWord l (base.cell l ^^^ flips)).kind
     let l := sramLoc 9 0
     base.targetOf (.sram 9 0) == some (l, 0) && (base.targetOf (.sram 9 65536)).isNone && kind 0 l == .clean && kind (bitErrors [3]) l == .corrected &&
       (decodeWord l (poisonWord l 7)).kind == .poisoned && kind (bitErrors [0, 9, 20]) l == .uncorrectable &&
       (decodeWord (l + 1) (encodeWord l 7)).kind == .address && (trained.targetOf (.dram 8)).isSome) = true ∧
    (let s := trained.wr (.MC_CFG_PatrolHours 0) 24
     let e := s.updChan 0 fun (c : ChanSt) => { c with patrol := s.usableOf 0 / 8 - 1 }
     s.rd (.MC_STATUS_State 0) == 2 && s.rd (.MC_CFG_PatrolHours 0) == 24 && decide (0 + 1 < s.usableOf 0 / 8) && decide (e.usableOf 0 / 8 ≤ (e.mem.chans.get 0).patrol + 1)) = true ∧
    (let s := muchLater (base.wr (.REPEAT_HI_Valid 0 3) 1)
     s.on (.REPEAT_HI_Valid 0 3) && s.due ((s.mem.firsts.get 0).get 3 + 86400000000000)) = true ∧
    (trained.memMode == 1 && decide (0 < trained.usableDram) && (trained.chanOf 0).1 == 0) = true ∧ base.rd (.MC_STATUS_State 0) ≠ 2 := by decide +kernel

theorem test_witness_ChannelUpkeep :
    (let s := muchLater trained
     let c := s.mem.chans.get 0
     s.rd (.MC_STATUS_State 0) == 2 && s.due (c.refreshAt + s.trefi 0) && s.due (c.mr4At + 16000000) && s.due (c.oscAt + 100000000) && s.due (c.stepAt + 10000) &&
       s.rd (.MC_STATUS_Owed 0) == 0 && !trained.due (c.refreshAt + trained.trefi 0)) = true ∧
    (let s := trained.wr (.MC_STATUS_Retraining 0) 1
     s.on (.MC_STATUS_Retraining 0) && s.rd (.MC_STATUS_Attempts 0) == 0 && (s.wr (.MC_STATUS_Attempts 0) 2).rd (.MC_STATUS_Attempts 0) == 2 &&
       (s.mem.chans.get 0).copy.isNone) = true ∧
    (let s := (trained.wr (.SCRUB_STATUS_Priority 0) 1).setWord (trained.dramLoc 8) 5 true
     s.on (.SCRUB_STATUS_Priority 0) && s.mem.words.all (fun (x : Nat × BitVec 80) => (s.word x.1).kind == .poisoned && (s.dataPlace 0 x.1).isSome) &&
       s.mem.words.length == 1) = true ∧ base.on (.SCRUB_STATUS_Priority 0) = false ∧
    (let s := (base.wr (.MC_STATUS_State 0) 4).updChan 0 fun (c : ChanSt) => { c with exitAt := some 0 }
     s.rd (.MC_STATUS_State 0) == 4 && s.locked 2 && (s.mem.chans.get 0).exitAt == some 0) = true ∧ (base.mem.chans.get 0).exitAt = none ∧
    base.power.released = true ∧ (trained.memMode != trained.modeOf || base.memMode != base.modeOf) = true ∧
    base.on (.MC_STATUS_Retraining 0) = false := by decide +kernel

theorem test_witness_MemoryHostCommands :
    takesB base 8 1 = true ∧ takesB base 8 2 = true ∧ takesB base 8 13 = true ∧
    ([0x500030, 0x501030, 0x502030, 0x40001C].all fun (a : Nat) => !base.gated a true && !base.gated a false && !base.readHeld a) = true ∧
    (let place := fun (row : Nat) => (⟨0, 0, 0, row, 0, 0⟩ : DramPlace)
     let full := (List.range 64).foldl (fun (s : State) (i : Nat) => (s.wr (.RETIRE_Valid 0 i) 1).wr (.RETIRE_Row 0 i) 9) trained
     let copies := fun (n : Nat) => trained.updChan 0 fun (c : ChanSt) => { c with copy := some ⟨3, n, 8, 5, 0⟩ }
     trained.copyMoves 0 && !base.copyMoves 0 && !(trained.wr .CLK_STATUS_Locked 0x1B).copyMoves 0 && ((copies 63).mem.chans.get 0).copy == some ⟨3, 63, 8, 5, 0⟩ &&
     (let c := (((copies 64).wr (.RETIRE_Valid 0 3) 1).wr (.RETIRE_Row 0 3) 9); (List.range 64).find? (fun (k : Nat) => c.entryMatches 0 k (place 9)) == some 3) &&
     let busy := trained.updChan 0 fun (c : ChanSt) => { c with copy := some ⟨3, 0, 8, 5, 0⟩ }
     decide (base.ranksOf 0 ≤ 1) && decide (0 < base.ranksOf 0) && decide (100 + 4 < base.rowsOf 0) && decide (base.rowsOf 0 ≤ 131072 + 4) &&
       base.rd (.MC_STATUS_State 0) != 2 && trained.rd (.MC_STATUS_State 0) == 2 && full.entryMatches 0 0 (place 9) && !full.entryMatches 0 0 (place 8) &&
       (List.range 64).all (fun (i : Nat) => full.on (.RETIRE_Valid 0 i) && !trained.entryMatches 0 i (place 8)) && (trained.sparesUsed 0 0 0 0).isEmpty &&
       !trained.on (.RETIRE_Valid 0 0) && (busy.mem.chans.get 0).copy.isSome && (trained.mem.chans.get 0).copy.isNone) = true ∧
    (let at_ := fun (space a : Nat) => (base.wr (.MEM_ADDR_Space 0) space).wr (.MEM_ADDR_Addr 0) a
     (at_ 0 0).memByte 0 == some 0 && (at_ 0 458748).memByte 0 == some 458748 && (at_ 0 458752).memByte 0 == none && (at_ 1 0).memByte 0 == some 458752 &&
       (at_ 1 4).memByte 0 == some 458756 && (at_ 1 65536).memByte 0 == none && base.coreState 0 == 0 &&
       (base.wr (.CORE_STATUS_State 0) 1).coreState 0 == 1) = true := by decide +kernel
/-! Rings and links -/

/-- A record of 64 bytes. -/
def aRec (seq : Nat) : Rec := ⟨seq, zeros 64, 0⟩
/-- Ring 3 goes to link 0, which is up. -/
def ringed : State :=
  ((linked.wr (.RING_CFG_Links 3) 1).wr (.RING_STATE_State 3) 1)
/-- Ring 3 with a datagram under assembly and a state. -/
def assembling (k : Nat) : State := (ringed.wr (.RING_STATE_State 3) k).updRing 3 fun (g : RingSt) => { g with asm := [⟨7, 0, 64, 0⟩] }
/-- A datagram of a ring. -/
def dgramOf (r : Nat) : Dgram := ⟨r, 0, zeros 6, 0, 0, zeros 64, [7], 0, none, 0⟩
/-- A datagram of ring 3. -/
def aDgram : Dgram := dgramOf 3
/-- A block of ring 3, its 72 bytes as one literal token. -/
def aBlock (checked : Bool) (no : Nat := 0) : Block :=
  let c := blockContent [aRec 7]
  let bytes := blockHeader 0 3 no 72 74 ++ [63, 9] ++ c ++ le 4 (crc32c c)
  ⟨[aRec 7], 3, no, 0, true, false, no == 0, [], none, none, bytes, bytes.length, 0, checked, 0, 0, no⟩
/-- Ring 3 has these blocks. -/
def withBlocks (bs : List Block) (s : State) : State := s.updRing 3 fun (g : RingSt) => { g with stream := { g.stream with blocks := bs, blockNo := bs.length } }
/-- Link 0 has these datagrams queued. -/
def queued0 (ds : List Dgram) : State := ringed.updLink 0 fun (l : LinkSt) => { l with queue := ds }
/-- Link 0 may begin a frame. -/
def mayBegin (s : State) : Bool := (s.links.get 0).tx.isNone && s.linkUp 0 && (s.links.get 0).pauseEnd.isNone && s.usable 0
/-- Ring 11 has a response for link 0 under assembly. -/
def answering (s : State) : State := (s.wr (.RING_STATE_State 11) 1).updRing 11 fun (g : RingSt) => { g with asm := [⟨7, 0, 64, 0⟩] }

theorem test_witness_DatagramsAndFrames :
    (let free := fun (s : State) (r : Fin 16) => s.locked 1 && s.mayForm r && !s.quieting
     let late_ := fun (s : State) (r : Fin 16) => !(s.rings.get r).asm.isEmpty && (s.asmRecs r).length == (s.rings.get r).asm.length && (s.rings.get r).stream.blocks.isEmpty && s.due (0 + s.rd (.RING_AGE_FlushUs r) * 1000)
     let s := assembling 2
     let up := answering linked
     let down := answering base
     free s 3 && s.dgFull 3 && (s.chooseLink 3).isSome && late_ (muchLater s) 3 && free (muchLater s) 3 && !late_ s 3 &&
       free up 11 && late_ (muchLater up) 11 && free (muchLater up) 11 && up.linkUp (respLink (aRec 7)) && up.usable (respLink (aRec 7)) &&
       free down 11 && late_ (muchLater down) 11 && !down.linkUp (respLink (aRec 7)) && up.rd (.RING_AGE_FlushUs 11) == down.rd (.RING_AGE_FlushUs 11) &&
       !(answering ((queued0 [dgramOf 11, dgramOf 11]))).mayForm 11 && (answering (queued0 [dgramOf 11])).mayForm 11) = true ∧
    (let s := withBlocks [aBlock true, aBlock true 1] ringed
     s.locked 1 && s.mayForm 3 && !s.quieting && s.dgFull 3 && decide (0 < s.ringPayload 3 - 32) && (s.rings.get 3).asm.isEmpty && (s.chooseLink 3).isSome &&
       (s.rings.get 3).stream.blocks.all fun (c : Block) => decide (c.engine < 8) && decide (c.sent < c.bytes.length) && c.sent == 0 && c.ready) = true ∧
    (let b := aBlock true
     (withBlocks [{ b with sent := 5 }, aBlock true 1] ringed).dgFull 3 && decide (5 < b.bytes.length) && !(withBlocks [aBlock false] ringed).dgFull 3) = true ∧
    ringed.dgFull 3 = false ∧ (ringed.rings.get 3).asm = [] ∧ (ringed.rings.get 3).stream.blocks = [] ∧
    (let s := ringed.wr (.RING_STATE_State 3) 2
     s.rd (.RING_STATE_State 3) == 2 && s.ringEmpty 3 && !(assembling 2).ringEmpty 3 && (s.nextEpochOf (fnRing 3)).isNone) = true ∧ ringed.locked 1 = true := by decide +kernel

/-- The order in which link 0 begins frames: ring 11, ring 8, the others by their deficit, ring 9 alone. -/
theorem test_witness_FramesInTurn :
    (let turn := fun (n : Nat) (s : State) => s.updLink 0 fun (l : LinkSt) => { l with drrNext := 3, deficit := vupd l.deficit 3 fun (_ : Nat) => n }
     let all := [dgramOf 9, aDgram, dgramOf 8, dgramOf 11]
     let ring := fun (s : State) => (s.pickFrame 0).map fun (x : Dgram × Vector Nat 16 × Nat) => x.1.ring
     [queued0 all, turn 96 (queued0 [aDgram]), turn 95 (queued0 [aDgram]), queued0 [dgramOf 9]].all mayBegin && ring (queued0 all) == some 11 &&
       ring (queued0 (all.take 3)) == some 8 && ring (queued0 (all.take 2)) == some 3 && ring (queued0 (all.take 1)) == some 9 && drrRings.contains 3 &&
       ((turn 96 (queued0 [aDgram])).pickFrame 0).map (fun (x : Dgram × Vector Nat 16 × Nat) => (x.2.1.get 3, x.2.2)) == some (0, 3) &&
       ((turn 95 (queued0 [aDgram])).pickFrame 0).map (fun (x : Dgram × Vector Nat 16 × Nat) => x.2.2) == some 3 && 32 + aDgram.body.length == 96 &&
       (queued0 [aDgram]).rd (.RING_CFG_Weight 3) == 4 && (ringed.pickFrame 0).isNone && mayBegin ringed &&
       (let s := (queued0 []).updLink 0 fun (l : LinkSt) => { l with tx := some (aDgram, []) }; (s.links.get 0).tx.isSome && !mayBegin s) &&
       (let s := muchLater (queued0 [aDgram]); s.due (aDgram.first + 200000000) && !(queued0 [aDgram]).due (aDgram.first + 200000000) && !bit aDgram.flags 0)) = true := by
  decide +kernel

theorem test_witness_FlowControlAndLinkStates :
    linked.receives 0 = true ∧ linked.on (.LINK_CFG_Pfc 0) = false ∧ base.receives 0 = false ∧
    (linked.wr (.LINK_TEST_Loop 0) 1).receives 0 = false ∧ (linked.wr (.LINK_TEST_Loop 0) 3).receives 0 = true ∧ (linked.wr (.LINK_TEST_PrbsCheck 0) 1).receives 0 = false ∧
    (let s := linked.updLink 0 fun (l : LinkSt) => { l with stopped := true, tx := some (aDgram, []) }
     s.receives 0 && !(s.updLink 0 fun (l : LinkSt) => { l with tx := none }).receives 0) = true ∧
    (let s := linked.wr (.LINK_CFG_Pfc 0) 1
     s.receives 0 && s.on (.LINK_CFG_Pfc 0) && bit 255 (s.rd (.LINK_CFG_Pcp 0))) = true ∧
    (let s := muchLater (linked.updLink 0 fun (l : LinkSt) => { l with pauseEnd := some 0, heldFrom := some 0, ableFrom := some 0 })
     let t := s.updLink 0 fun (l : LinkSt) => { l with stalled := true }
     s.due 0 && !(s.links.get 0).stalled && !(s.links.get 0).stopped && s.due (0 + s.rd (.LINK_FRAME_StallMs 0) * 1000000) && (t.links.get 0).stalled && t.due (0 + 1000000)) = true ∧
    (let s := base.wr (.LINK_CFG_Enable 0) 1
     s.on (.LINK_CFG_Enable 0) && s.locked 4 && !(s.links.get 0).lock && !(s.links.get 0).stopped && s.pwr != 3) = true ∧ (linked.links.get 0).lock = true ∧
    linked.on (.LINK_CFG_Enable 0) = true ∧ (linked.links.get 0).tx = none ∧ linked.nextEpochOf (fnLink 0) = none ∧ base.on (.LINK_CFG_Enable 0) = false ∧
    (base.wr (.LINK_TEST_PrbsCheck 0) 1).on (.LINK_TEST_PrbsCheck 0) = true ∧ base.on (.LINK_TEST_PrbsCheck 0) = false := by decide +kernel

theorem test_witness_CremaBlocksAndAlarmWindows :
    (let s := (ringed.wr (.RING_STATE_State 3) 2).updRing 3 fun (g : RingSt) => { g with stream := { g.stream with open_ := [aRec 7] } }
     let e : Fin 8 := fin 7 (s.rd (.CREMA_CFG_Engine 3))
     let two := (s.updRing 3 fun (g : RingSt) => { g with stream := { g.stream with open_ := (List.range 255).map aRec } }).wr (.CREMA_CFG_BlockKiB 3) 1
     s.locked 1 && !(s.rings.get 3).stream.open_.isEmpty && (s.nextRec 3).isNone && s.rd (.RING_STATE_State 3) == 2 &&
       (muchLater s).due (0 + s.rd (.RING_AGE_FlushUs 3) * 1000) && !(s.engs.get e).stopped && !s.engineWaits e &&
       decide (s.engineHeld e + 20 + (prefilter (s.rd (.CREMA_CFG_PfMode 3)) (blockContent [aRec 7])).length ≤ 524288) &&
       decide (two.rd (.CREMA_CFG_BlockKiB 3) * 16384 < 8 + recBytes (two.rings.get 3).stream.open_ + (aRec 8).bytes.length) &&
       decide (¬ two.rd (.CREMA_CFG_BlockKiB 3) * 16384 < 8 + recBytes ((two.rings.get 3).stream.open_.drop 1) + (aRec 8).bytes.length)) = true ∧
    (let bs := [aBlock true, aBlock false 1, aBlock false 2]
     let s := withBlocks bs ringed
     s.unchecked 3 && s.locked 1 && (s.rings.get 3).stream.blocks[1]? == some (aBlock false 1) && decide ((bs.map Block.number).Nodup) &&
       bs.all (fun (c : Block) => c.sent == 0 && !c.fallback) && (aBlock false 1).verifies none && !(aBlock false 1).verifies (some (0, 1)) &&
       decide ((aBlock false 1).bytes.length ≤ (aBlock false 1).wrote) && decide ({ aBlock false 1 with wrote := 19 }.wrote < (aBlock false 1).bytes.length)) = true ∧
    ringed.unchecked 3 = false ∧
    (let stall := fun (s : State) => { s with engs := vupd s.engs 0 fun (e : EngSt) => { e with stalled := true } }
     let s := stall (withBlocks [{ aBlock false with wrote := 0 }] ringed)
     let full := stall (withBlocks [{ aBlock false with wrote := 524288 }, { aBlock false 1 with wrote := 0 }] ringed)
     let need := fun (s : State) => ((s.rings.get 3).stream.blocks.flatMap fun (b : Block) => b.bytes.drop b.wrote).length
     s.locked 1 && (s.engs.get 0).stalled && !(s.engs.get 0).stopped && s.engineHeld 0 == 0 && decide (0 < need s) && decide (need s ≤ 524288) &&
       (full.engs.get 0).stalled && full.engineHeld 0 == 524288 && !(base.engs.get 0).stalled) = true ∧
    (let s := base.updTime fun (t : TimeSt) => { t with lam48 := 1000000000 * 2 ^ 48 }
     decide (s.alarm.window < s.now / 1000000000) && s.power.released) = true ∧ ¬ base.alarm.window < base.now / 1000000000 := by decide +kernel
/-! Time, resets and power -/

/-- Device time is `n` ns. -/
def atTime (n : Nat) (s : State) : State := s.updTime fun (t : TimeSt) => { t with lam48 := n * 2 ^ 48 }

theorem test_witness_TimeBase :
    (let us : Nat := 1000 * 2 ^ 48
     let early := fun (s : State) => match s.time.ppsLast with
       | some p => decide (s.time.lam48 + us < p + 1000000 * us) || decide (p + 1000001 * us < s.time.lam48)
       | none => false
     let at_ := fun (n : Nat) => (atTime n base).updTime fun (t : TimeSt) => { t with ppsLast := some 0 }
     !base.on .TIME_CFG_PpsInFalling && (base.wr .TIME_CFG_PpsInFalling 1).on .TIME_CFG_PpsInFalling && !early base && early (at_ 999998999) && !early (at_ 999999000) &&
       !early (at_ 1000001000) && early (at_ 1000001001) && !(at_ 0).time.ppsQual && (at_ 0).time.ppsLast.isSome) = true ∧
    (let s := ((atTime 1000000000 base).wr .TIME_CFG_TimeSrc 1).updTime fun (t : TimeSt) => { t with ppsQual := true, second := some (0, 0), ppsLast := some 0 }
     let big := atTime 0 (s.updTime fun (t : TimeSt) => { t with ppsLast := none })
     let us : Nat := 1000 * 2 ^ 48
     let eps := fun (s : State) => s.now48 - ((0 : Int) + 1) * 10 ^ 9 * 2 ^ 48 - s.rdS .PPS_DELAY_PpsDelay * 2 ^ 48
     let arms := fun (s : State) => s.updTime fun (t : TimeSt) => { t with armed := some (7, 0) }
     let steers := fun (s : State) => s.time.ppsQual && (s.rd .TIME_CFG_TimeSrc == 1 || (s.rd .TIME_CFG_TimeSrc == 2 && s.time.refQual))
     steers s && !steers (s.wr .TIME_CFG_TimeSrc 0) && s.time.second == some (0, 0) && s.time.armed.isNone && decide ((eps s).natAbs ≤ us) && decide (us < (eps big).natAbs) &&
       big.time.pendStep.isNone && s.usesPps && decide ((arms s).xt < 0 + 100000000) && decide (0 + 100000000 ≤ (arms (ticksOn 4000000 base)).xt) && base.time.second.isNone) = true ∧
    (let s := (atTime 1100000000 base).updTime fun (t : TimeSt) => { t with ppsLast := some 0, rejected := [(0, 1), (1, 2)], pendStep := some ⟨5, 3, 0⟩ }
     decide (0 + 1100000000 * 2 ^ 48 ≤ s.time.lam48) && !s.usesPps && (s.wr .TIME_CFG_TimeSrc 1).usesPps && (s.wr .TIME_STATE_State 2).rd .TIME_STATE_State == 2 &&
       decide (0 < s.now / 1000000000) && decide (s.now / 1000000000 ≤ 1) && decide (5 ≤ s.now) && decide (¬ 0 + 1100000000 * 2 ^ 48 ≤ (atTime 1099999999 s).time.lam48) &&
       (s.wr .TIME_CFG_PpsOutGate 1).on .TIME_CFG_PpsOutGate) = true ∧ base.time.slewLeft = 0 ∧ base.time.rejected = [] ∧
    (let s := (atTime 86400000000000 (base.wr .TIME_STATE_State 3)).updTime fun (t : TimeSt) => { t with dayFrom := some (0, 0) }
     decide (s.rd .TIME_STATE_State = 3 ∧ 0 + 86400000000000 ≤ s.now) && s.time.means.isEmpty) = true := by decide +kernel

theorem test_witness_TimeOutputsAndLoops :
    (let s := (atTime 1000000000 base).wr .TIME_CFG_PpsOutEn 1
     s.on .TIME_CFG_PpsOutEn && (s.crossing 1000000000 0 s.time.ppsOutSec).isSome && (base.crossing 1000000000 0 (some 0)).isNone && !base.on .TIME_CFG_PpsOutEn) = true ∧
    (let s := (atTime 1100000000 base).updTime fun (t : TimeSt) => { t with ppsOutSec := some 1 }
     s.time.ppsOutSec == some 1 && decide (1 * 1000000000 + 100000000 ≤ s.now)) = true ∧ base.time.ppsOutSec = none ∧
    (let s := ((atTime 1000000000 base).wr .SYNC_OUT_CFG_Source 1).wr .SYNC_OUT_PERIOD_Time 1000
     let r := (atTime 1000000000 base).wr .TIME_CFG_TimeRecSec 1
     s.rd .SYNC_OUT_CFG_Source == 1 && (s.crossing (1000 * 1000) (s.rd .SYNC_OUT_PHASE_Time * 1000) s.time.syncLast).isSome &&
       (r.crossing (1 * 1000000000) 0 r.time.recLast).isSome && r.power.released) = true ∧
    (let s := later ((base.wr .CLK_STATUS_Locked 0).wr .EPOCH_STATUS_Epoch 0)
     let at_ := fun (n : Nat) => ticksOn n (base.wr .CLK_STATUS_Locked 0)
     (List.finRange 6).all (fun (k : Fin 6) => (s.loops.get k).running && !s.loopLocked k && s.due ((s.loops.get k).acqFrom + 1000000) && !(s.loops.get k).lost &&
       decide ((s.loops.get k).fails < 7) && (k.val == 5 || base.loopLocked k) && s.due ((s.loops.get k).acqFrom + 81920)) &&
       !(at_ 3275).due 81920 && (at_ 3276).due 81920 && (List.replicate 8 ((1000, 1002) : Nat × Nat)).length == 8 &&
       (let s := { s with loops := vupd s.loops 0 fun (l : LoopSt) => { l with lost := true, lostAt := some 5 } }; (s.loops.get 0).lost && !s.loopLocked 0)) = true ∧
    (let m := fun (t : Nat) => { base with xtal := { base.xtal with aonAt := some t } }
     base.xtal.running && base.xtal.aonAt.isNone && !(m 0).due (0 + 10000000000) && (ticksOn 400000000 (m 0)).due (0 + 10000000000)) = true ∧ State.reset.xtal.running = false := by decide +kernel

/-- Nothing holds the block in reset. -/
def unheld (s : State) : State := s.updPower fun (w : PowerSt) => { w with rstPin := false, railHold := false, jtagHold := false, tempHold := false, released := false }
/-- A stage of start-up runs; those below it have completed. -/
def inStageOf (k : Nat) : State := (unheld base).updPower fun (w : PowerSt) => { w with begun := 2 ^ (k + 1) - 2, stages := 2 ^ k - 2 }

theorem test_witness_Resets :
    base.regsWf = true ∧ State.reset.regsWf = true ∧ base.power.jtagHold = false ∧ base.power.softResetAt = none ∧ base.power.held = false ∧ State.reset.power.held = true ∧
    (let s := base.updPower fun (w : PowerSt) => { w with softResetAt := some 0 }; s.due 0 && s.power.softResetAt == some 0 && s.regsWf) = true ∧
    (let s := muchLater ((base.wr .PWR_STATE_State 2).wr .SYS_WDOG_Period 1)
     s.regsWf && s.rd .PWR_STATE_State == 2 && s.rd .SYS_WDOG_Period == 1 && s.due (s.power.wdogFrom + 1 * 1000000)) = true ∧ base.xtal.running = true ∧
    (let s := { inStageOf 1 with xtal := { XtalSt.rest with aonNow := 10000000 } }
     s.regsWf && s.inStage 1 && !s.xtal.running && decide (s.xtal.s1From + 10000000 < s.xtal.aonNow + 25)) = true ∧
    (let s := later { base.wr .CLK_STATUS_Locked 0 with loops := Vector.replicate 6 { LoopSt.rest with running := true, fails := 7 } }
     s.regsWf && (s.loops.get 3).running && !s.loopLocked 3 && s.due ((s.loops.get 3).acqFrom + 1000000) && decide (7 ≤ (s.loops.get 3).fails)) = true ∧
    (let s := base.wr .PWR_STATE_State 5; s.regsWf && s.rd .PWR_STATE_State == 5 && !s.pwrEn) = true ∧ base.pwrEn = true ∧
    (base.updPower fun (w : PowerSt) => { w with jtagHold := true }).power.jtagHold = true ∧
    (let low := base.updPower fun (w : PowerSt) => { w with railHold := true }
     low.power.railHold && !base.power.railHold && ((base.wr .PWR_STATE_State 5).rd .PWR_STATE_State == 5) && decide ((80 : Nat) ≤ 80 ∧ 80 < 81) &&
       (RailFall.mk 8 81).below == 81) = true ∧
    (let s := { base with zone := { base.zone with low := true } }; s.zone.low && s.regsWf) = true ∧
    ({ State.reset.power with rstPin := false } : PowerSt).held = true ∧ ({ (unheld base).power with rstPin := false, begun := 0 } : PowerSt).held = false := by decide +kernel

/-- The bytes of a small image: one section of register writes. -/
def imageOf (pairs : List (Nat × Nat)) : List Byte :=
  let body := pairs.flatMap fun (x : Nat × Nat) => le 4 x.1 ++ le 4 x.2
  let n := body.length
  let head := le 4 0x46435A49 ++ [1, 1, 0, 0] ++ le 4 7 ++ le 4 (200 + n) ++ le 2 1 ++ le 2 0 ++ le 4 64 ++ zeros 36
  let top := head ++ le 4 (crc32c head) ++ (le 2 1 ++ [0, 0] ++ le 4 88 ++ le 4 n ++ le 4 n ++ le 4 (crc32c body) ++ zeros 4) ++ body
  let tail := le 4 0x444E455A ++ le 4 7 ++ sha256 top ++ zeros 64 ++ zeros 4
  let tail := tail.take 108
  top ++ tail ++ le 4 (crc32c tail)
/-- A state whose flash holds these bytes in slot A. -/
def flashed (bs : List Byte) (s : State) : State :=
  { s with image := { s.image with flash := (bs.zipIdx.filter fun (x : Byte × Nat) => x.1 != 255).map fun (x : Byte × Nat) => (x.2, x.1) } }
/-- An image that sets the system watchdog's period. -/
def img : List Byte := imageOf [(0x20080, 1000)]
/-- Its slot is the only candidate. -/
theorem test_image : (let s := flashed img (inStageOf 4); s.slotOrder == [0] && (s.validate (s.slotByte 0) 67108864).code == 0) = true := by decide +kernel

theorem test_witness_StartupStages :
    ([1, 3, 4, 5, 7, 8, 9].all fun (k : Nat) => (inStageOf k).inStage k && (inStageOf k).regsWf && !base.inStage k) = true ∧
    (let s := { inStageOf 1 with xtal := XtalSt.rest }; !s.power.held && !s.xtal.running && s.inStage 1) = true ∧
    (inStageOf 3).power.lastReset = 1 ∧ (inStageOf 3).leavingSuspend = false ∧
    (let s := (inStageOf 3).updPower fun (w : PowerSt) => { w with lastReset := 2 }; !s.leavingSuspend && s.power.lastReset == 2 && s.regsWf) = true ∧
    (inStageOf 4).rd .IMAGE_STATUS_ResultA = 15 ∧ (inStageOf 4).rd .IMAGE_STATUS_ResultB = 15 ∧ (inStageOf 4).slotOrder = [] ∧
    (let s := (flashed img (inStageOf 5)).wr .IMAGE_STATUS_Source 0
     let b := (flashed (imageOf [(0x20080, 5)]) (inStageOf 5)).wr .IMAGE_STATUS_Source 0
     s.applyImage.epoch0Fails.isEmpty && !b.applyImage.epoch0Fails.isEmpty && s.regsWf && b.regsWf) = true ∧
    (let s := { base.wr .PWR_STATE_State 1 with image := { base.image with staged := img, validating := true } }
     s.rd .PWR_STATE_State == 1 && s.image.validating && (s.validate (fun (i : Nat) => s.image.staged.getD i 0) 16777216).code == 0 && s.regsWf) = true ∧
    (let s := (((inStageOf 8).wr .BIST_CFG_Dram 1).wr .BIST_STATUS_Ran 0).wr (.MC_STATUS_State 0) 2
     s.on .BIST_CFG_Dram && !s.on .BIST_STATUS_Ran && s.rd (.MC_STATUS_State 0) == 2 && s.regsWf && (inStageOf 9).power.rails.isEmpty && (inStageOf 9).power.warnSpans.isEmpty &&
       ((inStageOf 9).updPower fun (w : PowerSt) => { w with rails := [⟨3, 0, 60, none⟩] }).power.rails.any (fun (q : RailSt) => q.above == none && decide (q.from_ ≤ (inStageOf 9).xt)) &&
       (let n := ticksOn 9 ((inStageOf 9).updPower fun (w : PowerSt) => { w with warnSpans := [(100, 100)], s9From := 100 })
        n.power.warnSpans.any fun (w : Nat × Nat) => decide (w.1 ≤ n.xt) && decide (n.power.s9From < max w.2 (w.1 + 1)))) = true ∧
    (let s := (inStageOf 11).updPower fun (w : PowerSt) => { w with stages := 0xFFE }
     !s.power.released && s.stageDone 11 && s.locked 1 && s.regsWf) = true := by decide +kernel

/-- The running block without DRAM channels. -/
def bare : State := (base.wr (.MC_CFG_Enable 0) 0).wr (.MC_CFG_Enable 1) 0

/-- A move between power states runs. -/
def moving (f t : Nat) (s : State) : State := (s.wr .PWR_STATE_State f).updPower fun (w : PowerSt) => { w with trans := some (f, t) }

theorem test_witness_PowerMoves :
    (takesB base 8 8 && takesB (inState 1) 8 8 && takesB (moving 2 3 base) 8 8) = true ∧ base.power.trans = none ∧ base.rd .PWR_STATE_State = 2 ∧
    base.maySuspend = decide (8388608 ≤ base.regionSize 3) ∧ ((base.wr .MEM_MODE_Mode 3).maySuspend = false) ∧
    ((base.wr .MEM_MODE_Mode 1).wr (.REGION_SIZE_Size 2) 64).maySuspend = true ∧
    (let s := moving 4 2 bare
     s.loopsReady 2 && s.dramReady && s.power.setBy.isEmpty && s.loopsReady 3 && !(moving 4 2 (base.wr .CLK_STATUS_Locked 0)).loopsReady 2) = true ∧
    (let s := moving 2 3 base
     s.allQuiet && s.linksEmpty (fun (x : Nat) => (3 : Nat) != 3 || !bit (s.rd .SENT_CFG_LinkKeep) x) && (moving 2 5 base).linksEmpty (fun (_ : Nat) => true) &&
       !(moving 2 3 (base.updProbe 0 fun (b : ProbeSt) => { b with running := true })).allQuiet) = true ∧
    (let s := bare.updPower fun (w : PowerSt) => { w with wakeAt := some 0 }
     (muchLater s).due (0 + s.watchLead) && s.dramReady && s.locked 1) = true ∧
    (let s := base.wr .SUSP_CFG_CsWake 1
     let t := ({ base.wr .SUSP_TIMER_Seconds 1 with xtal := { base.xtal with aonNow := 2000000000 } } : State).wr .PWR_STATE_State 5
     s.on .SUSP_CFG_CsWake && (base.wr .SUSP_CFG_PinWake 1).on .SUSP_CFG_PinWake && !base.on .WATCH_CTRL_PinFall && t.rd .PWR_STATE_State == 5 &&
       decide (t.power.suspFrom + 1 * 1000000000 < t.xtal.aonNow + 25)) = true ∧
    (let both := ((moving 5 2 base).wr (.MC_STATUS_State 0) 2).wr (.MC_STATUS_State 1) 2
     let kept := both.updPower fun (w : PowerSt) => { w with saved := some 0 }
     let f := flashed img both
     let same := (List.range 8).foldl (fun (s : State) (i : Nat) => s.wr (.IMAGE_DIGEST_Digest i) (leAt (imgDigest (f.slotByte 0)) (4 * i) 4)) f
     kept.memMode != 3 && kept.modeOf == kept.memMode && kept.power.saved == some kept.mem.lost && both.power.saved.isNone && same.sameFlash.isSome &&
       same.dramReady && same.stageDone 9 && same.power.setBy.isEmpty && both.sameFlash.isNone) = true ∧
    (let s := moving 5 2 bare; s.stageDone 9 && s.dramReady && s.locked 1 && s.power.setBy.isEmpty) = true ∧
    (let s := muchLater (base.updPower fun (w : PowerSt) => { w with marked := [768] })
     s.rd .PWR_STATE_State == 2 && s.power.trans.isNone && s.isMarked 3 0 && s.due (s.power.leftAt + 3000000) && s.locked 1) = true ∧
    (let s := muchLater (base.wr .SYS_WDOG_Period 1)
     s.wdogRuns && !s.power.wdogWarned && s.due (s.power.wdogFrom + 1 * 500000)) = true ∧ base.power.tempHold = false ∧ base.power.rails = [] ∧
    (let hot := base.updPower fun (w : PowerSt) => { w with tempHold := true }
     let cold := { base with xtal := { base.xtal with running := false } }
     hot.power.tempHold && !cold.xtal.running && base.xtal.running && base.power.released && !base.power.hot && base.rd .DIE_TEMP_TjWarn == 105 &&
       decide ((6720 : BitVec 16).toInt ≤ 105 * 64 ∧ (6721 : BitVec 16).toInt > 105 * 64)) = true ∧
    (let w := 10 * base.rd .SUPPLY_CFG_WarnPct
     let low := fun (a : Option Nat) => base.updPower fun (p : PowerSt) => { p with rails := [⟨3, 0, 60, a⟩] }
     let entry := fun (s : State) => s.power.rails.find? fun (r : RailSt) => r.rail == 3
     w == 40 && (entry (low none)).isSome && (entry base).isNone && entry (low (some 9)) == some ⟨3, 0, 60, some 9⟩ && decide (30 + 10 ≤ w ∧ ¬ 31 + 10 ≤ w ∧ w < 41 ∧ 41 ≤ 80) &&
       (muchLater (low (some 9))).due (9 + 1000000) && !(low (some 9)).due (9 + 1000000) && !base.power.held) = true := by decide +kernel
/-! Calibration -/

theorem test_witness_CalibrationPasses :
    takesB base 8 2 = true ∧ base.gated 0x710004 true = false ∧ (base.calOf 0 false).item.due = false ∧ base.on (.LANE_CFG_Enable 3) = false ∧
    (laneOn 3 base).on (.LANE_CFG_Enable 3) = true ∧
    (let s := { base with cal := vupd base.cal 0 fun (c : PortCal) => { c with coh := { c.coh with item := { c.coh.item with retry := some 0 } }, ram := { c.ram with item := { c.ram.item with at_ := some 0 } } } }
     (s.calOf 0 false).item.retry == some 0 && s.due 0 && (s.calOf 0 true).item.at_ == some 0 && (muchLater s).due (0 + s.rd .CAL_CFG_Interval * 60000000000) &&
       s.rd .CAL_CFG_Interval != 0 && (s.calOf 0 true).item.retry.isNone) = true ∧
    (let y := (laneOn 3 base).updLane 3 fun (y : LaneSt) => { y with tdc := { y.tdc with retry := some 0 }, thr := { y.thr with retry := some 0 } }
     y.on (.LANE_CFG_Enable 3) && (y.lane 3).tdc.retry == some 0 && !(y.lane 3).tdc.due && !(y.lane 3).thr.due) = true ∧
    ([false, true].all fun (raman : Bool) =>
      let due := fun (s : State) => (s.updFe 0 fun (f : FeSt) => { f with refFrom := some 0, sliceFrom := Vector.replicate 6 (some 0) }).updCal 0 raman
        fun (c : PassCal) => { c with item := { c.item with due := true } }
      let s := muchLater (due (base.wr (.FE_STATUS_RefReady 0) 1))
      let x := s.calOf 0 raman
      let n := (calSlices raman).length
      let r := s.updCal 0 raman fun (c : PassCal) => { c with item := { c.item with running := true }, slices := n }
      let f := due (muchLater (shooting.wr .CAL_CFG_ForceAfter 1))
      x.item.due && !x.forced && decide (x.slices < n) && decide (x.stepEnd ≤ s.xt) && s.calPowered 0 raman && s.sampling && s.locked 1 && !s.calBusy 0 raman &&
        (r.calOf 0 raman).item.running && (r.calOf 0 raman).slices == n && r.due (r.calOf 0 raman).stepEnd && r.supplyFlag (r.calOf 0 raman).from_ r.now == 0 &&
        f.calNoGap 0 raman && f.due ((f.calOf 0 raman).item.since + 1 * 1000000000)) = true ∧
    (let go := fun (forced waited : Bool) => (((base.wr (.FE_STATUS_RefReady 0) 1).updFe 0 fun (f : FeSt) =>
         { f with refFrom := some 0, sliceFrom := Vector.replicate 6 (some 0) }).updCal 0 false fun (c : PassCal) =>
         { c with item := { c.item with due := true }, forced := forced, waited := waited })
     [go true false, go false true].all fun (s : State) => let s := muchLater s
       (s.calOf 0 false).item.due && decide ((s.calOf 0 false).slices < (calSlices false).length) && s.calPowered 0 false && !s.power.held) = true ∧
    (shooting.launches 0 && !base.launches 0) = true ∧
    calOk false ⟨-4096, 16384, 0, 16384, 0, 0⟩ = calOk false ⟨4096, 16384, 0, 16384, 0, 0⟩ ∧
    calOk false ⟨0, 16384, 0, 16384, 0, 0⟩ = true ∧ calOk false ⟨5000, 16384, 0, 16384, 0, 0⟩ = false := by decide +kernel

theorem test_witness_LaneCalibration :
    (let s := (laneOn 3 base).updLane 3 fun (y : LaneSt) => { y with tdc := { y.tdc with due := true }, count := 2 ^ 18 }
     let few := ((laneOn 3 base).wr .CAL_CFG_TdcSrc 2).updLane 3 fun (y : LaneSt) => { y with tdc := { y.tdc with due := true }, count := 5 }
     let thr := (laneOn 3 base).updLane 3 fun (y : LaneSt) => { y with thr := { y.thr with due := true } }
     let pulsed := (s.updLane 3 fun (y : LaneSt) => { y with pulse := some 0, count := 2 ^ 18 - 5 })
     (s.lane 3).tdc.due && (s.lane 3).ready.isNone && decide (2 ^ 18 ≤ (s.lane 3).count) && s.supplyFlag (s.lane 3).countFrom s.xt == 0 && (s.lane 3).pulse.isNone &&
       decide (2 ^ 18 ≤ (pulsed.lane 3).count + ((ticksOn 1 pulsed).xu - 0) / 640) &&
       (s.updPower fun (w : PowerSt) => { w with rails := [⟨3, 0, 60, none⟩] }).supplyFlag (s.lane 3).countFrom s.xt != 0 &&
       few.rd .CAL_CFG_TdcSrc == 2 && (muchLater few).due ((few.lane 3).countFrom + 10000000000) && !(few.lane 3).inner &&
       (thr.lane 3).thr.due && (thr.lane 3).stepped != thr.ctl.blankNo && thr.blankingFits 2560000 3584000 && thr.portIdle 0 && !thr.isoMay 0 &&
       (List.finRange 16).all (fun (k : Fin 16) => !thr.diagMay 0 k) && thr.lidar.lanes.all (fun (q : Nat × LaneSt) => q.2.trim.isNone) && thr.locked 3 &&
       (thr.updLane 3 fun (y : LaneSt) => { y with trim := some (0, 2560000, 126) }).supplyFlag 0 20000 == 0) = true ∧
    (let ready := (laneOn 3 base).updLane 3 fun (y : LaneSt) => { y with ready := some (List.replicate 128 256) }
     let loads := fun (n : Nat) => let s := ticksOn n ready
       match s.nextSync with
       | some t0 => (s.lane 3).ready.isSome && (s.lane 3).loadAt.isNone && !(s.lane 3).thr.due && (s.lane 3).stepped != s.ctl.blankNo && !s.on .EMT_STATUS_InFrame &&
           decide (s.ctl.blankFrom + 256000 ≤ t0) && s.dueU (t0 - 256000) && decide (s.xu < t0) && s.locked 3
       | none => false
     loads 401999920 && !loads 401999919 && (ready.wr .EMT_CTRL_FrameSrc 3).nextSync.isNone) = true ∧
    (let s := ((((laneOn 3 base).wr .EMT_CTRL_PortEnable 1).wr .EMT_CTRL_FrameSrc 0).updCtl fun (c : EmtSt) => { c with syncs := [0] }).updLane 3 fun (y : LaneSt) =>
       { y with ready := some (List.replicate 128 256) }
     let last := s.updLane 3 fun (y : LaneSt) => { y with loadAt := some 0 }
     let old := (ticksOn 40000000 s).updCtl fun (c : EmtSt) => { c with syncs := [3200 * 40000000] }
     s.lidarRuns && s.frameDue.map Prod.fst == some 0 && (last.lane 3).loadAt == some 0 && (s.lane 3).loadAt.isNone && (s.lane 3).trim.isNone && (s.lane 3).pulse.isNone &&
       decide (s.xt < (s.lane 3).readyAt + 1000000000) && old.lidarRuns && old.frameDue.isSome && decide ((old.lane 3).readyAt + 1000000000 ≤ old.xt) &&
       (old.lane 3).stepped != old.ctl.blankNo && !old.on .EMT_STATUS_InFrame) = true := by decide +kernel
/-! The block -/

theorem test_witness_StepTakesTheFront :
    ({ base with pending := [.wdogWarn, .release] } : State).pending = .wdogWarn :: [.release] ∧ base.pending = [] ∧ base.xtal.running = true ∧
      State.reset.xtal.running = false := by decide +kernel

theorem test_witness_InvariantKept :
    (let wf := fun (s : State) => s.regsWf && s.memWf && s.flashWf && decide (s.host.respQ.length ≤ 16) && decide (s.alarm.log.length ≤ 64) &&
       decide (s.alarm.tracks.length ≤ 512) && (List.finRange 9).all fun (p : Fin 9) => decide ((s.host.paths.get p).out.length ≤ 8)
     wf State.reset && wf base && wf (flashed img (base.setWord (sramLoc 9 0) 7 true))) = true := by decide +kernel
/-! The spec's worked examples -/

/-- A plan of port 0 from the examples of *Probe plans*: tones with these centres, chirps of `dur` ns and `bw` MHz. -/
def pipeline (shot10 winPos delay dur bw amp : Nat) (freqs : List Nat) (s : State) : State :=
  let s := (((s.wr (.SHOT_PERIOD_Period 0 0) shot10).wr (.PLAN_CTRL_ToneCount 0 0) freqs.length).wr (.WIN_POS_WinPos 0 0) winPos).wr (.WIN_DELAY_Delay 0 0) delay
  freqs.zipIdx.foldl (fun (s : State) (x : Nat × Nat) =>
    (((((s.wr (.TONE_FREQ_Freq 0 0 x.2) x.1).wr (.TONE_FREQ_Amp 0 0 x.2) amp).wr (.TONE_OFFSET_AutoOffset 0 0 x.2) 1).wr
      (.TONE_CODE_Type 0 0 x.2) 1).wr (.TONE_CODE_ChirpBW 0 0 x.2) bw).wr (.TONE_DUR_Dur 0 0 x.2) dur) s

/-- *Example — 42 km pipeline, four tones* (R57, R58, R62, R64, R79). -/
theorem test_example_pipeline :
    (let s := pipeline 50000 103000 600 2048 60 3800 [200, 350, 500, 650] base
     let q := planOf s.regs 0 0
     q.tones.map (fun (t : Tone) => (t.off, t.dur, t.taps)) == [(0, 2048, 512), (125000, 2048, 512), (250000, 2048, 512), (375000, 2048, 512)] &&
       q.winLen == 414048 && q.tail == 0 && (s.showPlan 0).rd (.PLAN_LOAD_Load 0) == 441 && (planChecks s.regs 0 0).all id) = true := by decide +kernel

/-- *Example — 104 km subsea cable, eight tones* (R78 check 10, R79). -/
theorem test_example_cable :
    ([(4096, 103000, 1136, false), (4096, 110000, 1063, false), (2048, 110000, 990, true)].all fun (x : Nat × Nat × Nat × Bool) =>
      let s := pipeline x.2.1 255000 1000 x.1 50 400 [150, 250, 350, 450, 550, 650, 750, 850] base
      (s.showPlan 0).rd (.PLAN_LOAD_Load 0) == x.2.2.1 && (planChecks s.regs 0 0).all id == x.2.2.2) = true := by decide +kernel

/-- *Example — one odd-slice sample* (R96). -/
theorem test_example_odd_slice :
    (let t : Trim := ⟨600, 16589, -82, 16548, -82, 0⟩
     stageA t 5000 == 79400 && stageB t 5000 == 80393) = true := by decide +kernel

/-- *Example — four slots at one position* (R136). -/
theorem test_example_four_slots :
    (let x : Pos := ⟨[0, 20000, 45000, 61000, 0, 0, 0, 0], [120, 118, 121, 119, 0, 0, 0, 0], 1031000⟩
     let a := fuse x 0 4 48260 119 16 0 4 3 false false
     let b := fuse a.1 1 4 5 95 16 0 4 3 false false
     let c := fuse b.1 2 4 28218 121 16 0 4 3 false false
     a.1.off.take 4 == [19, 19994, 44994, 60994] && a.1.q.take 4 == [120, 118, 121, 119] && a.1.phi == 1031300 && a.2 == (false, 300) &&
       b.1.off == a.1.off && b.1.q.take 4 == [120, 115, 121, 119] && b.2 == (true, 0) &&
       c.1.off.take 4 == [9, 19984, 45025, 60984] && c.1.q.take 4 == [120, 115, 121, 119] && c.1.phi == 1031800 && c.2 == (false, 500)) = true := by decide +kernel

/-- The zone of *Example — 8 km tunnel* (R205). -/
theorem test_example_zone :
    ((base.wr (.ZONE_LO_Level 0) 0).wr (.ZONE_HI_Level 0) 6400).zoneCode 0 1505 = 18883 := by decide +kernel

/-- *Example — resonant fast axis at 1 kHz*: instants of the rising line from its zero crossing, to 3 ns (R229). -/
theorem test_example_scan :
    (let x : ScanLine := ⟨0, 0, 0, 0, 1000000 * 2 ^ 24, false, 58982, 0, 0, 500, 0, 0⟩
     let near := fun (j : Nat) (ns : Int) => decide ((x.fireAt j - ns * 64).natAbs ≤ 192)
     near 0 (-178216) && near 1 (-176910) && near 249 (-287) && near 250 287 && near 499 178216) = true := by decide +kernel

/-- *Example — one two-shot line on E2* (R242). -/
theorem test_example_line :
    FLine.of ([4, 1, 0, 0, 0xFA, 0, 0, 0, 1, 0xA] ++ zeros 10 ++ [0xDF, 0xFF] ++ List.replicate 10 0xFF) =
      ⟨4, 2, 0, 0, 250, 0xA01, 0, 0, 0, [0, 0, 0xFFDF, 0xFFFF, 0xFFFF, 0xFFFF, 0xFFFF, 0xFFFF]⟩ := by decide +kernel

/-- *Example — complex correlation with ROT*: its body word and RPT word (R306 – R309). -/
theorem test_example_brew_words :
    (let w := 0x40075DD400428448
     w == 0x1001D77 * 2 ^ 38 + 0x28008 * 2 ^ 19 + 0x28448 && !isCtl w && cOp w == 0x20 && cD w == 0 && cA w == 58 && cB w == 59 && cM w &&
       (mOp (mSlot w false), mR (mSlot w false), mN (mSlot w false), mMode (mSlot w false)) == (2, 32, 0, 1) &&
       (mOp (mSlot w true), mR (mSlot w true), mN (mSlot w true), mMode (mSlot w true)) == (2, 33, 1, 1) &&
       base.wordError 0 w == 0 && isCtl 0x900003E740000000 && hasOp w (.comp 0x20) && hasOp w (.mem 2) && base.wordError 0 0x900003E740000000 == 0) = true := by
  decide +kernel

/-- *Example — one word through the map* (R339, R351, R352). -/
theorem test_example_memory_map :
    (let s := base.wr .MEM_MODE_Mode 0
     let p := s.placeOf 0 0x122B3C9C0
     s.chanOf 0x2456789C0 == (0, 0x122B3C9C0) && p == ⟨0, 2, 3, 37209, 59, 8⟩ && hashOf (locOf 0 p) == 0x56 && Nat.xor (hashOf (locOf 0 p)) (hashOf (locOf 0 { p with ba := 1 })) == 0x60 &&
       (decodeWord (locOf 0 p) (encodeWord (locOf 0 { p with ba := 1 }) 7)).kind == .address && s.saOf 0 (s.dramLoc 0x2456789C0) == 0x2456789C0) = true := by decide +kernel

/-- *Example — one decoded block* (R403 – R411). -/
theorem test_example_block :
    (let a : List Byte := [0, 1, 0, 0, 2, 0, 0, 0, 1, 6, 4, 0, 5, 0, 0, 0, 0, 0xCA, 0x9A, 0x3B, 0, 0, 0, 0, 5, 1, 2, 0]
     let content := a ++ [2, 0, 0, 0] ++ zeros 8 ++ [1, 6, 4, 0, 5, 0, 0, 0, 0x80, 0xCA, 0x9A, 0x3B, 0, 0, 0, 0, 5, 1, 2, 0, 3, 0, 0, 0] ++ zeros 8
     let head : List Byte := [0x52, 0x43, 1, 0, 0x19, 0, 0, 0, 0, 0, 0x48, 0, 0, 0x2A, 0, 0]
     let payload := [0x1C] ++ a ++ [0x48, 0x17, 0x68, 0, 0x84, 0x20, 0, 1, 0x80, 0xC8, 1, 3, 0xC8]
     let block := head ++ payload ++ le 4 (crc32c content)
     block.length == 62 && blockHeader 0 0x19 0 72 42 == head &&
       match decodeBlock ⟨[], none⟩ block with
       | .ok (c, rest, st) => c == content && rest == [] && st.last == some 32
       | .error _ => false) = true := by decide +kernel

/-- *Example — a commit over MGMT*: the request bytes of its first WRITE stage the word, and the response is OK (R493 – R495). -/
theorem test_example_mgmt :
    (let b : List Byte := [2, 0x10, 0x40, 0, 0x10, 0, 0xC8, 0, 0xD8, 0x0E]
     match exec (.mgmtTransaction (b ++ le 1 (crc8 b)) 88) base with
     | .next t =>
       (match exec (.write 8 0x10 0x100040 0x0ED800C8) base with | .next u => u.epoch.pend == [(0x100040, 0x0ED800C8)] && u.host.respQ.length == 1 | _ => false) &&
         t.host.inQ.length == 1
     | _ => false) = true := by decide +kernel

/-! Results -/

/-- A result in register 3 of core 0, after the word `w` on W1 and W2. -/
def resultOf (i : Instr) (w : Nat) (a b : Word) : Option Word :=
  match exec i (coreAt w fun (c : CoreSt) => withW 1 b (withW 2 a c)) with
  | .next t => if (t.core 0).pc = 1 then some ((t.core 0).advance.w.get 3) else none
  | _ => none

/-- ADD and SUB saturate to s32 with m = 1 and wrap with m = 0 (R307). -/
theorem test_add_sub :
    resultOf (.add 0) (compW 1 3 2 1 1) 0x7FFFFFFF 1 = some 0x7FFFFFFF ∧ resultOf (.add 0) (compW 1 3 2 1 0) 0x7FFFFFFF 1 = some 0x80000000 ∧
    resultOf (.sub 0) (compW 2 3 2 1 1) 0x80000000 1 = some 0x80000000 ∧ resultOf (.sub 0) (compW 2 3 2 1 0) 0 1 = some 0xFFFFFFFF := by decide +kernel

/-- A shift takes its count from Wb[4:0], or with m = 1 from its field b (R307). -/
theorem test_shifts :
    resultOf (.shl 0) (compW 6 3 2 1 0) 3 0x21 = some 6 ∧ resultOf (.shl 0) (compW 6 3 2 31 1) 3 0 = some 0x80000000 ∧
    resultOf (.shra 0) (compW 7 3 2 1 0) 0x80000000 31 = some 0xFFFFFFFF ∧ resultOf (.shrl 0) (compW 8 3 2 1 0) 0x80000000 31 = some 1 := by decide +kernel

/-- MIN, MAX and SLT are signed, with m = 1 unsigned; ABS saturates; CLZ of 0 is 32 (R307). -/
theorem test_compares :
    resultOf (.minW 0) (compW 9 3 2 1 0) 0xFFFFFFFF 1 = some 0xFFFFFFFF ∧ resultOf (.minW 0) (compW 9 3 2 1 1) 0xFFFFFFFF 1 = some 1 ∧
    resultOf (.maxW 0) (compW 0xA 3 2 1 0) 0xFFFFFFFF 1 = some 1 ∧ resultOf (.slt 0) (compW 0xB 3 2 1 0) 0xFFFFFFFF 1 = some 1 ∧
    resultOf (.slt 0) (compW 0xB 3 2 1 1) 0xFFFFFFFF 1 = some 0 ∧ resultOf (.absW 0) (compW 0xD 3 2 0 0) 0x80000000 0 = some 0x7FFFFFFF ∧
    resultOf (.clz 0) (compW 0x12 3 2 0 0) 0 0 = some 32 ∧ resultOf (.add2 0) (compW 0xE 3 2 1 1) 0x7FFF8000 0x0001FFFF = some 0x7FFF8000 := by decide +kernel

/-- The CRCs of R413 and R494 give the check values of "123456789". -/
theorem test_crc_check_values :
    (let m : List Byte := [0x31, 0x32, 0x33, 0x34, 0x35, 0x36, 0x37, 0x38, 0x39]
     crc32c m == 0xE3069283 && crc8 m == 0xF4) = true := by decide +kernel

/-- A double bit error of a stored word is corrected, a triple one reported (R342, R343). -/
theorem test_ecc :
    (let w := encodeWord 5 0xDEADBEEF01234567
     (decodeWord 5 (w ^^^ bitErrors [3, 77])).data == 0xDEADBEEF01234567 && (decodeWord 5 (w ^^^ bitErrors [3, 77])).kind == .corrected &&
       (decodeWord 5 (w ^^^ bitErrors [3, 40, 77])).kind == .uncorrectable) = true := by decide +kernel

/-! Ill-formed commands are refused -/

theorem test_ill_formed :
    ([Instr.mgmtTransaction (zeros 10) 88, .frameReceived 0 (zeros 13) true, .setState 8 5 8, .flashCommandDone true (zeros 257), .flashTimeout (zeros 65537),
      .fuseBurnDone (zeros 31), .toneWindowClose 0 0 [] [⟨0, false⟩], .ramanWindowClose 0 [⟨0, false⟩] [], .memoryRead 0 (.dram 4) none 0 false,
      .writeCrcError 0 8 0 false, .pauseFrame 0 65536, .pfcFrame 0 0 65536, .aonPeriodMeasure 0, .startupPassDone [[]] [] [], .railBelowWarning 0 1001, .railBelowReset ⟨0, 1001⟩,
      .calPassDone 0 true [], .calPassDone 0 false []].all fun (i : Instr) => !i.wf) = true := by decide +kernel

theorem test_well_formed :
    ([Instr.mgmtTransaction (zeros 11) 88, .frameReceived 0 (zeros 14) true, .setState 8 5 5, .fuseBurnDone (zeros 32), .toneWindowClose 0 0 [] [],
      .memoryRead 0 (.dram 8) none 0 false, .writeCrcError 0 128 0 false, .pauseFrame 0 65535, .aonPeriodMeasure 1, .release].all Instr.wf) = true := by decide +kernel

end Sys2Proof.Tests
end

section
/-! PROOFS. Fields, device time and frames after an update of one part of the state. -/
namespace Sys2Proof.Machine

/-- `State.rd_wr_other` with its conditions as one that `decide` settles for given fields. -/
theorem State.rd_wr_apart (s : State) (f g : Fld) (v : Nat)
    (h : (f.lo ≤ f.hi ∧ f.hi < 32) ∧ g.lo ≤ g.hi ∧ (f.addr ≠ g.addr ∨ f.hi < g.lo ∨ g.hi < f.lo)) : (s.wr f v).rd g = s.rd g :=
  s.rd_wr_other f g h.1 h.2.1 v h.2.2

/-- `State.rd_wr_same` with its condition as one that `decide` settles for a given field. -/
theorem State.rd_wr_field (s : State) (f : Fld) (v : Nat) (h : f.lo ≤ f.hi ∧ f.hi < 32) : (s.wr f v).rd f = v % 2 ^ (f.hi + 1 - f.lo) :=
  s.rd_wr_same f h v

theorem State.on_eq (s : State) (f : Fld) : s.on f = (s.rd f == 1) := rfl

/-- A field follows from the register file. -/
theorem State.rd_congr {s t : State} (h : t.regs = s.regs) (f : Fld) : t.rd f = s.rd f := by rw [State.rd, State.rd, h]

/-- Device time follows from the time part (R438). -/
theorem State.now_congr {s t : State} (h : t.time = s.time) : t.now = s.now := by
  rw [State.now, State.now, State.now48, State.now48, h]

/-- The stored words and the answers to reads belong to the memory's part. -/
theorem State.sameWords_of_mem {s t : State} (h : t.mem = s.mem) (at_ : Nat → Prop) : s.sameWords t at_ :=
  ⟨fun _ _ => by rw [State.cell, State.cell, h], fun _ _ => by rw [h]⟩

/-- The host's part and the rings change alone. -/
theorem State.keeps_setHostRings (s : State) (h : HostSt) (r : Vector RingSt 16) :
    s.keeps { s with host := h, rings := r } [.host, .rings] := by
  intro q hq
  cases q
  case host => simp at hq
  case rings => simp at hq
  case mem => exact ⟨rfl, State.sameWords_of_mem rfl _⟩
  case ports => exact ⟨rfl, State.sameWords_of_mem rfl _⟩
  all_goals rfl

/-- The epoch banks change alone. -/
theorem State.keeps_setEpoch (s : State) (e : EpochSt) : s.keeps { s with epoch := e } [.epoch] := by
  intro q hq
  cases q
  case epoch => simp at hq
  case rings => exact ⟨rfl, State.sameWords_of_mem rfl _⟩
  case mem => exact ⟨rfl, State.sameWords_of_mem rfl _⟩
  case ports => exact ⟨rfl, State.sameWords_of_mem rfl _⟩
  all_goals rfl

theorem State.same_setRegs (s t : State) (r : RegFile) (q : Part) (hq : q ≠ .regs) (h : s.same t q) : s.same { t with regs := r } q := by
  cases q
  case regs => exact absurd rfl hq
  all_goals exact h

/-- A frame but for the registers still holds when the registers change. -/
theorem State.keeps_setRegs {s t : State} {but : List Part} (r : RegFile) (h : s.keeps t but) : s.keeps { t with regs := r } (.regs :: but) := by
  intro q hq
  rw [List.mem_cons, not_or] at hq
  exact s.same_setRegs t r q hq.1 (h q hq.2)

end Sys2Proof.Machine
end

section
/-! PROOFS. What acceptance of a host command leaves (R503, R504). -/
namespace Sys2Proof.Machine

/-- The frame of an accepted command, when registers change after it. -/
theorem State.keepsTaken_setRegs {s t : State} {p : Fin 9} (r : RegFile) (h : s.keepsTaken t p []) :
    s.keepsTaken { t with regs := r } p [.regs, .freeCtr] where
  parts q hq := State.keeps_setRegs r h.parts q (by simp_all)
  rings := h.rings
  words _ _ := h.words (by decide) (by decide)
  paths := h.paths
  host := h.host

theorem State.keepsTaken.regs {s t : State} {p : Fin 9} (h : s.keepsTaken t p []) : t.regs = s.regs := h.parts .regs (by decide)
theorem State.keepsTaken.epoch {s t : State} {p : Fin 9} (h : s.keepsTaken t p []) : t.epoch = s.epoch := h.parts .epoch (by decide)
theorem State.keepsTaken.power {s t : State} {p : Fin 9} (h : s.keepsTaken t p []) : t.power = s.power := h.parts .power (by decide)
theorem State.keepsTaken.time {s t : State} {p : Fin 9} (h : s.keepsTaken t p []) : t.time = s.time := h.parts .time (by decide)

/-- A transaction that is taken leaves its queue, its source becomes the path's peer, and ring 12 drops what is done with. -/
theorem State.takeReq_cases (s : State) (p : Fin 9) (code : Nat) (tag : Byte) :
    s.takeReq p code tag = s ∨ ∃ (peer : Option Peer) (rings : Vector RingSt 16),
      s.takeReq p code tag =
        { s with
          host := { s.host with paths := vupd s.host.paths p fun (x : PathSt) => { x with peer := peer }
                                inQ := dropReq p code tag s.host.inQ, mgmtLast := p.val == 8 }
          rings := rings } ∧
      ∀ r, r ≠ 12 → rings.get r = s.rings.get r := by
  unfold State.takeReq
  split
  · exact .inl rfl
  · rename_i q _
    refine .inr ?_
    dsimp only
    split
    · exact ⟨q.peer, s.rings, rfl, fun _ _ => rfl⟩
    · exact ⟨q.peer, _, rfl, fun r hr => vget_vupd_other _ _ _ _ hr⟩

theorem State.takeReq_regs (s : State) (p : Fin 9) (code : Nat) (tag : Byte) : (s.takeReq p code tag).regs = s.regs := by
  obtain h | ⟨_, _, h, -⟩ := s.takeReq_cases p code tag <;> rw [h]

theorem State.takeReq_out (s : State) (p : Fin 9) (code : Nat) (tag : Byte) :
    ((s.takeReq p code tag).host.paths.get p).out = (s.host.paths.get p).out := by
  obtain h | ⟨_, _, h, -⟩ := s.takeReq_cases p code tag <;> rw [h]
  simp

/-- A command that the engine takes is accepted: its transaction is taken, and the command becomes outstanding. -/
theorem State.Takes.accept_eq {s : State} {p : Fin 9} {code : Nat} {tag : Byte} (h : s.Takes p code tag) (addr data : Word) :
    ∃ (f : PathSt → PathSt) (n : Nat), s.accept p code tag addr data =
      ({ (s.takeReq p code tag).updPath p f with host := { ((s.takeReq p code tag).updPath p f).host with accepted := n } }, true) := by
  have hout : ¬ 8 ≤ ((s.takeReq p code tag).host.paths.get p).out.length := by
    rw [s.takeReq_out]; exact Nat.not_le.2 h.room
  have hfresh : ¬ (((s.takeReq p code tag).host.paths.get p).out.any fun (o : Outst) => o.tag == tag) = true := by
    rw [s.takeReq_out, List.any_eq_true]
    rintro ⟨o, ho, ht⟩
    exact h.fresh o ho (eq_of_beq ht)
  have hserved : servedIn code (s.takeReq p code tag).pwr = true := by
    rw [State.pwr, State.rd, s.takeReq_regs]; exact h.served
  unfold State.accept
  rw [if_neg (by simp [h.up, h.turn]), if_neg hout, if_neg hfresh, if_neg (by simp [hserved])]
  exact ⟨_, _, rfl⟩

theorem State.Takes.accept_ok {s : State} {p : Fin 9} {code : Nat} {tag : Byte} (h : s.Takes p code tag) (addr data : Word) :
    (s.accept p code tag addr data).2 = true := by
  obtain ⟨_, _, he⟩ := h.accept_eq addr data
  rw [he]

/-- What acceptance leaves unchanged (R503, R504). -/
theorem State.Takes.keepsTaken {s : State} {p : Fin 9} {code : Nat} {tag : Byte} (h : s.Takes p code tag) (addr data : Word) :
    s.keepsTaken (s.taken p code tag addr data) p [] := by
  obtain ⟨f, n, he⟩ := h.accept_eq addr data
  rw [State.taken, he]
  obtain ht | ⟨peer, rings, ht, hrings⟩ := s.takeReq_cases p code tag <;> rw [ht]
  · exact ⟨s.keeps_setHostRings _ _, fun _ _ => rfl, fun _ _ => rfl, fun q hq => vget_vupd_other _ _ _ _ hq, rfl⟩
  · exact ⟨s.keeps_setHostRings _ _, hrings, fun _ _ => rfl,
      fun q hq => (vget_vupd_other _ _ _ _ hq).trans (vget_vupd_other _ _ _ _ hq), rfl⟩

end Sys2Proof.Machine
end

section
/-! PROOFS. What the checks and the acceptance of a commit leave unchanged: the registers below 0x10_0000, where EPOCH_STATUS and
COMMIT_RESULT lie, and every part but the fibre ports (R35, R111). -/
namespace Sys2Proof.Machine

/-- A state differs from another at most in its fibre ports and in registers from 0x10_0000 on: those of the system stay. -/
structure State.keepsSystem (s t : State) : Prop where
  parts : t = { s with regs := t.regs, ports := t.ports }
  regs : ∀ a, a < 0x100000 → rfWord t.regs a = rfWord s.regs a

theorem State.keepsSystem.refl (s : State) : s.keepsSystem s := ⟨rfl, fun _ _ => rfl⟩

theorem State.keepsSystem.trans {s t u : State} (h : s.keepsSystem t) (h' : t.keepsSystem u) : s.keepsSystem u where
  parts := h'.parts.trans (by rw [h.parts])
  regs a ha := (h'.regs a ha).trans (h.regs a ha)

theorem State.keepsSystem_foldl {α : Type} {f : State → α → State} (hf : ∀ (s : State) (x : α), s.keepsSystem (f s x)) (l : List α) (s : State) :
    s.keepsSystem (l.foldl f s) :=
  List.foldlRecOn (motive := s.keepsSystem) l f (.refl s) fun t h x _ => h.trans (hf t x)

theorem State.keepsSystem_wr (s : State) (f : Fld) (v : Nat) (hf : 0x100000 ≤ f.addr) : s.keepsSystem (s.wr f v) where
  parts := rfl
  regs a ha := rfWord_rfWr_other _ _ _ _ (by omega)

theorem State.keepsSystem_updFe (s : State) (p : Fin 4) (f : FeSt → FeSt) : s.keepsSystem (s.updFe p f) := ⟨rfl, fun _ _ => rfl⟩

theorem State.keepsSystem.rd {s t : State} (h : s.keepsSystem t) (f : Fld) (hf : f.addr < 0x100000) : t.rd f = s.rd f :=
  congrArg f.of (h.regs _ hf)

theorem State.keepsSystem.epoch {s t : State} (h : s.keepsSystem t) : t.epoch = s.epoch := by rw [h.parts]
theorem State.keepsSystem.power {s t : State} (h : s.keepsSystem t) : t.power = s.power := by rw [h.parts]
theorem State.keepsSystem.now {s t : State} (h : s.keepsSystem t) : t.now = s.now := State.now_congr (by rw [h.parts])

theorem State.keepsSystem_showSlices (s : State) (p : Fin 4) : s.keepsSystem (s.showSlices p) :=
  (s.keepsSystem_wr _ _ (by simp [Fld.FE_STATUS_SlicePower]; omega)).trans (State.keepsSystem_wr _ _ _ (by simp [Fld.FE_STATUS_RefOn]; omega))

theorem State.keepsSystem_powerUp (s : State) (p : Fin 4) (at_ mask : Nat) : s.keepsSystem (s.powerUp p at_ mask) := by
  unfold State.powerUp
  split
  · exact .refl s
  · dsimp only
    refine State.keepsSystem.trans ?_ (State.keepsSystem_showSlices _ p)
    split
    · exact (s.keepsSystem_updFe p _).trans (State.keepsSystem_wr _ _ _ (by simp [Fld.FE_STATUS_RefReady]; omega))
    · exact s.keepsSystem_updFe p _

theorem State.keepsSystem_powerForCommit (s : State) (new : RegFile) : s.keepsSystem (s.powerForCommit new) := by
  unfold State.powerForCommit
  split
  · exact .refl s
  · refine State.keepsSystem_foldl (fun s p => ?_) _ s
    split
    · exact .refl s
    · exact s.keepsSystem_powerUp p _ _

theorem State.keepsSystem_showChecks (s : State) (new : RegFile) : s.keepsSystem (s.showChecks new) := by
  have ports : ∀ (s : State) (p : Nat),
      s.keepsSystem ((s.wr (.PLAN_STATUS_FailCheck p) (portFail new p)).wr (.DTS_STATUS_DtsCheck p) (dtsFail new p)) := fun s p =>
    (s.keepsSystem_wr _ _ (by simp [Fld.PLAN_STATUS_FailCheck]; omega)).trans
      (State.keepsSystem_wr _ _ _ (by simp [Fld.DTS_STATUS_DtsCheck]; omega))
  exact (((State.keepsSystem_foldl ports _ s).trans (State.keepsSystem_wr _ .TL_STATUS_LaneCheck _ (by decide))).trans
    (State.keepsSystem_wr _ .EMT_STATUS_EmitCheck _ (by decide))).trans (State.keepsSystem_wr _ .PT_STATUS_HistCheck _ (by decide))

/-- The checks show their results in registers alone. -/
theorem State.showChecks_eq (s : State) (new : RegFile) : s.showChecks new = { s with regs := (s.showChecks new).regs } := by
  have ports : (s.showChecks new).ports = s.ports := by
    rw [State.showChecks, State.wr_ports, State.wr_ports, State.wr_ports]
    refine List.foldlRecOn (motive := fun (t : State) => t.ports = s.ports) _ _ rfl fun t h p _ => ?_
    rw [State.wr_ports, State.wr_ports, h]
  conv_lhs => rw [(s.keepsSystem_showChecks new).parts, ports]

end Sys2Proof.Machine
end

section
/-! PROOFS. The branches of COMMIT (R35 – R37, R503). -/
namespace Sys2Proof.Machine

/-- The resulting configuration follows from the register file and the epoch banks (R35). -/
theorem State.resulting_congr {s t : State} (hr : t.regs = s.regs) (he : t.epoch = s.epoch) : t.resulting = s.resulting := by
  rw [State.resulting, State.resulting, State.newestRegs, State.newestRegs, hr, he]

/-- A COMMIT alone behind no earlier write is checked at once (R503). -/
theorem exec_commit_of_alone {s : State} {p : Fin 9} {tag : Byte} {o : Outst} (h : s.Takes p 4 tag)
    (hw : (s.taken p 4 tag 0 0).commitsWaiting = [(p, o)]) (ho : o.tag = tag) :
    exec (.commit p tag) s =
      .next (if (s.taken p 4 tag 0 0).writeBefore o.no then s.taken p 4 tag 0 0 else (s.taken p 4 tag 0 0).runCommit p tag) := by
  have hx : exec (.commit p tag) s = .next (s.taken p 4 tag 0 0).runCommits := by
    show Host.Outcome.next (if (s.accept p 4 tag 0 0).2 = true then _ else _) = _
    rw [if_pos (h.accept_ok 0 0)]; rfl
  rw [hx, State.runCommits, hw, commitGo, commitGo, ho]

/-- The reasons of the checks are codes of an 8-bit field, none of them 0 (R35). -/
theorem State.mem_failReasons {s : State} {new : RegFile} {x : Nat} (h : x ∈ s.failReasons new) : x ≠ 0 ∧ x < 256 := by
  simp only [State.failReasons, List.mem_append, List.mem_ite_nil_left, List.mem_ite_nil_right, List.mem_singleton] at h
  omega

/-- The reasons for which the configuration that a COMMIT would result in fails its checks (R35). -/
def State.commitFails (s : State) : List Nat :=
  ({ s.showChecks s.resulting with regs := (s.showChecks s.resulting).newestRegs } : State).failReasons s.resulting

section
variable {s a : State} {p : Fin 9} (k : s.keepsTaken a p [])
include k

theorem State.keepsTaken.pwr : a.pwr = s.pwr := State.rd_congr k.regs _
theorem State.keepsTaken.now : a.now = s.now := State.now_congr k.time
theorem State.keepsTaken.resulting : a.resulting = s.resulting := State.resulting_congr k.regs k.epoch

theorem State.keepsTaken.commitReason_hold (tc : Nat) (h : s.pwr = 1) : a.commitReason tc = (7, a) := by
  rw [State.commitReason, k.pwr, if_pos h]

theorem State.keepsTaken.commitReason_busy (tc : Nat) (h : s.pwr ≠ 1) (hs : s.epoch.sched.isSome = true) :
    a.commitReason tc = (6, a.showChecks s.resulting) := by
  simp [State.commitReason, k.pwr, h, k.resulting, (a.keepsSystem_showChecks s.resulting).epoch, k.epoch, hs]

theorem State.keepsTaken.commitReason_late {tc : Nat} (h : s.pwr ≠ 1) (hs : s.epoch.sched = none) (ht : s.now + 600000000000 < tc) :
    a.commitReason tc = (5, a.showChecks s.resulting) := by
  have k' := a.keepsSystem_showChecks s.resulting
  simp [State.commitReason, k.pwr, h, k.resulting, k'.epoch, k.epoch, k'.now, k.now, hs, ht]

/-- Neither the state of the device nor the time speaks against the commit: the checks of the configuration decide. -/
theorem State.keepsTaken.commitReason_checks {tc : Nat} (h : s.pwr ≠ 1) (hs : s.epoch.sched = none) (ht : tc ≤ s.now + 600000000000) :
    a.commitReason tc = (a.showChecks s.resulting).pickReason a.commitFails := by
  have k' := a.keepsSystem_showChecks s.resulting
  simp [State.commitReason, State.commitFails, k.pwr, h, k.resulting, k'.epoch, k.epoch, k'.now, k.now, hs, Nat.not_lt.2 ht]

end

/-- A COMMIT with a reason is rejected: it shows the reason and answers FAILED (R35). -/
theorem State.runCommit_rejected {s t : State} {r : Nat} (hc : s.commitReason (s.rd64 .COMMIT_TIME_LO_TimeLo) = (r, t)) (hr : r ≠ 0)
    (p : Fin 9) (tag : Byte) :
    s.runCommit p tag = (t.wr .COMMIT_RESULT_Reason r).done p 4 tag 0 10 (r + 256 * t.rd .COMMIT_RESULT_TargetEpoch) r := by
  have target : (t.wr .COMMIT_RESULT_Reason r).rd .COMMIT_RESULT_TargetEpoch = t.rd .COMMIT_RESULT_TargetEpoch :=
    t.rd_wr_apart _ _ r (by decide)
  rw [State.runCommit, hc]
  dsimp only
  rw [if_neg hr, if_neg hr, target]
  rfl

/-- The scheduled bank that an accepted commit for `tc` gives (R35, R36). -/
def State.commitFor (s : State) (tc : Nat) : Sched := ⟨if tc ≤ s.now then s.now else tc, (s.curEpoch + 1) % 65536, s.epoch.pend⟩

theorem State.commitFor_congr {s t : State} (hn : t.now = s.now) (hc : t.curEpoch = s.curEpoch) (he : t.epoch = s.epoch) (tc : Nat) :
    t.commitFor tc = s.commitFor tc := by
  rw [State.commitFor, State.commitFor, hn, hc, he]

theorem State.commitFor_coming {s : State} {tc : Nat} (h : s.now < tc) : s.commitFor tc = ⟨tc, (s.curEpoch + 1) % 65536, s.epoch.pend⟩ := by
  rw [State.commitFor, if_neg (Nat.not_le.2 h)]

theorem State.commitFor_passed {s : State} {tc : Nat} (h : tc ≤ s.now) : s.commitFor tc = ⟨s.now, (s.curEpoch + 1) % 65536, s.epoch.pend⟩ := by
  rw [State.commitFor, if_pos h]

/-- An accepted commit stands in the scheduled bank, the pending bank is empty, and the epoch is still `cur` (R35). -/
structure State.HoldsCommit (u : State) (c : Sched) (cur : Nat) : Prop where
  sched : u.epoch.sched = some c
  pend : u.epoch.pend = []
  scheduled : u.on .EPOCH_STATUS_Scheduled = true
  pending : u.on .EPOCH_STATUS_Pending = false
  reason : u.rd .COMMIT_RESULT_Reason = 0
  target : u.rd .COMMIT_RESULT_TargetEpoch = c.num
  epoch : u.curEpoch = cur

/-- The pending bank becomes the scheduled one, and the registers show it (R35). -/
def State.schedule (s : State) (c : Sched) : State :=
  let s := { s with epoch := { s.epoch with sched := some c, pend := [], stores := [] } }
  ((s.wr .EPOCH_STATUS_Scheduled 1).wr .EPOCH_STATUS_Pending 0).wr .COMMIT_RESULT_TargetEpoch c.num

theorem State.schedule_rd (s : State) (c : Sched) (f : Fld) :
    (s.schedule c).rd f = (((s.wr .EPOCH_STATUS_Scheduled 1).wr .EPOCH_STATUS_Pending 0).wr .COMMIT_RESULT_TargetEpoch c.num).rd f := by
  simp only [State.rd, State.schedule, State.regs_wr]

@[simp] theorem State.schedule_power (s : State) (c : Sched) : (s.schedule c).power = s.power := by
  rw [State.schedule, State.wr_power, State.wr_power, State.wr_power]

@[simp] theorem State.schedule_time (s : State) (c : Sched) : (s.schedule c).time = s.time := by
  rw [State.schedule, State.wr_time, State.wr_time, State.wr_time]

theorem State.schedule_holds {s : State} {c : Sched} (hr : s.rd .COMMIT_RESULT_Reason = 0) (hn : c.num < 65536) :
    (s.schedule c).HoldsCommit c s.curEpoch where
  sched := rfl
  pend := rfl
  scheduled := by simp (disch := decide) only [State.on_eq, State.schedule_rd, State.rd_wr_apart, State.rd_wr_field]; rfl
  pending := by simp (disch := decide) only [State.on_eq, State.schedule_rd, State.rd_wr_apart, State.rd_wr_field]; rfl
  reason := by simp (disch := decide) only [State.schedule_rd, State.rd_wr_apart, hr]
  target := by rw [State.schedule_rd, State.rd_wr_field _ _ _ (by decide)]; exact Nat.mod_eq_of_lt hn
  epoch := by simp (disch := decide) only [State.curEpoch, State.schedule_rd, State.rd_wr_apart]

/-- Whether a commit applies at once follows from the time and the power part (R37, R44). -/
theorem State.mayCommit_congr {s t : State} (ht : t.now = s.now) (hp : t.power = s.power) (tc : Nat) : t.mayCommit tc = s.mayCommit tc := by
  rw [State.mayCommit, State.mayCommit, ht, hp]

theorem State.mayCommit_eq_true {s : State} {tc : Nat} (ht : tc ≤ s.now) (hw : s.power.wakeAt = none) : s.mayCommit tc = true := by
  simp [State.mayCommit, ht, hw]

theorem State.mayCommit_eq_false {s : State} {tc : Nat} (h : s.now < tc ∨ s.power.wakeAt.isSome = true) : s.mayCommit tc = false := by
  rcases h with h | h
  · simp [State.mayCommit, Nat.not_le.2 h]
  · simp [State.mayCommit, Option.isNone_eq_false_iff.2 h]

/-- Acceptance moves the pending bank to the scheduled one; the commit then applies at once, or waits (R35 – R37, R44). -/
theorem State.acceptCommit_cases {s : State} (hr : s.rd .COMMIT_RESULT_Reason = 0) (tc : Nat) :
    ∃ u : State, u.HoldsCommit (s.commitFor tc) s.curEpoch ∧
      s.acceptCommit tc = if s.mayCommit tc then u.commitAt (s.commitFor tc) else u := by
  have k := s.keepsSystem_powerForCommit s.resulting
  rw [State.acceptCommit]
  generalize s.powerForCommit s.resulting = a at k ⊢
  have hc : (⟨if tc ≤ a.now then a.now else tc, (s.curEpoch + 1) % 65536, a.epoch.pend⟩ : Sched) = s.commitFor tc := by
    rw [k.now, k.epoch]; rfl
  have hm : (a.schedule (s.commitFor tc)).mayCommit tc = s.mayCommit tc :=
    State.mayCommit_congr ((State.now_congr (a.schedule_time _)).trans k.now) ((a.schedule_power _).trans k.power) tc
  have holds := State.schedule_holds (s := a) (c := s.commitFor tc) ((k.rd _ (by decide)).trans hr) (Nat.mod_lt _ (by decide))
  rw [show a.curEpoch = s.curEpoch from k.rd _ (by decide)] at holds
  refine ⟨_, holds, ?_⟩
  dsimp only
  rw [hc, ← hm]
  rfl

/-- An accepted COMMIT answers OK with the epoch that COMMIT_RESULT names (R35). -/
def State.doneCommit (s : State) (p : Fin 9) (tag : Byte) : State := s.done p 4 tag 0 0 (256 * s.rd .COMMIT_RESULT_TargetEpoch) 0

/-- A COMMIT that no reason speaks against is accepted for its T_c (R35, R36). -/
theorem State.runCommit_accepted {s t : State} (hc : s.commitReason (s.rd64 .COMMIT_TIME_LO_TimeLo) = (0, t)) (p : Fin 9) (tag : Byte) :
    s.runCommit p tag = ((t.wr .COMMIT_RESULT_Reason 0).acceptCommit (s.rd64 .COMMIT_TIME_LO_TimeLo)).doneCommit p tag := by
  rw [State.runCommit, hc]
  dsimp only
  rw [if_pos rfl, if_pos rfl, Nat.zero_add]
  rfl

section
variable {s : State} {p : Fin 9} {tag : Byte} {o : Outst} (h : s.Takes p 4 tag)
  (hw : (s.taken p 4 tag 0 0).commitsWaiting = [(p, o)]) (ho : o.tag = tag) (hb : (s.taken p 4 tag 0 0).writeBefore o.no = false)
include h hw ho hb

/-- A rejected COMMIT answers its reason and changes registers alone (R35). -/
theorem commit_answers_rejected {t : State} {r : Nat} (hr : r ≠ 0 ∧ r < 256)
    (hc : (s.taken p 4 tag 0 0).commitReason (s.rd64 .COMMIT_TIME_LO_TimeLo) = (r, t))
    (ht : t = { s.taken p 4 tag 0 0 with regs := t.regs }) (hk : (s.taken p 4 tag 0 0).keepsSystem t) :
    Answers (.commit p tag) s p (mkResp 4 tag 0 10 (r + 256 * s.rd .COMMIT_RESULT_TargetEpoch) r 0) fun u =>
      u.rd .COMMIT_RESULT_Reason = r ∧ u.epoch = s.epoch ∧ s.keepsTaken u p [.regs, .freeCtr] := by
  have k := h.keepsTaken 0 0
  have target : t.rd .COMMIT_RESULT_TargetEpoch = s.rd .COMMIT_RESULT_TargetEpoch :=
    (hk.rd _ (by decide)).trans (State.rd_congr k.regs _)
  refine ⟨t.wr .COMMIT_RESULT_Reason r, ?_, ?_, hk.epoch.trans k.epoch, ?_⟩
  · rw [exec_commit_of_alone h hw ho, hb, if_neg (by decide), State.runCommit_rejected (by rw [State.rd64, k.regs]; exact hc) hr.1, target]
    rfl
  · rw [State.rd_wr_field _ _ _ (by decide)]
    exact Nat.mod_eq_of_lt hr.2
  · rw [ht]
    exact State.keepsTaken_setRegs (t := s.taken p 4 tag 0 0) _ k

/-- An accepted COMMIT stands in the scheduled bank, and applies at once or waits; it then answers OK with its epoch (R35 – R37, R44). -/
theorem exec_commit_accepted {t : State} (hc : (s.taken p 4 tag 0 0).commitReason (s.rd64 .COMMIT_TIME_LO_TimeLo) = (0, t))
    (hk : (s.taken p 4 tag 0 0).keepsSystem t) :
    let c := s.commitFor (s.rd64 .COMMIT_TIME_LO_TimeLo)
    ∃ u : State, u.HoldsCommit c s.curEpoch ∧ exec (.commit p tag) s =
      .next ((if s.mayCommit (s.rd64 .COMMIT_TIME_LO_TimeLo) then u.commitAt c else u).doneCommit p tag) := by
  have k := h.keepsTaken 0 0
  have hnow : (t.wr .COMMIT_RESULT_Reason 0).now = s.now :=
    (State.now_congr (State.wr_time ..)).trans (hk.now.trans (State.now_congr k.time))
  have hcur : (t.wr .COMMIT_RESULT_Reason 0).curEpoch = s.curEpoch :=
    (State.rd_wr_apart _ _ _ _ (by decide)).trans ((hk.rd _ (by decide)).trans (State.rd_congr k.regs _))
  have hepoch : (t.wr .COMMIT_RESULT_Reason 0).epoch = s.epoch := hk.epoch.trans k.epoch
  have hpower : (t.wr .COMMIT_RESULT_Reason 0).power = s.power := hk.power.trans k.power
  obtain ⟨u, hu, he⟩ := State.acceptCommit_cases (s := t.wr .COMMIT_RESULT_Reason 0)
    (State.rd_wr_field _ _ _ (by decide)) (s.rd64 .COMMIT_TIME_LO_TimeLo)
  rw [State.commitFor_congr hnow hcur hepoch, hcur] at hu
  rw [State.commitFor_congr hnow hcur hepoch, State.mayCommit_congr hnow hpower] at he
  have h64 : (s.taken p 4 tag 0 0).rd64 .COMMIT_TIME_LO_TimeLo = s.rd64 .COMMIT_TIME_LO_TimeLo := by rw [State.rd64, State.rd64, k.regs]
  refine ⟨u, hu, ?_⟩
  rw [exec_commit_of_alone h hw ho, hb, if_neg (by decide), State.runCommit_accepted (by rw [h64]; exact hc), h64, he]

/-- An accepted COMMIT that does not apply yet answers OK with the epoch it is to create (R35, R36, R44). -/
theorem commit_answers_waiting {t : State} (hc : (s.taken p 4 tag 0 0).commitReason (s.rd64 .COMMIT_TIME_LO_TimeLo) = (0, t))
    (hk : (s.taken p 4 tag 0 0).keepsSystem t) (hm : s.mayCommit (s.rd64 .COMMIT_TIME_LO_TimeLo) = false) :
    Answers (.commit p tag) s p (mkResp 4 tag 0 0 (256 * ((s.curEpoch + 1) % 65536)) 0 0) fun u =>
      u.HoldsCommit (s.commitFor (s.rd64 .COMMIT_TIME_LO_TimeLo)) s.curEpoch := by
  obtain ⟨u, hu, he⟩ := exec_commit_accepted h hw ho hb hc hk
  refine ⟨u, ?_, hu⟩
  rw [he, hm, if_neg (by decide), State.doneCommit, hu.target]
  rfl

/-- An accepted COMMIT whose T_c has passed applies at once (R36, R37). -/
theorem commit_leads_applied {t : State} (hc : (s.taken p 4 tag 0 0).commitReason (s.rd64 .COMMIT_TIME_LO_TimeLo) = (0, t))
    (hk : (s.taken p 4 tag 0 0).keepsSystem t) (hm : s.mayCommit (s.rd64 .COMMIT_TIME_LO_TimeLo) = true) :
    Leads (.commit p tag) s
      (fun u => (u.commitAt (s.commitFor (s.rd64 .COMMIT_TIME_LO_TimeLo))).doneCommit p tag) fun u =>
      u.HoldsCommit (s.commitFor (s.rd64 .COMMIT_TIME_LO_TimeLo)) s.curEpoch := by
  obtain ⟨u, hu, he⟩ := exec_commit_accepted h hw ho hb hc hk
  refine ⟨u, ?_, hu⟩
  rw [he, hm, if_pos rfl]

end

/-! EPOCH_SWITCH -/

/-- EPOCH_SWITCH of a scheduled commit: it applies where its T_c has come and no sentinel wake is in progress (R37, R44). -/
theorem exec_epochSwitch_of_sched {s : State} {c : Sched} (h : s.epoch.sched = some c) :
    exec .epochSwitch s = .next (if s.mayCommit c.tc then s.commitAt c else s) := by
  show execEpochSwitch s = _
  rw [execEpochSwitch, h]
  exact (apply_ite Host.Outcome.next _ _ _).symm

/-- The scheduled bank is emptied before the epoch begins; nothing else changes until then (R37). -/
theorem epochSwitch_leads {s : State} {c : Sched} (h : s.epoch.sched = some c) (ht : c.tc ≤ s.now) (hw : s.power.wakeAt = none) :
    Leads .epochSwitch s (fun u => (u.beginEpoch c.num c.tc 1 c.changes).loadsAtTc) fun u =>
      u.epoch = { s.epoch with sched := none } ∧ u.on .EPOCH_STATUS_Scheduled = false ∧ u.curEpoch = s.curEpoch ∧
        s.keeps u [.regs, .epoch] ∧ s.keepsRegs u [Fld.EPOCH_STATUS_Scheduled.addr] := by
  refine ⟨({ s with epoch := { s.epoch with sched := none } }).wr .EPOCH_STATUS_Scheduled 0, ?_, rfl, ?_, ?_, ?_, ?_⟩
  · rw [exec_epochSwitch_of_sched h, State.mayCommit_eq_true ht hw]
    rfl
  · rw [State.on_eq, State.rd_wr_field _ _ _ (by decide)]
    rfl
  · exact State.rd_wr_apart _ _ _ _ (by decide)
  · exact State.keeps_setRegs _ (s.keeps_setEpoch _)
  · intro a ha
    exact rfWord_rfWr_other _ _ _ _ (by simpa using ha)

end Sys2Proof.Machine
end

section
open Sys2Proof.Machine

/-- Settles O24, one branch of COMMIT and of EPOCH_SWITCH after the other: the checks and the power-up of ports leave the epoch banks, the
time and the system registers as they are. -/
theorem commitsAndTheirTimes : Obligations.CommitsAndTheirTimes := by
  unfold Obligations.CommitsAndTheirTimes
  intro s p tag tc n t fails rejects
  refine ⟨fun h o hw ho => ⟨fun hb => ?_, fun hb => ?_⟩, fun c hs ht hwake => epochSwitch_leads hs ht hwake, fun c hs hc => ?_⟩
  · rw [exec_commit_of_alone h hw ho, if_pos hb]
  · have k := h.keepsTaken 0 0
    have hshow := State.showChecks_eq (s.taken p 4 tag 0 0) s.resulting
    have hk := State.keepsSystem_showChecks (s.taken p 4 tag 0 0) s.resulting
    have hfails : (s.taken p 4 tag 0 0).commitFails = fails := by rw [State.commitFails, k.resulting]
    have accepts : s.pwr ≠ 1 → s.epoch.sched = none → tc ≤ s.now + 600000000000 → fails = [] →
        (s.taken p 4 tag 0 0).commitReason tc = (0, (s.taken p 4 tag 0 0).showChecks s.resulting) := fun hp hs ht hf => by
      rw [k.commitReason_checks hp hs ht, hfails, hf]; rfl
    refine ⟨fun hp => ?_, fun hp hs => ?_, fun hp hs ht => ?_, fun x hp hs ht hf => ?_, fun hp hs hlt ht hf => ?_, fun hp hs ht hwk hf => ?_,
      fun hp hs ht hwk hf => ?_⟩
    · exact commit_answers_rejected h hw ho hb (by decide) (k.commitReason_hold _ hp) rfl (.refl _)
    · exact commit_answers_rejected h hw ho hb (by decide) (k.commitReason_busy _ hp hs) hshow hk
    · exact commit_answers_rejected h hw ho hb (by decide) (k.commitReason_late hp hs ht) hshow hk
    · have hx : x ≠ 0 ∧ x < 256 := State.mem_failReasons (hf ▸ List.mem_singleton_self x : x ∈ fails)
      exact commit_answers_rejected h hw ho hb hx (by rw [k.commitReason_checks hp hs ht, hfails, hf]; rfl) hshow hk
    · obtain ⟨u, he, hu⟩ := commit_answers_waiting h hw ho hb (accepts hp hs ht hf) hk (State.mayCommit_eq_false (.inl hlt))
      rw [State.commitFor_coming hlt] at hu
      exact ⟨u, he, hu.sched, hu.pend, hu.scheduled, hu.pending, hu.reason, hu.target, hu.epoch⟩
    · obtain ⟨u, he, hu⟩ := commit_answers_waiting h hw ho hb (accepts hp hs (ht.trans (Nat.le_add_right ..)) hf) hk
        (State.mayCommit_eq_false (.inr hwk))
      rw [State.commitFor_passed ht] at hu
      exact ⟨u, he, hu.sched, hu.pend, hu.scheduled, hu.epoch⟩
    · obtain ⟨u, he, hu⟩ := commit_leads_applied h hw ho hb (accepts hp hs (ht.trans (Nat.le_add_right ..)) hf) hk
        (State.mayCommit_eq_true ht hwk)
      rw [State.commitFor_passed ht] at he hu
      exact ⟨u, he, hu.pend, hu.reason, hu.target, hu.epoch⟩
  · rw [exec_epochSwitch_of_sched hs, State.mayCommit_eq_false hc]
    rfl

end

section
/-! PROOFS. Offering a record to a ring, with the drains and the alarms that follow, leaves the host's part as it is (R22, R376, R397). -/
namespace Sys2Proof.Machine

/-- The host's part through a repeated operation. -/
theorem State.foldl_host {α : Type} {f : State → α → State} (hf : ∀ (s : State) (x : α), (f s x).host = s.host) (l : List α) (s : State) :
    (l.foldl f s).host = s.host :=
  List.foldlRecOn (motive := fun (t : State) => t.host = s.host) l f rfl fun t h x _ => (hf t x).trans h

/-! Memory -/

@[simp] theorem State.inc64_host (s : State) (f : Fld) (k : Nat) : (s.inc64 f k).host = s.host := rfl

@[simp] theorem State.fetched_host (s : State) (req l : Nat) : (s.fetched req l).host = s.host := by
  unfold State.fetched State.countPoison
  split
  · rfl
  · split <;> rfl

@[simp] theorem fetchedWords_host (req : Nat) (loc : Nat → Nat) (n w : Nat) (s : State) : (fetchedWords req loc n w s).host = s.host := by
  induction n generalizing w s with
  | zero => rfl
  | succ n ih => rw [fetchedWords, ih, State.fetched_host]

@[simp] theorem writeBytes_host (req : Nat) (loc : Nat → Nat) (k a : Nat) (bs : List Byte) (s : State) :
    (writeBytes req loc k a bs s).host = s.host := by
  induction k generalizing a bs s with
  | zero => rfl
  | succ k ih =>
    unfold writeBytes
    split
    · rfl
    · rw [ih]
      dsimp only
      split
      · exact State.setWord_host ..
      · exact (State.setWord_host ..).trans (s.fetched_host req _)

@[simp] theorem State.areaWrite_host (s : State) (req : Nat) (a : Area) (off : Nat) (bs : List Byte) : (s.areaWrite req a off bs).host = s.host :=
  writeBytes_host ..

@[simp] theorem State.slotFetched_host (s : State) (a : Area) (x : Slot) : (s.slotFetched a x).host = s.host := fetchedWords_host ..

/-! Heads and bodies -/

@[simp] theorem State.lose_host (s : State) (r n : Nat) : (s.lose r n).host = s.host := rfl
@[simp] theorem State.takeSeq_host (s : State) (r : Fin 16) : (s.takeSeq r).2.host = s.host := rfl
@[simp] theorem State.putHead_host (s : State) (r : Fin 16) (x : Rec) : (s.putHead r x).host = s.host := s.areaWrite_host ..
@[simp] theorem State.putBody_host (s : State) (r : Fin 16) (x : Rec) : (s.putBody r x).host = s.host := s.areaWrite_host ..
@[simp] theorem State.putAsm_host (s : State) (r : Fin 16) (x : Rec) : (s.putAsm r x).host = s.host := s.areaWrite_host ..
@[simp] theorem State.takeHead_host (s : State) (r : Fin 16) (x : Slot) : (s.takeHead r x).host = s.host := s.slotFetched_host ..

@[simp] theorem fillGo_host (r : Fin 16) (k : Nat) (s : State) : (fillGo r k s).host = s.host := by
  induction k generalizing s with
  | zero => rfl
  | succ k ih =>
    rw [fillGo]
    split
    · rfl
    · dsimp only
      split
      · simp [ih]
      · split
        · simp [ih]
        · rfl

@[simp] theorem State.fillBody_host (s : State) (r : Fin 16) : (s.fillBody r).host = s.host := by
  unfold State.fillBody
  split
  · rfl
  · exact fillGo_host ..

@[simp] theorem State.tapStreams_host (s : State) (r : Nat) (b : List Byte) : (s.tapStreams r b).host = s.host := by
  unfold State.tapStreams
  split
  · refine State.foldl_host (fun s n => ?_) _ s
    dsimp only
    split
    · refine State.foldl_host (fun s q => ?_) _ s
      split <;> rfl
    · rfl
  · rfl

@[simp] theorem State.offerCore_host (s : State) (r : Fin 16) (b : List Byte) : (s.offerCore r b).host = s.host := by
  unfold State.offerCore
  dsimp only
  split
  · simp
  · split <;> simp

/-! Alarms -/

@[simp] theorem State.coalesce_host (s : State) (o : Occ) : (s.coalesce o).host = s.host := by
  unfold State.coalesce
  dsimp only
  split
  · split <;> simp
  · split
    · split <;> simp
    · rfl

@[simp] theorem State.logRecord_host (s : State) (o : Occ) : (s.logRecord o).host = s.host := by
  unfold State.logRecord
  split <;> simp

@[simp] theorem State.postAlarm_host (s : State) (code sev a0 a1 : Nat) : (s.postAlarm code sev a0 a1).host = s.host := by
  unfold State.postAlarm State.present
  dsimp only
  split <;> split <;> simp

@[simp] theorem State.checkHigh_host (s : State) (r : Fin 16) : (s.checkHigh r).host = s.host := by
  unfold State.checkHigh
  dsimp only
  split
  · split <;> simp
  · split <;> simp

/-! Drains -/

@[simp] theorem State.dropNext_host (s : State) (r : Fin 16) : (s.dropNext r).host = s.host := by
  unfold State.dropNext
  split <;> simp

@[simp] theorem State.takeNext_host (s : State) (r : Fin 16) : (s.takeNext r).host = s.host := by
  unfold State.takeNext
  dsimp only
  split <;> simp

@[simp] theorem State.intoEngine_host (s : State) (r : Fin 16) (x : Rec) : (s.intoEngine r x).host = s.host := by
  unfold State.intoEngine
  dsimp only
  split
  · split <;> simp
  · simp

@[simp] theorem State.pumpOne_host (s : State) (r : Fin 16) : (s.pumpOne r).host = s.host := by
  unfold State.pumpOne
  split
  · rfl
  · split
    · rfl
    · split
      · simp
      · split
        · split <;> simp
        · split <;> simp

@[simp] theorem pumpGo_host (r : Fin 16) (k : Nat) (s : State) : (pumpGo r k s).host = s.host := by
  induction k generalizing s with
  | zero => rfl
  | succ k ih => rw [pumpGo, ih, State.pumpOne_host]

@[simp] theorem State.drain_host (s : State) (r : Fin 16) : (s.drain r).host = s.host := by
  rw [State.drain, State.checkHigh_host, pumpGo_host, State.fillBody_host]

@[simp] theorem State.settleAlarms_host (s : State) : s.settleAlarms.host = s.host := by
  unfold State.settleAlarms
  split <;> simp

@[simp] theorem offerSums_host (k : Nat) (s : State) : (offerSums k s).host = s.host := by
  induction k generalizing s with
  | zero => rfl
  | succ k ih =>
    rw [offerSums]
    split
    · split
      · rw [ih, State.drain_host, State.offerCore_host]
      · rfl
    · rfl

@[simp] theorem State.pump_host (s : State) (r : Fin 16) : (s.pump r).host = s.host := by
  unfold State.pump
  split
  · rfl
  · dsimp only
    split <;> split <;> simp

@[simp] theorem State.offer_host (s : State) (r : Fin 16) (b : List Byte) : (s.offer r b).host = s.host := by
  rw [State.offer, State.pump_host, State.pump_host, State.offerCore_host]

end Sys2Proof.Machine
end

section
/-! PROOFS. What a response does to the outstanding commands of its path (R497, R500, R504). -/
namespace Sys2Proof.Machine

@[simp] theorem State.path_updPath_same (s : State) (p : Fin 9) (f : PathSt → PathSt) :
    (s.updPath p f).host.paths.get p = f (s.host.paths.get p) := by
  simp [State.updPath]

theorem State.deliver_out (s : State) (p : Fin 9) (r : Resp) : ((s.deliver p r).host.paths.get p).out = (s.host.paths.get p).out := by
  unfold State.deliver
  split
  · rfl
  · rw [State.offer_host]
    dsimp only
    rw [State.path_updPath_same]

@[simp] theorem State.startKey_host (s : State) (key : Bool) : (s.startKey key).host = s.host := by
  cases key <;> rfl

theorem State.endOut_out (s : State) (p : Fin 9) (tag : Byte) :
    ((s.endOut p tag).host.paths.get p).out = (s.host.paths.get p).out.filter fun (o : Outst) => o.tag != tag := by
  rw [State.endOut, State.path_updPath_same]

/-- A response goes to its queue where there is room behind no earlier one of its path, and ends its command where it is to; else it waits
(R497, R500, R504). -/
theorem State.answerAgain_cases (s : State) (p : Fin 9) (r : Resp) (ends : Bool) :
    ∃ (r' : Resp) (key : Bool), r'.tag = r.tag ∧ s.answerAgain p r ends =
      if s.respRoom p && !(s.host.respWait.any fun (w : Nat × Resp × Bool) => w.1 == p.val) then
        (if ends then ((s.deliver p r').startKey key).endOut p r'.tag else (s.deliver p r').startKey key)
      else { s with host := { s.host with respWait := s.host.respWait ++ [(p.val, r', ends)] } } := by
  refine ⟨if r.peer.isNone then { r with peer := s.peerFor p r.tag ends } else r, _, ?_, rfl⟩
  split <;> rfl

/-- A response that is delivered ends the outstanding command it answers (R504). -/
theorem State.answerAgain_out_of_room {s : State} {p : Fin 9} (r : Resp) (hroom : s.respRoom p = true)
    (hwait : ∀ w ∈ s.host.respWait, w.1 ≠ p.val) :
    ((s.answerAgain p r true).host.paths.get p).out = (s.host.paths.get p).out.filter fun (o : Outst) => o.tag != r.tag := by
  obtain ⟨r', key, htag, he⟩ := s.answerAgain_cases p r true
  have free : (s.host.respWait.any fun (w : Nat × Resp × Bool) => w.1 == p.val) = false := by simpa using hwait
  rw [he, if_pos (by simp [hroom, free]), if_pos rfl, State.endOut_out, State.startKey_host, State.deliver_out, htag]

/-- A response that finds no room ends nothing: it waits (R504). -/
theorem State.answerAgain_paths_of_no_room {s : State} {p : Fin 9} (r : Resp) (ends : Bool) (hroom : s.respRoom p = false) :
    (s.answerAgain p r ends).host.paths = s.host.paths := by
  obtain ⟨r', key, -, he⟩ := s.answerAgain_cases p r ends
  rw [he, if_neg (by simp [hroom])]

/-- A response that ends no command leaves those outstanding, whether it is delivered or waits. -/
theorem State.answerAgain_false_out (s : State) (p : Fin 9) (r : Resp) :
    ((s.answerAgain p r false).host.paths.get p).out = (s.host.paths.get p).out := by
  obtain ⟨r', key, -, he⟩ := s.answerAgain_cases p r false
  rw [he]
  split
  · rw [if_neg Bool.false_ne_true, State.startKey_host, State.deliver_out]
  · rfl

end Sys2Proof.Machine
end

section
/-! PROOFS. Which commands acceptance turns away, and what one that it accepts becomes (R503, R504). -/
namespace Sys2Proof.Machine

/-- An accepted command joins those outstanding on its path and takes the next place in the order of acceptance (R503, R504). -/
def State.enter (s : State) (p : Fin 9) (code : Nat) (tag : Byte) (addr data : Word) : State :=
  let t := s.updPath p fun (q : PathSt) => { q with out := q.out ++ [⟨tag, code, addr, data, s.xt, q.peer, s.host.accepted⟩] }
  { t with host := { t.host with accepted := s.host.accepted + 1 } }

/-- A command whose turn it is, is turned away for want of room, for its tag or for the power state, or else enters (R501, R503, R504). -/
theorem State.accept_of_turn {s : State} {p : Fin 9} {code : Nat} {tag : Byte} (hup : s.engineUp = true) (hturn : s.turnOf p code tag = true)
    (addr data : Word) :
    s.accept p code tag addr data =
      if 8 ≤ (s.host.paths.get p).out.length then ((s.takeReq p code tag).turnAway p code tag addr stOverflow, false)
      else if (s.host.paths.get p).out.any fun (o : Outst) => o.tag == tag then ((s.takeReq p code tag).turnAway p code tag addr stDupTag, false)
      else if !servedIn code s.pwr then ((s.takeReq p code tag).turnAway p code tag addr (if s.pwr = 0 then stBusy else stState), false)
      else ((s.takeReq p code tag).enter p code tag addr data, true) := by
  have hpwr : (s.takeReq p code tag).pwr = s.pwr := State.rd_congr (s.takeReq_regs p code tag) _
  unfold State.accept
  rw [if_neg (by simp [hup, hturn])]
  dsimp only
  rw [s.takeReq_out, hpwr]
  rfl

theorem State.accept_of_full {s : State} {p : Fin 9} {code : Nat} {tag : Byte} (hup : s.engineUp = true) (hturn : s.turnOf p code tag = true)
    (hfull : 8 ≤ (s.host.paths.get p).out.length) (addr data : Word) :
    s.accept p code tag addr data = ((s.takeReq p code tag).answer p (mkResp code tag addr 8 0 0 0) false, false) := by
  rw [State.accept_of_turn hup hturn, if_pos hfull]
  rfl

theorem State.accept_of_dupTag {s : State} {p : Fin 9} {code : Nat} {tag : Byte} (hup : s.engineUp = true) (hturn : s.turnOf p code tag = true)
    (hroom : (s.host.paths.get p).out.length < 8) (hdup : ∃ o ∈ (s.host.paths.get p).out, o.tag = tag) (addr data : Word) :
    s.accept p code tag addr data = ((s.takeReq p code tag).answer p (mkResp code tag addr 9 0 0 0) false, false) := by
  rw [State.accept_of_turn hup hturn, if_neg (Nat.not_le.2 hroom), if_pos (by simpa using hdup)]
  rfl

/-- A command that the engine takes enters. -/
theorem State.Takes.taken_eq {s : State} {p : Fin 9} {code : Nat} {tag : Byte} (h : s.Takes p code tag) (addr data : Word) :
    s.taken p code tag addr data = (s.takeReq p code tag).enter p code tag addr data := by
  rw [State.taken, State.accept_of_turn h.up h.turn, if_neg (Nat.not_le.2 h.room), if_neg (by simpa using h.fresh), if_neg (by simp [h.served])]

/-- Taking a transaction changes its path at most in the peer (R392). -/
theorem State.takeReq_path (s : State) (p : Fin 9) (code : Nat) (tag : Byte) :
    ∃ peer, (s.takeReq p code tag).host.paths.get p = { s.host.paths.get p with peer := peer } := by
  obtain h | ⟨peer, _, h, -⟩ := s.takeReq_cases p code tag <;> rw [h]
  · exact ⟨_, rfl⟩
  · exact ⟨peer, by simp⟩

theorem State.takeReq_accepted (s : State) (p : Fin 9) (code : Nat) (tag : Byte) : (s.takeReq p code tag).host.accepted = s.host.accepted := by
  obtain h | ⟨_, _, h, -⟩ := s.takeReq_cases p code tag <;> rw [h]

theorem State.takeReq_time (s : State) (p : Fin 9) (code : Nat) (tag : Byte) : (s.takeReq p code tag).time = s.time := by
  obtain h | ⟨_, _, h, -⟩ := s.takeReq_cases p code tag <;> rw [h]

theorem State.takeReq_xt (s : State) (p : Fin 9) (code : Nat) (tag : Byte) : (s.takeReq p code tag).xt = s.xt := by
  rw [State.xt, State.xt, s.takeReq_time]

/-- Acceptance of a command that the engine takes changes its path only in the outstanding commands and in the peer (R392, R504). -/
theorem State.Takes.taken_path {s : State} {p : Fin 9} {code : Nat} {tag : Byte} (h : s.Takes p code tag) (addr data : Word) :
    ∃ peer, (s.taken p code tag addr data).host.paths.get p =
      { s.host.paths.get p with peer := peer, out := (s.host.paths.get p).out ++ [⟨tag, code, addr, data, s.xt, peer, s.host.accepted⟩] } := by
  obtain ⟨peer, hp⟩ := s.takeReq_path p code tag
  refine ⟨peer, ?_⟩
  rw [h.taken_eq, State.enter]
  dsimp only
  rw [State.path_updPath_same, hp, s.takeReq_xt, s.takeReq_accepted]

theorem State.Takes.taken_accepted {s : State} {p : Fin 9} {code : Nat} {tag : Byte} (h : s.Takes p code tag) (addr data : Word) :
    (s.taken p code tag addr data).host.accepted = s.host.accepted + 1 := by
  rw [h.taken_eq, State.enter, s.takeReq_accepted]

/-! A command that is not accepted -/

section
variable {s t : State} {p : Fin 9} {tag : Byte} {addr data : Word}

theorem State.hostRead_of_not_accepted (h : s.accept p 1 tag addr 0 = (t, false)) : s.hostRead p tag addr = t := by
  rw [State.hostRead, h]; rfl

theorem State.hostWrite_of_not_accepted (h : s.accept p 2 tag addr data = (t, false)) : s.hostWrite p tag addr data = t := by
  rw [State.hostWrite, State.hostWriteWith, h]; rfl

theorem State.fnCommand_of_not_accepted {code : Nat} {kind inst : Byte}
    (h : s.accept p code tag 0 (BitVec.ofNat 32 (kind.toNat + 256 * inst.toNat)) = (t, false)) : s.fnCommand code p tag kind inst = t := by
  rw [State.fnCommand, h]; rfl

/-- A command of a request that acceptance turns away is not executed (R498, R501, R504). -/
theorem exec_of_not_accepted {c : Instr} {code : Nat} (hc : request c = some (p, code, tag, addr))
    (h : ∀ data, s.accept p code tag addr data = (t, false)) : exec c s = .next t := by
  cases c <;> simp only [request, Option.some.injEq, Prod.mk.injEq, reduceCtorEq] at hc <;> obtain ⟨rfl, rfl, rfl, rfl⟩ := hc
  case read => exact congrArg _ (State.hostRead_of_not_accepted (h _))
  case abort | start | stop => exact congrArg _ (State.fnCommand_of_not_accepted (h _))
  case write | discard | cancel | timeArm | hostSoftReset | sysWdogKick | tlClear | ptClear | bankSwap | calCmdCoherent | calCmdRaman | calCmdTdc |
      calCmdThresh => exact congrArg _ (State.hostWrite_of_not_accepted (h _))
  case snapshot | commit | setState | loadImage | flashRead | flashErase | flashWrite | retireRow | clearAlarm | fuseProgram =>
    simp_all [exec, execSnapshot, execCommit, execSetState, execLoadImage, execFlashRead, execFlashErase, execFlashWrite, execRetireRow,
      execClearAlarm, execFuseProgram]

end

/-! NOP and REPEAT (R501) -/

theorem exec_nop (s : State) (p : Fin 9) (tag : Byte) : exec (.nop p tag) s = .next (s.takeReq p 0 tag) := rfl

/-- REPEAT does nothing out of its turn, shifts out again on MGMT, and produces a copy of the last response on a link's path (R496). -/
theorem exec_repeatLast (s : State) (p : Fin 9) (tag : Byte) :
    exec (.repeatLast p tag) s = .next (
      if !s.engineUp || !s.turnOf p 0x0F tag then s
      else if p.val = 8 then { s with host := { s.host with miso := misoOf (s.host.paths.get 8).last } }
      else
        let t := s.takeReq p 0x0F tag
        t.answerAgain p { t.lastResp p with peer := (t.host.paths.get p).peer } false) := by
  show execRepeatLast p tag s = _
  unfold execRepeatLast
  split
  · rfl
  · split <;> rfl

end Sys2Proof.Machine
end

section
open Sys2Proof.Machine

/-- Settles O16: acceptance adds the command to those outstanding, its response alone takes it away, and a command that is turned away, a NOP or
a REPEAT adds none. -/
theorem outstandingUntilAnswered : Obligations.OutstandingUntilAnswered := by
  unfold Obligations.OutstandingUntilAnswered
  intro s p tag out
  refine ⟨fun code addr data h => ?_, fun r hroom hwait => State.answerAgain_out_of_room _ hroom hwait,
    fun r hroom => State.answerAgain_paths_of_no_room _ true hroom, fun c code addr hc hup hturn hfull => ?_,
    fun c code addr hc hup hturn hroom hdup => ?_, ⟨_, exec_nop s p tag, s.takeReq_out p 0 tag⟩, _, exec_repeatLast s p tag, ?_⟩
  · obtain ⟨peer, hp⟩ := h.taken_path addr data
    exact ⟨peer, by rw [hp], h.taken_accepted addr data, h.keepsTaken addr data⟩
  · exact exec_of_not_accepted hc fun data => State.accept_of_full hup hturn hfull addr data
  · exact exec_of_not_accepted hc fun data => State.accept_of_dupTag hup hturn hroom hdup addr data
  · split
    · rfl
    · split
      · rfl
      · exact (State.answerAgain_false_out _ p _).trans (s.takeReq_out p 0x0F tag)

end

section
/-! PROOFS. A read finds after acceptance of its command what stood before it: its checks, its waits and its values (R46, R503, R513). -/
namespace Sys2Proof.Machine

/-- Whether a read waits follows from the registers, the loops, the power part, the cores and the accesses that wait already (R298, R345, R554). -/
theorem State.gated_read_congr {s t : State} (hr : t.regs = s.regs) (hl : t.loops = s.loops) (hp : t.power = s.power) (hc : t.cores = s.cores)
    (hg : t.host.gateWait = s.host.gateWait) (a : Nat) : t.gated a false = s.gated a false := by
  have body : t.bodyHeld a = s.bodyHeld a := by simp only [State.bodyHeld, State.inRpt, State.core, State.on, hr, hc]
  have behind : t.memBehind a = s.memBehind a := by simp only [State.memBehind, hg]
  have on : ∀ f, t.on f = s.on f := fun f => by rw [State.on, State.on, hr]
  have loop : t.loopHeld a = s.loopHeld a := by
    simp only [State.loopHeld, State.regionLoops, State.loopLocked, State.locked, State.pwr, State.rd_congr hr, on, hl]
  have stage : t.stageDone 3 = s.stageDone 3 := by rw [State.stageDone, State.stageDone, hp]
  rw [State.gated, State.gated, body, behind, loop, stage, if_neg Bool.false_ne_true, if_neg Bool.false_ne_true]

/-- The two words of the die's identity read alike in every state. -/
theorem State.viewWord_die (s t : State) {b : Nat} (h : b = 0x10 ∨ b = 0x14) : t.viewWord b = s.viewWord b := by
  obtain rfl | rfl := h <;> rfl

/-- A latched result follows from the path's latches (R237). -/
theorem State.latched_congr {s t : State} {p : Fin 9} (h : (t.host.paths.get p).regLatch = (s.host.paths.get p).regLatch) (a : Nat) :
    t.latched p a = s.latched p a := by
  rw [State.latched, State.latched, h]

section
variable {s t : State} {p : Fin 9} (k : s.keepsTaken t p [])
include k

theorem State.keepsTaken.ports : t.ports = s.ports := (k.parts .ports (by decide)).1

theorem State.keepsTaken.gated_read (a : Nat) : t.gated a false = s.gated a false :=
  State.gated_read_congr k.regs (k.parts .loops (by decide)) k.power (k.parts .cores (by decide)) (by rw [k.host]) a

theorem State.keepsTaken.readHeld (a : Nat) : t.readHeld a = s.readHeld a := by
  have run : t.host.snapRun = s.host.snapRun := by rw [k.host]
  rw [State.readHeld, State.readHeld, run]

theorem State.keepsTaken.peekPoison (a : Nat) : t.peekPoison a = s.peekPoison a := by
  simp only [State.peekPoison, State.chainOf, k.ports]

theorem State.keepsTaken.rshWord (a : Nat) : t.rshWord a = s.rshWord a := by
  have snap : t.host.snap = s.host.snap := by rw [k.host]
  have fuses : t.host.fuses = s.host.fuses := by rw [k.host]
  unfold State.rshWord
  rw [snap, fuses]
  split
  · dsimp only
    split
    · rfl
    · split
      · rename_i h; rw [State.viewWord_die s t h]
      · rfl
  · rfl

/-- The frame of an accepted command, when its path changes after it. -/
theorem State.keepsTaken.updPath (f : PathSt → PathSt) : s.keepsTaken (t.updPath p f) p [] where
  parts q hq := by
    have hk := k.parts q hq
    cases q
    case host => simp at hq
    all_goals exact hk
  rings := k.rings
  words := k.words
  paths q hq := (vget_vupd_other _ _ _ _ hq).trans (k.paths q hq)
  host := by rw [State.updPath, k.host]

end

section
variable {s : State} {p : Fin 9} {code : Nat} {tag : Byte} (h : s.Takes p code tag) (addr data : Word)
include h

theorem State.Takes.taken_buf : ((s.taken p code tag addr data).host.paths.get p).buf = (s.host.paths.get p).buf := by
  obtain ⟨_, hp⟩ := h.taken_path addr data
  rw [hp]

theorem State.Takes.taken_rdShadow : ((s.taken p code tag addr data).host.paths.get p).rdShadow = (s.host.paths.get p).rdShadow := by
  obtain ⟨_, hp⟩ := h.taken_path addr data
  rw [hp]

theorem State.Takes.taken_latched (a : Nat) : (s.taken p code tag addr data).latched p a = s.latched p a := by
  obtain ⟨_, hp⟩ := h.taken_path addr data
  exact State.latched_congr (by rw [hp]) a

end

end Sys2Proof.Machine
end

section
/-! PROOFS. What a read returns, by the kind of its address (R237, R506, R510, R513). -/
namespace Sys2Proof.Machine

/-! Registers under the 64-bit rule (R510) -/

section
variable (s : State) (p : Fin 9) {a : Nat}

/-- A low half reads its live value and fills the path's read shadow with its high half. -/
theorem State.readReg_low (h : halfOf a = .low) :
    s.readReg p a = (s.viewWord a &&& readMask a, 0, s.updPath p fun (q : PathSt) =>
      { q with rdShadow := some (a + 4, s.viewWord (a + 4) &&& readMask (a + 4)),
               fracShadow := if a = 0x10100 then some (s.viewWord 0x10108) else none }) := by
  rw [State.readReg, h]

/-- A high half returns and empties the shadow that holds it. -/
theorem State.readReg_high_shadow {v : Word} (h : halfOf a = .high) (hv : (s.host.paths.get p).rdShadow = some (a, v)) :
    s.readReg p a = (v, 0, s.updPath p fun (q : PathSt) => { q with rdShadow := none }) := by
  simp [State.readReg, h, hv]

/-- A high half that the shadow does not hold reads its live value with TORN_RISK. -/
theorem State.readReg_high_torn (h : halfOf a = .high) (hv : ∀ v, (s.host.paths.get p).rdShadow ≠ some (a, v)) :
    s.readReg p a = (s.viewWord a &&& readMask a, 1, s) := by
  rw [State.readReg, h]
  dsimp only
  split
  · next b v hb =>
    rw [if_neg]
    rintro rfl
    exact hv v hb
  · rfl

/-- Any other register reads its live value; REG_STATUS latches its channel's results (R237). -/
theorem State.readReg_whole (h : halfOf a = .whole) (ha : a ≠ 0x10108) :
    s.readReg p a = (s.viewWord a &&& readMask a, 0, s.latchResults p a) := by
  rw [State.readReg, h]
  exact if_neg ha

/-- A read of a register under the 64-bit rule leaves the fibre ports as they are. -/
theorem State.readReg_ports (a : Nat) : (s.readReg p a).2.2.ports = s.ports := by
  have latch : (s.latchResults p a).ports = s.ports := by unfold State.latchResults; split <;> rfl
  unfold State.readReg
  dsimp only
  split
  · rfl
  · split
    · split <;> rfl
    · rfl
  · split
    · split <;> rfl
    · exact latch

end

/-! Every address -/

section
variable {s : State} {p : Fin 9} {a : Nat}

theorem State.readNow_buffer (h : inBuffer a = true) :
    s.readNow p a = (spGet (fun _ => 0) (s.host.paths.get p).buf ((a - 0x1000) / 4), 0, s) := by
  rw [State.readNow, if_pos h]

variable (hb : inBuffer a = false) (hw : inWindow a = false)
include hb hw

theorem State.readNow_rsh (h : isRsh a = true) : s.readNow p a = (s.rshWord a, 0, s) := by
  simp [State.readNow, hb, hw, h]

variable (hr : isRsh a = false) (hm : isMemData a = false)
include hr hm

theorem State.readNow_latched {v : Word} (h : s.latched p a = some v) : s.readNow p a = (v, 0, s) := by
  simp [State.readNow, hb, hw, hr, hm, h]

theorem State.readNow_reg (hl : s.latched p a = none) (hp : s.peekPoison a = false) : s.readNow p a = s.readReg p a := by
  have poison : (s.readReg p a).2.2.peekPoison a = false := by
    rw [← hp]; simp only [State.peekPoison, State.chainOf, State.readReg_ports]
  simp [State.readNow, hb, hw, hr, hm, hl, poison, bnat]

end

/-! Results of a regression channel (R237) -/

section
variable {s : State} {p : Fin 9}

theorem State.latchResults_out (a : Nat) : ((s.latchResults p a).host.paths.get p).out = (s.host.paths.get p).out := by
  unfold State.latchResults
  split <;> simp

theorem State.latchResults_rdShadow (a : Nat) : ((s.latchResults p a).host.paths.get p).rdShadow = (s.host.paths.get p).rdShadow := by
  unfold State.latchResults
  split <;> simp

theorem State.keepsTaken.latchResults {t : State} (k : s.keepsTaken t p []) (a : Nat) : s.keepsTaken (t.latchResults p a) p [] := by
  unfold State.latchResults
  split
  · exact k.updPath _
  · exact k

end

/-- The address of a channel's REG_STATUS. -/
abbrev IsRegStatus (a : Nat) : Prop := 0x308000 ≤ a ∧ a < 0x308400 ∧ a % 0x40 = 0xC

section
variable {a : Nat} (h : IsRegStatus a)
include h

theorem IsRegStatus.regResult_self : regResult a = none := by
  obtain ⟨_, _, _⟩ := h
  exact if_neg (by omega)

/-- The six words behind REG_STATUS are the results of its channel. -/
theorem IsRegStatus.regResult_behind {k : Nat} (hk : k < 6) : regResult (a + 4 + 4 * k) = some ((a - 0x308000) / 0x40, k) := by
  obtain ⟨_, _, _⟩ := h
  rw [regResult, if_pos (by omega), show (a + 4 + 4 * k - 0x308000) / 0x40 = (a - 0x308000) / 0x40 by omega,
    show ((a + 4 + 4 * k) % 0x40 - 0x10) / 4 = k by omega]

/-- A read of REG_STATUS latches each result of its channel as it reads now. -/
theorem IsRegStatus.latched_latchResults (s : State) (p : Fin 9) {k : Nat} (hk : k < 6) :
    (s.latchResults p a).latched p (a + 4 + 4 * k) = some (s.viewWord (a + 4 + 4 * k)) := by
  rw [State.latched, h.regResult_behind hk, State.latchResults, if_pos h]
  simp [hk]

theorem IsRegStatus.latched_self (s : State) (p : Fin 9) : s.latched p a = none := by
  rw [State.latched, h.regResult_self]

theorem IsRegStatus.peekPoison_self (s : State) : s.peekPoison a = false := by
  obtain ⟨_, _, _⟩ := h
  have : ¬ a < 0x140000 := by omega
  simp [State.peekPoison, this]

/-- REG_STATUS is one of 16 registers of the lane table. -/
theorem IsRegStatus.eq_channel : ∃ c : Fin 16, a = 0x30800C + 0x40 * c.val := by
  obtain ⟨_, _, _⟩ := h
  exact ⟨⟨(a - 0x308000) / 0x40, by omega⟩, by simp only; omega⟩

end

theorem regStatus_table : ∀ c : Fin 16, halfOf (0x30800C + 0x40 * c.val) = .whole ∧ rshMask (0x30800C + 0x40 * c.val) = 0 := by
  decide

end Sys2Proof.Machine
end

section
/-! PROOFS. The answers of READ (R501 – R503, R510). -/
namespace Sys2Proof.Machine

/-- Something is at the address, and a read of it completes at once (R46, R502, R503). -/
def State.servesRead (s : State) (a : Nat) : Prop := readStatus a = 0 ∧ s.readHeld a = false ∧ s.gated a false = false

/-- A read of the address completes at once with the present value of a register (R502, R503, R510). -/
def State.readsReg (s : State) (p : Fin 9) (a : Nat) : Prop :=
  s.servesRead a ∧ inBuffer a = false ∧ inWindow a = false ∧ isRsh a = false ∧ isMemData a = false ∧ s.peekPoison a = false ∧
    s.latched p a = none

/-- Rows with one meaning answer alike. -/
theorem Answers.of_exec_eq {i j : Instr} {s : State} {p : Fin 9} {r : Resp} {P : State → Prop} (h : exec i s = exec j s) (hj : Answers j s p r P) :
    Answers i s p r P := by
  rw [Answers, h]
  exact hj

theorem exec_lowHalfRead_of_low (s : State) (p : Fin 9) (tag : Byte) {addr : Word} (h : halfOf addr.toNat = .low) :
    exec (.lowHalfRead p tag addr) s = exec (.read p tag addr) s :=
  congrArg Host.Outcome.next (if_pos h)

theorem exec_highHalfRead_of_high (s : State) (p : Fin 9) (tag : Byte) {addr : Word} (h : halfOf addr.toNat = .high) :
    exec (.highHalfRead p tag addr) s = exec (.read p tag addr) s :=
  congrArg Host.Outcome.next (if_pos h)

theorem exec_regStatusRead_of_regStatus (s : State) (p : Fin 9) (tag : Byte) {addr : Word} (h : IsRegStatus addr.toNat) :
    exec (.regStatusRead p tag addr) s = exec (.read p tag addr) s :=
  congrArg Host.Outcome.next (if_pos h)

/-- A REG_STATUS is a register of its own, without a half, a snapshot or a latched value. -/
theorem IsRegStatus.readsReg {s : State} {a : Nat} (h : IsRegStatus a) (hs : s.servesRead a) (p : Fin 9) : s.readsReg p a := by
  refine ⟨hs, ?_, ?_, ?_, ?_, h.peekPoison_self s, h.latched_self s p⟩
  · simp [inBuffer]; omega
  · simp [inWindow]; omega
  · obtain ⟨c, rfl⟩ := h.eq_channel
    simp [isRsh, inMirror, regStatus_table c]
    omega
  · simp [isMemData]; omega

section
variable {s : State} {p : Fin 9} {tag : Byte} {addr : Word} (h : s.Takes p 1 tag)
include h

/-- A READ that the engine takes is checked, waits, or completes (R501 – R503). -/
theorem exec_read_of_takes :
    let a := addr.toNat
    let t := s.taken p 1 tag addr 0
    exec (.read p tag addr) s = .next (
      if readStatus a ≠ 0 then t.done p 1 tag addr (readStatus a) 0 0
      else if t.readHeld a then { t with host := { t.host with rshWait := t.host.rshWait ++ [⟨p, 1, tag, addr, 0, none⟩] } }
      else if t.gated a false then { t with host := { t.host with gateWait := t.host.gateWait ++ [(⟨p, 1, tag, addr, 0, none⟩, t.xt)] } }
      else t.finishRead p tag addr) := by
  show Host.Outcome.next (s.hostRead p tag addr) = _
  rw [State.hostRead]
  dsimp only
  rw [if_neg (by simp [h.accept_ok])]
  rfl

/-- A READ of an address with nothing there is answered with its status (R502). -/
theorem read_answers_status (hs : readStatus addr.toNat ≠ 0) :
    Answers (.read p tag addr) s p (mkResp 1 tag addr (readStatus addr.toNat) 0 0 0) fun u => u = s.taken p 1 tag addr 0 :=
  ⟨_, by rw [exec_read_of_takes h, if_pos hs]; rfl, rfl⟩

/-- A READ that need not wait answers what a read after its acceptance returns (R503). -/
theorem read_answers {w : Word} {x : Nat} {u : State} {P : State → Prop} (hs : s.servesRead addr.toNat)
    (hn : (s.taken p 1 tag addr 0).readNow p addr.toNat = (w, x, u)) (hP : P u) :
    Answers (.read p tag addr) s p (mkResp 1 tag addr 0 w.toNat 0 x) P := by
  obtain ⟨status, held, gated⟩ := hs
  have k := h.keepsTaken addr 0
  refine ⟨u, ?_, hP⟩
  rw [exec_read_of_takes h, if_neg (not_not_intro status), k.readHeld, if_neg (by simp [held]), k.gated_read, if_neg (by simp [gated]),
    State.finishRead, hn]
  rfl

/-- A READ of a register answers under the 64-bit rule (R510). -/
theorem read_answers_reg {w : Word} {x : Nat} {u : State} {P : State → Prop} (hr : s.readsReg p addr.toNat)
    (hn : (s.taken p 1 tag addr 0).readReg p addr.toNat = (w, x, u)) (hP : P u) :
    Answers (.read p tag addr) s p (mkResp 1 tag addr 0 w.toNat 0 x) P := by
  obtain ⟨hs, buffer, window, rsh, memData, poison, latched⟩ := hr
  refine read_answers h hs ((State.readNow_reg buffer window rsh memData ?_ ?_).trans hn) hP
  · rw [h.taken_latched, latched]
  · rw [(h.keepsTaken addr 0).peekPoison, poison]

end

end Sys2Proof.Machine
end

section
open Sys2Proof.Machine

/-- Settles O19: after acceptance a read finds what stood before it, and each kind of address has its own reading. -/
theorem registerReads : Obligations.RegisterReads := by
  unfold Obligations.RegisterReads
  intro s p tag addr h a t reads served plain live
  have k := h.keepsTaken addr 0
  refine ⟨fun ha => ?_, fun hs hb => ?_, fun hs hb hw hr => ?_, fun hp hh ha => ?_, fun hp hh => ?_, fun hp hh => ?_, fun hs h0 h1 h2 => ?_,
    fun v hs hb hw hr hm hl => ?_⟩
  · have status : readStatus a = 3 := if_pos ha
    obtain ⟨u, he, rfl⟩ := read_answers_status (addr := addr) h (by rw [status]; decide)
    rw [status] at he
    exact ⟨_, he, k, rfl⟩
  · rw [← h.taken_buf addr 0]
    exact read_answers h hs (State.readNow_buffer hb) ⟨k, rfl⟩
  · rw [← k.rshWord]
    exact read_answers h hs (State.readNow_rsh hb hw hr) ⟨k, rfl⟩
  · have shadow : ((t.latchResults p a).host.paths.get p).rdShadow = (s.host.paths.get p).rdShadow :=
      (State.latchResults_rdShadow a).trans (h.taken_rdShadow addr 0)
    exact read_answers_reg h hp (State.readReg_whole t p hh ha) ⟨k.latchResults a, State.latchResults_out a, shadow⟩
  · have low : reads (.read p tag addr) 0 live 0 fun u =>
        (u.host.paths.get p).rdShadow = some (a + 4, t.viewWord (a + 4) &&& readMask (a + 4)) :=
      read_answers_reg h hp (State.readReg_low t p hh) ⟨k.updPath _, congrArg PathSt.rdShadow (t.path_updPath_same p _)⟩
    exact List.forall_mem_cons.2 ⟨low, List.forall_mem_singleton.2 (low.of_exec_eq (exec_lowHalfRead_of_low s p tag hh))⟩
  · have shadow : ∀ v, (s.host.paths.get p).rdShadow = some (a, v) →
        reads (.read p tag addr) 0 v 0 fun u => (u.host.paths.get p).rdShadow = none := fun v hv =>
      read_answers_reg h hp (State.readReg_high_shadow t p hh ((h.taken_rdShadow addr 0).trans hv))
        ⟨k.updPath _, congrArg PathSt.rdShadow (t.path_updPath_same p _)⟩
    have torn : (∀ v, (s.host.paths.get p).rdShadow ≠ some (a, v)) → reads (.read p tag addr) 0 live 1 fun u => u.host.paths = t.host.paths :=
      fun hv => read_answers_reg h hp (State.readReg_high_torn t p hh (by rw [h.taken_rdShadow]; exact hv)) ⟨k, rfl⟩
    have high := exec_highHalfRead_of_high s p tag hh
    exact List.forall_mem_cons.2 ⟨⟨shadow, torn⟩,
      List.forall_mem_singleton.2 ⟨fun v hv => (shadow v hv).of_exec_eq high, fun hv => (torn hv).of_exec_eq high⟩⟩
  · have status : IsRegStatus a := ⟨h0, h1, h2⟩
    obtain ⟨c, hc⟩ := status.eq_channel
    have whole : halfOf a = .whole := hc ▸ (regStatus_table c).1
    exact Answers.of_exec_eq (exec_regStatusRead_of_regStatus s p tag status) <|
      read_answers_reg h (status.readsReg hs p) (State.readReg_whole t p whole (by omega))
        ⟨k.latchResults a, fun i hi => status.latched_latchResults t p hi⟩
  · exact read_answers h hs (State.readNow_latched hb hw hr hm ((h.taken_latched addr 0 a).trans hl)) ⟨k, rfl⟩

end
